-- ==== Sys2Proof/Word.lean ====
section
/-! DEFINITION. Word.lean: the word types of the model and the shape of sparse tables. -/

namespace Sys2Proof

/-- A byte of a register, a memory or a packet. -/
abbrev Byte := BitVec 8

/-- A 32-bit register (R4, 00_scope.md). -/
abbrev Word := BitVec 32

/-- An item of a flow: 64 bytes, byte 0 in the least significant place (07_flow_scheduler.md, Table 7-5). -/
abbrev Item := BitVec 512

/-- The item whose 64 bytes are zero. -/
def zeroItem : Item := 0#512

/-- A sparse table: pairs of a key and a value, keys strictly rising, no pair that holds the table's default value. -/
abbrev Tab (α : Type) := List (Nat × α)

/-- Bytes by address, in the canonical form of `Tab`; an address that is not listed reads 0. -/
abbrev Memory := Tab Byte

end Sys2Proof
end

