-- ==== Sys2Proof/Syntax.lean ====
section
/-! DEFINITION. Syntax.lean: the commands of the block, one constructor per row of the spec's table of operations and
events (opcode_table.json), with the operands each takes from outside. -/

namespace Sys2Proof

/-- Where a host command comes from (R326, R332, R339): a port's submission ring, a port's mailbox, or the sideband. -/
inductive CmdSrc where
  | ring (port : Fin 2) (n : Fin 4)
  | mailbox (port : Fin 2)
  | sideband
  deriving DecidableEq, Repr

/-- A host command as it reaches the command processor (R342): the header's fields, its parameter bytes, and the bytes
that its host buffer holds (`none`: the read of the buffer fails, R318). `hdr` is what the first two checks of R347 find
in the header as it arrives: 0 nothing, 1 a wrong CRC, 2 a field outside its encoding. -/
structure Cmd where
  src    : CmdSrc := .sideband
  opcode : BitVec 16 := 0
  reply  : Bool := true
  fence  : Bool := false
  long   : Bool := false
  tag    : BitVec 32 := 0
  sem    : BitVec 16 := 0xFFFF
  tclass : BitVec 8 := 0
  tindex : BitVec 24 := 0
  hbuf   : BitVec 64 := 0
  hlen   : BitVec 32 := 0
  params : List Byte := []
  buf    : Option (List Byte) := some []
  hdr    : BitVec 2 := 0
  deriving DecidableEq, Repr

/-- An access that the other port makes to the same register in the same hub cycle (R453). -/
inductive HostAccess where
  | read
  | write (v : BitVec 32)
  deriving DecidableEq, Repr

/-- The BARs with registers (Table 12-2): BAR0 holds the register file, BAR4 the MSI-X table. -/
inductive Bar where
  | bar0 | bar4
  deriving DecidableEq, Repr

/-- How the boot steps of a start end (R396). -/
inductive BootEnd where
  | good | romFailed | loopFailed
  deriving DecidableEq, Repr

/-- A block that the retired-block list can name (R407), or a clock loop of a fabric die, which stands for its blocks. -/
inductive Block where
  | caster (n : Nat) | link (n : Nat) | channel (n : Nat) | enc (n : Nat) | tdc (n : Nat) | delayLine (n : Nat)
  | sensor (n : Nat) | monitor (n : Nat) | loop (n : Nat)
  deriving DecidableEq, Repr

/-- How a port is lost (R324, R337). -/
inductive LossKind where
  | linkDown | perst | hotReset | flr
  deriving DecidableEq, Repr

/-- A rail (Table 19-2). -/
inductive RailId where
  | fabN | fabS | cast | hub | srdL | srdH | ddq | io (bank : Fin 6) | aux | nv
  deriving DecidableEq, Repr

/-- What wakes the device from STABLED (R404). -/
inductive WakeKind where
  | pin (n : Fin 16) | sideband | rstRise
  deriving DecidableEq, Repr

/-- What an upset changes (R387, R373, R103, R143, R295): bits of one stored word with its check bits. -/
inductive UpsetAt where
  | frame (addr : Nat) (bit : Nat)
  | bin (bin word : Nat) (bit : Nat)
  | casterMem (c : Fin 256) (word : Nat) (bit : Nat)
  | casterStore (c : Fin 256) (word : Nat) (bit : Nat)
  | ddr (beat : Nat) (bit : Nat)
  deriving DecidableEq, Repr

/-- What a host-memory read was for (R318). -/
inductive HostRead where
  | fetch (n : Fin 4)
  | buffer (job : Nat)
  deriving DecidableEq, Repr

/-- A crossing between the fabric and an island (R444): an adapter lane, a delivery lane or a pin's in-lane towards the
fabric; an operation port's lane, a pin's out-lane, a tick input or a muster request port towards the island. -/
inductive Crossing where
  | adapter (l : Fin 128) (j : Fin 4) | del (n : Fin 512) (j : Fin 8) | pinIn (g : Fin 96)
  | op (n : Fin 512) (j : Fin 9) | pinOut (g : Fin 96) | tick (n : Fin 8) | muster (d : Fin 2)
  deriving DecidableEq, Repr

/-- An instruction of the JTAG port (R427). -/
inductive JtagIns where
  | bypass | idcode | sample | extest | extestPulse | extestTrain | clamp | highz | preload
  | internal (code : Nat)
  deriving DecidableEq, Repr

/-- What comes in on the JTAG port: an instruction, and what is then shifted into the register it selects, by pad: a level
driven, or none (R427). -/
structure JtagLoad where
  ins   : JtagIns
  cells : List (Option Bool)
  deriving DecidableEq, Repr

/-- A transition of an encoder input: its instant, in 1/64 ns, and the time for which the new level then stands (R263). -/
structure LevelEdge where
  t    : Nat
  held : Nat
  deriving DecidableEq, Repr

/-- The rest of a sideband write: the command code it names (Table 12-8), whether its PEC is right, and whether `RECOVERY_L`
is low when it ends (R338, R393). -/
structure SideWrite where
  code        : Byte
  pecOk       : Bool
  recoveryLow : Bool
  deriving DecidableEq, Repr

/-- The commands of the block. -/
inductive Instr where
  /-- `GET_IDENTITY` (R422). Returns the fused identity of the family, the device, the unit and each die. -/
  | getIdentity (c : Cmd)
  /-- `GET_STATE` (R357). Returns the device state, the life-cycle state, yard time and the state of every paddock. -/
  | getState (c : Cmd)
  /-- `SET_STATE` (R358). Moves the device between SERVICE and DOZE, or into STABLED without a shutdown record. -/
  | setState (c : Cmd)
  /-- `GET_HEALTH` (R357). Returns health flags, temperatures and the eligibility and failure bitmaps of the device's resources. -/
  | getHealth (c : Cmd)
  /-- `ECHO` (R357). Returns its parameter block unchanged. -/
  | echo (c : Cmd)
  /-- `SEM_BIND` (R325). Binds resources to a hardware semaphore, or unbinds them, when the submitting port holds the semaphores concerned. -/
  | semBind (c : Cmd)
  /-- `POUR_PATTERN` (R374). Checks a full pattern from a flash slot or a host buffer and, once accepted, starts pouring it into all 64 paddocks. -/
  | pourPattern (c : Cmd)
  /-- `POUR_PARTIAL` (R374). Checks a partial pattern and, once accepted, starts pouring it into the paddocks of its mask while the other paddocks run on. -/
  | pourPartial (c : Cmd)
  /-- `ISOLATE_PADDOCK` (R382). Stops deliveries and admission into a paddock, then waits for its outgoing lanes to empty before parking it. -/
  | isolatePaddock (c : Cmd)
  /-- `RELEASE_PADDOCK` (R383). Returns an ISOLATED paddock to LIVE, optionally withdrawing its release stages and running the release sequence again. -/
  | releasePaddock (c : Cmd)
  /-- `READBACK_FRAMES` (R388). Returns configuration, state or bin content frames in address order, checking and correcting each frame as the fettler does. -/
  | readbackFrames (c : Cmd)
  /-- `FETTLER_CONFIG` (R387). Enables or stops the fettler and sets its sweep period. -/
  | fettlerConfig (c : Cmd)
  /-- `FLASH_WRITE` (R364). Erases if asked, programs a flash range and verifies it by reading it back. -/
  | flashWrite (c : Cmd)
  /-- `FLASH_READ` (R363). Reads a range of one flash device or of the combined parallel address space. -/
  | flashRead (c : Cmd)
  /-- `SET_RELEASE_ORDER` (R359). Sets or clears an override of the release order and delays for the named paddocks. -/
  | setReleaseOrder (c : Cmd)
  /-- `CXP_DISCOVER` (R231). Powers the named links if asked, runs discovery at CXP-1 and leaves each link UP as a port group of one. -/
  | cxpDiscover (c : Cmd)
  /-- `CXP_SET_LINK` (R232). Sets the rate of a port group through its master link and retrains the group's receivers. -/
  | cxpSetLink (c : Cmd)
  /-- `CXP_GROUP` (R233). Forms a port group from aligned links that are UP and applies the group settings, or returns the settings in force. -/
  | cxpGroup (c : Cmd)
  /-- `CXP_CTRL_READ` (R235). Forwards a camera register read through the group's master link as tagged control packets. -/
  | cxpCtrlRead (c : Cmd)
  /-- `CXP_CTRL_WRITE` (R235). Forwards a camera register write through the group's master link without retrying it. -/
  | cxpCtrlWrite (c : Cmd)
  /-- `CXP_STREAM_ENABLE` (R256). Starts or stops stream reception of the named groups, emptying the trigger log on a start. -/
  | cxpStreamEnable (c : Cmd)
  /-- `CXP_PIXEL_STORE` (R250). Sets a group's pixel store ring, its decimation, its truncation and its optional host preview. -/
  | cxpPixelStore (c : Cmd)
  /-- `ENC_CONFIG` (R260). Sets an encoder's decoding mode, source, filter, index handling, velocity window and optional preset. -/
  | encConfig (c : Cmd)
  /-- `TRIG_GEN_CONFIG` (R270). Sets a trigger generator's encoder, grid, travel mode, placement and output masks. -/
  | trigGenConfig (c : Cmd)
  /-- `TRIG_GEN_ARM` (R274). Arms the named generators in one engine cycle, each with its first sequence number. -/
  | trigGenArm (c : Cmd)
  /-- `TRIG_GEN_STOP` (R274). Returns the named generators to IDLE and discards every instant not yet begun. -/
  | trigGenStop (c : Cmd)
  /-- `HEAD_OFFSETS` (R282). Sets the head offset, minimum spacing, pulse width and polarity of the named outputs. -/
  | headOffsets (c : Cmd)
  /-- `POSITION_COMPARE` (R288). Arms or disarms a compare unit on an encoder position, direction and action mask. -/
  | positionCompare (c : Cmd)
  /-- `GRAPH_LOAD` (R175). Checks a graph image and replaces the loaded graph of operations, collectors and port modes whole. -/
  | graphLoad (c : Cmd)
  /-- `FLOW_CONFIG` (R180). Opens, sets the priority of, or closes a range of flows. -/
  | flowConfig (c : Cmd)
  /-- `FLOW_SUBMIT` (R183). Checks host items and admits them to their flows as class H, waiting for space when the command is long-running. -/
  | flowSubmit (c : Cmd)
  /-- `FLOW_DRAIN` (R203). Makes a range of OPEN flows DRAINING, in wait or discard mode, until they close. -/
  | flowDrain (c : Cmd)
  /-- `SCHED_TRACE` (R221). Enables, reconfigures or disables the scheduling trace, or rearms its muster match. -/
  | schedTrace (c : Cmd)
  /-- `COOL_CONFIG` (R213). Sets the yard-time period, the sources of the user tick domains and the cooling profiles. -/
  | coolConfig (c : Cmd)
  /-- `SPILL_CONFIG` (R187). Sets the pool thresholds and the watermarks of the pool and spill notices. -/
  | spillConfig (c : Cmd)
  /-- `KERNEL_LOAD` (R166). Checks a kernel image and loads it into the target casters once their ladles have drained. -/
  | kernelLoad (c : Cmd)
  /-- `CASTER_STATUS` (R169). Returns a 32-byte status record for each named caster. -/
  | casterStatus (c : Cmd)
  /-- `CASTER_RETIRE` (R167). Retires the named casters, optionally forced or persistent, or restores casters retired by command. -/
  | casterRetire (c : Cmd)
  /-- `MEM_MAP` (R300). Replaces the DDR5 region map whole, optionally persisting it in the studbook. -/
  | memMap (c : Cmd)
  /-- `MEM_READ` (R310). Reads 64 to 4,064 bytes of device memory, subject to the region rights. -/
  | memRead (c : Cmd)
  /-- `MEM_WRITE` (R310). Writes 64 to 4,064 bytes of device memory, subject to the region rights. -/
  | memWrite (c : Cmd)
  /-- `MEM_TRAIN` (R307). Stores a descriptor, or recalibrates, fully retrains, retires or restores a DDR5 channel. -/
  | memTrain (c : Cmd)
  /-- `MUSTER_ARM` (R413). Sets the enabled muster sources, the rearm policy, the quiescence timeout and the error event mask. -/
  | musterArm (c : Cmd)
  /-- `MUSTER_FIRE` (R415). Raises a command muster request and completes when the muster is complete. -/
  | musterFire (c : Cmd)
  /-- `MUSTER_READ` (R420). Returns the muster record of the named block and instance. -/
  | musterRead (c : Cmd)
  /-- `LC_STATUS` (R357). Returns the life-cycle state, the scan and zeroise flags, the nonce and the programmed key slots. -/
  | lcStatus (c : Cmd)
  /-- `LC_ADVANCE` (R425). Checks a signed tail and advances the life-cycle state, zeroising first. -/
  | lcAdvance (c : Cmd)
  /-- `KEY_PROVISION` (R357). Unwraps and programs a device key into an eFuse or studbook key slot. -/
  | keyProvision (c : Cmd)
  /-- `BIST_RUN` (R406). Runs the selected built-in self-tests, retiring failing blocks if asked, after a zeroise. -/
  | bistRun (c : Cmd)
  /-- `SCAN_ENABLE` (R427). Checks a signed tail, zeroises, locks the key slots and enables the internal scan instructions. -/
  | scanEnable (c : Cmd)
  /-- `GOVERNOR_CONFIG` (R127). Sets the parameters of the rate governor for both dies. -/
  | governorConfig (c : Cmd)
  /-- `SHUTDOWN` (R361). Enters SHUTTING_DOWN, aborts other long-running commands and starts the shutdown sequence. -/
  | shutdown (c : Cmd)
  /-- `WAKE_CONFIG` (R357). Sets the bank 0 wake pins, the signalling of WAKE_A_L and WAKE_B_L, and waking by the sideband. -/
  | wakeConfig (c : Cmd)
  /-- `IDENT` (R338). Sideband block read of the device identity. -/
  | ident
  /-- `STATE` (R338). Sideband read of the device state. -/
  | state
  /-- `HEALTH` (R339). Sideband block read of the health summary, with its stale marker. -/
  | health
  /-- `TEMPS` (R339). Sideband block read of the hottest and coldest die temperatures, with its stale marker. -/
  | temps
  /-- `SIDEBAND_SHUTDOWN` (R339). A sideband SHUTDOWN write acts as SHUTDOWN with its defaults, or as a wake event in STABLED when so configured. -/
  | sidebandShutdown (b0 b1 : Byte) (w : SideWrite)
  /-- `ALERT_RESPONSE` (R338). An answer to the SMBus Alert Response Address releases SMB_ALERT_L. -/
  | alertResponse
  /-- `SIDEBAND_REFRESH` (R338). At least every 10 ms the device refreshes the data that the sideband returns. -/
  | sidebandRefresh
  /-- `COMMAND_FETCH` (R329). The device fetches a command from a submission ring when its slots are written, its reply ring is ACTIVE and no reply waits, and begins it with the checks of R347. -/
  | commandFetch (p : Fin 2) (n : Fin 4) (whole : BitVec 4) (slots : List Byte) (buf : Option (List Byte))
  /-- `REPLY_WRITE` (R330). A reply waiting for space is written to its reply ring once enough slots are free. -/
  | replyWrite (p : Fin 2) (n : Fin 4)
  /-- `IMOD_EXPIRY` (R319). At the end of a ring's interrupt moderation time, one message signals the updates made during it. -/
  | imodExpiry (p : Fin 2) (r : Fin 24)
  /-- `GO` (R332). Writing 1 to HP_MBX_DB.GO starts the command held in the port's mailbox window. -/
  | go (by_ p : Fin 2) (v : BitVec 32) (buf : Option (List Byte))
  /-- `HP_SQ_TAIL` (R328). A write of a submission ring's tail is accepted if it moves forward within the ring, otherwise it sets HP_ERR.DB. -/
  | hpSqTail (by_ p : Fin 2) (n : Fin 4) (v : BitVec 32)
  /-- `HP_RQ_HEAD` (R328). A write of a reply ring's head frees consumed reply slots if it moves forward within the written slots. -/
  | hpRqHead (by_ p : Fin 2) (n : Fin 4) (v : BitVec 32)
  /-- `HP_RR_REL` (R334). A write of a result ring's release index marks the released slots NOT_READY and frees them. -/
  | hpRrRel (by_ p : Fin 2) (r : Fin 16) (v : BitVec 32)
  /-- `RING_ENABLE` (R327). Writing HP_RCFG.EN from 0 to 1 puts a ring in ENABLING, zeroes its indices and starts writing its control page and slot words. -/
  | ringEnable (by_ p : Fin 2) (v : BitVec 32)
  /-- `RING_ACTIVE` (R327). When the enable writes are done, the ring becomes ACTIVE. -/
  | ringActive (p : Fin 2) (r : Fin 24)
  /-- `RING_DISABLE` (R327). Writing HP_RCFG.EN from 1 to 0 makes the ring DISABLED, holding its replies and results. -/
  | ringDisable (by_ p : Fin 2) (v : BitVec 32)
  /-- `SEM_TAKE` (R322). A read of SEM_s that finds it free takes it for the reading port, with ties settled by TIE. -/
  | semTake (p : Fin 2) (both : Bool) (n : Fin 64)
  /-- `SEM_RELEASE` (R322). A write of 1 to SEM_s.RELEASE by the owner frees the semaphore; a write by another port is ignored and counted. -/
  | semRelease (p : Fin 2) (n : Fin 64) (v : BitVec 32)
  /-- `CLAIM` (R324). Writing 1 to HP_CTL.CLAIM stops a running grace timer so the port keeps its semaphores. -/
  | claim (by_ p : Fin 2) (v : BitVec 32)
  /-- `MUS_ACK` (R419). A write of the last muster's sequence number to MUS_ACK acknowledges it. -/
  | musAck (v : BitVec 32)
  /-- `URST` (R79). Writing 1 to PDK_CTL.URST of a LIVE paddock asserts a user global reset on it. -/
  | urst (k : Fin 64) (v : BitVec 32)
  /-- `USER_RESET_RELEASE` (R79). 100 ns after a user global reset is asserted, RESET is released and initial tokens load. -/
  | userResetRelease (k : Fin 64)
  /-- `PULSE` (R80). Writing 1 to TREE_USERn.PULSE gives one pulse on a USER tree whose source is the pulse register. -/
  | pulse (n : Fin 3) (v : BitVec 32)
  /-- `LINK_OFF` (R258). Writing 1 to CXP_CTL.LINK_OFF takes the link to OFF, deasserts its PoCXP enable and stops its group. -/
  | linkOff (n : Fin 128) (v : BitVec 32)
  /-- `TRC_RDIDX` (R224). A write of TRC_RDIDX frees trace ring space in FILL mode unless it would exceed the capacity. -/
  | trcRdidx (v : BitVec 32)
  /-- `GPIO_FUNC_WRITE` (R435). A write that changes a pin's FUNC or ROLE starts a switch interval during which the pad holds its level. -/
  | gpioFuncWrite (n : Fin 96) (v : BitVec 32)
  /-- `SWITCH_INTERVAL_END` (R435). At the end of the switch interval the new function takes the pad. -/
  | switchIntervalEnd (n : Fin 96)
  /-- `VIEW_CAPTURE_READ` (R455). A read of a capture register captures every view of the selected instance in one island cycle. -/
  | viewCaptureRead (p : Fin 2) (addr : BitVec 24) (tie : Option HostAccess)
  /-- `LOW_WORD_CAPTURE_READ` (R454). A read of the low word of a wide value captures its high word for the next read. -/
  | lowWordCaptureRead (p : Fin 2) (addr : BitVec 24) (tie : Option HostAccess)
  /-- `RC_READ` (R5). A read of a register with RC fields returns their values and clears them in the same access. -/
  | rcRead (p : Fin 2) (bar : Bar) (addr : BitVec 24) (tie : Option HostAccess)
  /-- `REGISTER_WRITE` (R5). A write to a register with no row of its own updates its RW, W1C and W1S fields by their access types. -/
  | registerWrite (p : Fin 2) (bar : Bar) (addr : BitVec 24) (v : BitVec 32) (tie : Option HostAccess)
  /-- `BAR0_BAD_ACCESS` (R316). A BAR0 access that breaks the alignment rule, or a write to another port's block, is ignored and sets HP_ERR.ACC. -/
  | bar0BadAccess (p : Fin 2) (addr : BitVec 24) (size : BitVec 13) (write : Bool)
  /-- `APERTURE_ACCESS` (R317). A host access to the BAR2 aperture reaches device memory through the yard links, subject to region rights. -/
  | apertureAccess (p : Fin 2) (off : BitVec 28) (write : Bool) (data : List (Option Byte))
  /-- `RESULT_WINDOW_READ` (R335). A host read of a BAR2 result window returns the control page or slots of a window-placed result ring. -/
  | resultWindowRead (p : Fin 2) (off : BitVec 28) (len : Nat)
  /-- `CONFIGURATION_REQUEST` (R314). A PCI Express configuration request is answered, with retry status until the endpoint is ready. -/
  | configurationRequest (p : Fin 2) (off : BitVec 12) (write : Bool) (v : BitVec 32)
  /-- `PORT_LOSS` (R337). A link-down, PERST_x_L assertion, hot reset or function-level reset of one port disables its rings and DMA and starts its grace timer. -/
  | portLoss (p : Fin 2) (why : LossKind)
  /-- `GRACE_EXPIRY` (R324). When a lost port's grace timer expires, its semaphores are freed and its inactive result rings enter DISCARD. -/
  | graceExpiry (p : Fin 2)
  /-- `RAIL_LOST` (R467). A rail that falls below its limits for 2 µs is lost and the device holds itself in reset. -/
  | railLost (r : RailId)
  /-- `POWER_UP` (R468). All rails in tolerance with RST_L released start STARTING from OFF. -/
  | powerUp (recoveryLow : Bool)
  /-- `RST_L` (R393). Holding RST_L low for 1 µs resets the whole device, and its rise starts STARTING. -/
  | rstL (level recoveryLow : Bool)
  /-- `START_UP_COMPLETE` (R395). When the start-up steps end, the device enters HALTER or RECOVERY as RECOVERY_L and the studbook decide. -/
  | startUpComplete (boot : BootEnd) (failed : BitVec 32) (blocks : List Block) (quick trained : BitVec 8)
  /-- `DEVICE_FAULT` (R355). The command processor detects an internal error, records it and enters RECOVERY or STABLED. -/
  | deviceFault (code : BitVec 16) (failed : BitVec 32) (blocks : List Block)
  /-- `LOOP_LOCK_LOST` (R443). A clock loop that loses lock while running causes a DEVICE_FAULT, a port loss or link loss by the loop. -/
  | loopLockLost (n : Fin 16)
  /-- `THERMAL_TRIP` (R475). A sensor comparator at 115 °C asserts THERMTRIP_L, stops every island and holds the device in reset. -/
  | thermalTrip (n : Fin 36)
  /-- `SENSOR_SAMPLE` (R458). Every 10 µs each temperature sensor is sampled, which may trim trees and trigger wires or raise a thermal warning. -/
  | sensorSample (n : Fin 36) (temp : Int)
  /-- `DOZE_WAKE` (R402). An enabled bank 0 wake input held low for 10 µs in DOZE starts the return to SERVICE. -/
  | dozeWake (n : Fin 16)
  /-- `DOZE_EXIT_COMPLETE` (R402). When both fabric rails read back at CEILING, the device reaches SERVICE and the casters resume. -/
  | dozeExitComplete
  /-- `SHUTDOWN_COMPLETE` (R405). When the shutdown set has run and the shutdown record is written, SHUTDOWN completes and the device enters STABLED. -/
  | shutdownComplete (failed : BitVec 32) (blocks : List Block)
  /-- `WAKE_EVENT` (R404). A wake input, a sideband wake or an RST_L rise in STABLED deasserts STBY_L and waits for the rails. -/
  | wakeEvent (w : WakeKind) (recoveryLow : Bool)
  /-- `WAKE_RAIL_TIMEOUT` (R404). If the rails are not in tolerance within 1 s of a wake, STBY_L is asserted again and the device stays in STABLED. -/
  | wakeRailTimeout
  /-- `WAKE_RAILS_GOOD` (R404). When every rail is in tolerance after a wake, the device begins STARTING. -/
  | wakeRailsGood
  /-- `FIRING` (R25). A stall whose fire conditions hold evaluates its macrocells, presents its outputs and acknowledges the ports whose consume control is met. -/
  | firing (k : Fin 64) (n : Fin 2048) (grant : BitVec 3)
  /-- `GANG_FIRING` (R39). A gang whose control token and selected input are complete passes that input to the head's X output. -/
  | gangFiring (k : Fin 64) (n : Fin 2048)
  /-- `GATE_CELL_DISCARD` (R69). An isolating gate cell set to DRAIN acknowledges, discards and counts a token offered into it. -/
  | gateCellDiscard (k : Fin 64) (n : Fin 16384)
  /-- `PARK` (R71). When a paddock's outgoing lanes are empty, its lanes out isolate, partial tokens are discarded and it becomes ISOLATED. -/
  | park (k : Fin 64)
  /-- `ISOLATE_LIMIT_EXPIRY` (R382). When the isolation limit expires with a lane still busy, the paddock is parked anyway. -/
  | isolateLimitExpiry (k : Fin 64)
  /-- `ROW_TAP_EVENT` (R81). A tree event reaching a row tap is queued and delivered as tokens, or discarded as an overrun. -/
  | rowTapEvent (k : Fin 64) (row : Fin 32)
  /-- `BIN_READ` (R90). A RAM read request presents the addressed word on the port's output lanes. -/
  | binRead (k : Fin 64) (n : Fin 64) (port : Fin 2)
  /-- `BIN_WRITE` (R90). A RAM write request stores one word from the port's write-data lanes. -/
  | binWrite (k : Fin 64) (n : Fin 64) (port : Fin 2)
  /-- `FIFO_WRITE` (R92). A FIFO-mode bin takes a word when all its write-data lanes hold tokens and it is not full. -/
  | fifoWrite (k : Fin 64) (n : Fin 64)
  /-- `FIFO_READ` (R92). The oldest FIFO word leaves when every used output lane has acknowledged it. -/
  | fifoRead (k : Fin 64) (n : Fin 64)
  /-- `ITEM_WRITE` (R93). A priority FIFO acknowledges a header pair when space is free, assigns a handle and takes the item's words. -/
  | itemWrite (k : Fin 64) (n : Fin 64)
  /-- `ITEM_SELECT` (R94). After the previous item is fully acknowledged, the priority FIFO selects the next readable item and presents it. -/
  | itemSelect (k : Fin 64) (n : Fin 64)
  /-- `RELEASE` (R96). Priority FIFO command that frees a read-held item by its handle. -/
  | release (k : Fin 64) (n : Fin 64)
  /-- `RELEASE_THROUGH_MARK` (R96). Priority FIFO command that frees every read-held item read before a mark and clears earlier marks. -/
  | releaseThroughMark (k : Fin 64) (n : Fin 64)
  /-- `SAVE_MARK` (R96). Priority FIFO command that saves a mark at the present point of the read sequence. -/
  | saveMark (k : Fin 64) (n : Fin 64)
  /-- `REWIND` (R96). Priority FIFO command that makes items read since a mark unread again. -/
  | rewind (k : Fin 64) (n : Fin 64)
  /-- `CLEAR_MARK` (R96). Priority FIFO command that clears a saved mark. -/
  | clearMark (k : Fin 64) (n : Fin 64)
  /-- `SEGMENT_READ` (R376). A pour segment that has been read is decrypted, its tag and header checked and its frames written. -/
  | segmentRead (ok : Bool)
  /-- `POUR_LIFT_READY` (R131). When the die's rail reads back at least 0.75 V after the pour lift, frame writes to that die may begin. -/
  | pourLiftReady (d : Fin 2)
  /-- `RELEASE_STAGE` (R379). After its delay, the next release stage of a pour or paddock release takes effect, and after the third the paddocks become LIVE. -/
  | releaseStage (job : Nat)
  /-- `FETTLER_FRAME` (R386). At its share of the sweep period the fettler checks one frame and corrects it or marks its paddock FAULTED. -/
  | fettlerFrame (d : Fin 2)
  /-- `FETTLER_WRITE` (R133). A correction held for the rail is written once the rail reaches 0.70 V, and the lift is removed. -/
  | fettlerWrite (d : Fin 2)
  /-- `GOVERNOR_WINDOW` (R128). At the end of each governor window, slack is computed for each die and the rail stepped up, down or to the ceiling. -/
  | governorWindow
  /-- `AVSBUS_RESPONSE` (R125). An AVSBus transaction completes, is retried on a bad or missing response, or sets AVS_FAULT after three failures. -/
  | avsbusResponse (d : Fin 2) (ok : Bool) (mv : Nat)
  /-- `TAKE` (R157). Takes the oldest placed item into a vector register when its slot is READY, or waits. -/
  | take (c : Fin 256)
  /-- `EMIT` (R158). Sends one result of the current item to its flow's collector through the output half. -/
  | emit (c : Fin 256)
  /-- `PASS` (R158). Sends one item along a successor edge of the current operation through the output half. -/
  | pass (c : Fin 256)
  /-- `DONE` (R160). Waits for busy DMA tags, places the item's completion in the output half and empties its slot. -/
  | done (c : Fin 256)
  /-- `TRAP` (R162). Raises a TRAP fault with a code. -/
  | trap (c : Fin 256)
  /-- `NOP` (R148). Does nothing. -/
  | nop (c : Fin 256)
  /-- `SLI` (R148). Loads an immediate into a scalar register. -/
  | sli (c : Fin 256)
  /-- `SADD` (R148). Scalar add. -/
  | sadd (c : Fin 256)
  /-- `SSUB` (R148). Scalar subtract. -/
  | ssub (c : Fin 256)
  /-- `SMUL` (R148). Scalar multiply, low 32 bits. -/
  | smul (c : Fin 256)
  /-- `SAND` (R148). Scalar AND. -/
  | sand (c : Fin 256)
  /-- `SOR` (R148). Scalar OR. -/
  | sor (c : Fin 256)
  /-- `SXOR` (R148). Scalar XOR. -/
  | sxor (c : Fin 256)
  /-- `SSHL` (R148). Scalar shift left. -/
  | sshl (c : Fin 256)
  /-- `SSHR` (R148). Scalar shift right, arithmetic when signed. -/
  | sshr (c : Fin 256)
  /-- `BEQ` (R148). Branches if two scalars are equal. -/
  | beq (c : Fin 256)
  /-- `BNE` (R148). Branches if two scalars differ. -/
  | bne (c : Fin 256)
  /-- `BLT` (R148). Branches if one scalar is less than another. -/
  | blt (c : Fin 256)
  /-- `BGE` (R148). Branches if one scalar is at least another. -/
  | bge (c : Fin 256)
  /-- `JMP` (R148). Jumps to an instruction index. -/
  | jmp (c : Fin 256)
  /-- `VLD` (R148). Loads 64 bytes of local memory into a vector register. -/
  | vld (c : Fin 256)
  /-- `VST` (R148). Stores the masked lanes of a vector register to local memory. -/
  | vst (c : Fin 256)
  /-- `SLD` (R148). Loads 4 bytes into a scalar register. -/
  | sld (c : Fin 256)
  /-- `SST` (R148). Stores a scalar register to 4 bytes. -/
  | sst (c : Fin 256)
  /-- `ALD` (R148). Loads 256 bytes into an accumulator. -/
  | ald (c : Fin 256)
  /-- `AST` (R148). Stores an accumulator to 256 bytes. -/
  | ast (c : Fin 256)
  /-- `VADD` (R148). Vector add mod 256. -/
  | vadd (c : Fin 256)
  /-- `VSUB` (R148). Vector subtract mod 256. -/
  | vsub (c : Fin 256)
  /-- `VADDSAT` (R148). Vector saturating add. -/
  | vaddsat (c : Fin 256)
  /-- `VSUBSAT` (R148). Vector saturating subtract. -/
  | vsubsat (c : Fin 256)
  /-- `VMIN` (R148). Vector lane minimum. -/
  | vmin (c : Fin 256)
  /-- `VMAX` (R148). Vector lane maximum. -/
  | vmax (c : Fin 256)
  /-- `VABSD` (R148). Vector absolute difference. -/
  | vabsd (c : Fin 256)
  /-- `VAND` (R148). Vector AND. -/
  | vand (c : Fin 256)
  /-- `VOR` (R148). Vector OR. -/
  | vor (c : Fin 256)
  /-- `VXOR` (R148). Vector XOR. -/
  | vxor (c : Fin 256)
  /-- `VSHL` (R148). Vector shift left. -/
  | vshl (c : Fin 256)
  /-- `VSHR` (R148). Vector shift right. -/
  | vshr (c : Fin 256)
  /-- `VSEL` (R148). Selects lanes from two operands by a lane mask. -/
  | vsel (c : Fin 256)
  /-- `VMOV` (R148). Vector move. -/
  | vmov (c : Fin 256)
  /-- `VCEQ` (R148). Lane compare equal into a mask. -/
  | vceq (c : Fin 256)
  /-- `VCNE` (R148). Lane compare not equal into a mask. -/
  | vcne (c : Fin 256)
  /-- `VCLT` (R148). Lane compare less than into a mask. -/
  | vclt (c : Fin 256)
  /-- `VCGE` (R148). Lane compare greater or equal into a mask. -/
  | vcge (c : Fin 256)
  /-- `KAND` (R148). Mask AND. -/
  | kand (c : Fin 256)
  /-- `KOR` (R148). Mask OR. -/
  | kor (c : Fin 256)
  /-- `KNOT` (R148). Mask NOT. -/
  | knot (c : Fin 256)
  /-- `KGET` (R148). Copies a mask into a scalar pair. -/
  | kget (c : Fin 256)
  /-- `KSET` (R148). Sets a mask from a scalar pair. -/
  | kset (c : Fin 256)
  /-- `KCNT` (R148). Counts the bits set in a mask. -/
  | kcnt (c : Fin 256)
  /-- `VMAC` (R148). Lane multiply-accumulate into an accumulator. -/
  | vmac (c : Fin 256)
  /-- `VMUL` (R148). Lane multiply into an accumulator. -/
  | vmul (c : Fin 256)
  /-- `ACLR` (R148). Clears accumulator lanes. -/
  | aclr (c : Fin 256)
  /-- `AEXT` (R148). Extracts rounded, shifted, saturated accumulator lanes into a vector. -/
  | aext (c : Fin 256)
  /-- `VRSUM` (R148). Sums masked vector lanes into a scalar. -/
  | vrsum (c : Fin 256)
  /-- `VRMIN` (R148). Finds the least masked lane and its index. -/
  | vrmin (c : Fin 256)
  /-- `VRMAX` (R148). Finds the greatest masked lane and its index. -/
  | vrmax (c : Fin 256)
  /-- `ARSUM` (R148). Sums masked accumulator lanes into a scalar. -/
  | arsum (c : Fin 256)
  /-- `VPERM` (R148). Permutes vector lanes by an index vector. -/
  | vperm (c : Fin 256)
  /-- `VROT` (R148). Rotates vector lanes. -/
  | vrot (c : Fin 256)
  /-- `VGETS` (R148). Copies four lanes into a scalar. -/
  | vgets (c : Fin 256)
  /-- `VSETS` (R148). Writes a scalar into four lanes. -/
  | vsets (c : Fin 256)
  /-- `VLUT` (R148). Looks up table bytes per lane. -/
  | vlut (c : Fin 256)
  /-- `VHIST` (R148). Increments histogram counters for masked lanes. -/
  | vhist (c : Fin 256)
  /-- `DPULL` (R150). Starts a DMA from external memory or a bin into local memory on a tag. -/
  | dpull (c : Fin 256)
  /-- `DPUSH` (R150). Starts a DMA from local memory to external memory or a bin on a tag. -/
  | dpush (c : Fin 256)
  /-- `DWAIT` (R150). Waits until no named DMA tag is busy. -/
  | dwait (c : Fin 256)
  /-- `DTEST` (R150). Reads the done and error bits of the DMA tags. -/
  | dtest (c : Fin 256)
  /-- `WAITC` (R148). Stalls issue for a number of cycles. -/
  | waitc (c : Fin 256)
  /-- `WAITC_EXPIRY` (R148). When a WAITC's cycle count runs out, issue resumes. -/
  | waitcExpiry (c : Fin 256)
  /-- `DMA_COMPLETE` (R150). A DMA transfer finishes and its tag becomes done, with error if R151 applies. -/
  | dmaComplete (c : Fin 256) (t : Fin 8)
  /-- `WINDOW_PULL_COMPLETE` (R154). When the last window block is written, a FILLING ladle slot becomes READY. -/
  | windowPullComplete (c : Fin 256) (n : Fin 2)
  /-- `CLOCK_STOP` (R139). A caster that has waited 16 cycles stops its own clock. -/
  | clockStop (c : Fin 256)
  /-- `CASTER_RESTART` (R163). After a fault's DMA finishes, the items are returned and the caster restarts at instruction 0 or halts. -/
  | casterRestart (c : Fin 256)
  /-- `KERNEL_LOAD_SWITCH` (R166). When a target caster's ladle has drained, it clears its memory and takes the new kernel. -/
  | kernelLoadSwitch (c : Fin 256)
  /-- `CASTER_RETIRED` (R167). When a retiring caster's ladle has drained, it clears its memories and becomes RETIRED. -/
  | casterRetired (c : Fin 256)
  /-- `COMMAND_LIMIT_EXPIRY` (R166). When a long-running command's limit expires before its work is done, it ends TIMEOUT or forces its targets. -/
  | commandLimitExpiry (job : Nat)
  /-- `DISPATCH` (R195). Every two scheduler cycles the scheduler places one dispatch head into a ladle or port, or completes a class 3 or 4 item at once. -/
  | dispatch (cycle : Nat)
  /-- `COMPLETION_GRANT` (R196). The completion arbiter grants one output-half entry, a result or a completion, per scheduler cycle. -/
  | completionGrant (c : Fin 256)
  /-- `RELEASE_RESUME` (R197). When a held collector accepts, or a cooling entry frees, a held flow's release resumes at the held result. -/
  | releaseResume (flow : BitVec 20)
  /-- `PORT_SUBMIT` (R185). A fabric operation port record of kind submit is admitted to its flow, spilled, held back or discarded. -/
  | portSubmit (n : Fin 512)
  /-- `PORT_EMIT` (R185). A port record of kind emit gives a result for the oldest delivered item. -/
  | portEmit (n : Fin 512)
  /-- `PORT_PASS` (R185). A port record of kind pass gives a successor item along an edge for the oldest delivered item. -/
  | portPass (n : Fin 512)
  /-- `PORT_DONE` (R185). A port record of kind done completes the oldest delivered item. -/
  | portDone (n : Fin 512)
  /-- `ADMISSION_RESUME` (R188). When pool or spill space frees, a held-back item is admitted, or dropped if its flow or source has changed. -/
  | admissionResume (src : Option (Fin 512))
  /-- `SPILL_REFILL` (R190). Below REFILL_BELOW, the oldest spill page of a chosen flow is read and its items appended to the pool part. -/
  | spillRefill
  /-- `COOL_DUE` (R214). A change of a domain's tick value makes entries due, which re-enter their flows in order. -/
  | coolDue
  /-- `TICK_INPUT` (R210). A token on a fabric tick input is acknowledged at once and counted as a tick. -/
  | tickInput (n : Fin 8)
  /-- `FLOW_DRAIN_COMPLETE` (R203). A DRAINING flow that holds no item becomes CLOSED, completing the drain when all flows have closed. -/
  | flowDrainComplete (job : Nat)
  /-- `TRACE_WRITE` (R223). The trace buffer drains a record to its ring and advances TRC_WRIDX, or drops it. -/
  | traceWrite
  /-- `TRACE_EPOCH` (R220). When yard time bits 63:48 change, an epoch record is produced. -/
  | traceEpoch (t : Nat)
  /-- `STREAM_PACKET` (R234). A stream packet arriving on a link enters its ingest FIFO and the group's reassembler, or overflows. -/
  | streamPacket (n : Fin 128) (tag : Nat) (bytes : List Byte) (crcOk last : Bool)
  /-- `LINE_START` (R240). A line start matches the oldest trigger log entry within the window, expires old entries or counts an unmatched line. -/
  | lineStart (n : Fin 128) (t : Nat)
  /-- `ADAPTER_LINE` (R247). A port adapter presents a stamped line header, the slice data and a trailer on its lanes. -/
  | adapterLine (n : Fin 128)
  /-- `PIXEL_STORE_RECORD` (R251). The pixel store writes a taken line as one record to its ring and updates the write index. -/
  | pixelStoreRecord (n : Fin 128)
  /-- `IO_ACKNOWLEDGMENT` (R238). A camera's I/O acknowledgment of a trigger packet is received. -/
  | ioAcknowledgment (n : Fin 128)
  /-- `ACK_MISS` (R238). If no I/O acknowledgment arrives within 10 µs, CXP_ERR.ACK_MISS is set. -/
  | ackMiss (n : Fin 128)
  /-- `CONTROL_ACKNOWLEDGMENT` (R235). A camera's acknowledgment of a control packet completes, retries or fails the forwarded access. -/
  | controlAcknowledgment (n : Fin 128) (tag : Nat) (ok : Bool) (code : Nat) (data : List Byte)
  /-- `WAIT_ACKNOWLEDGMENT` (R235). A wait acknowledgment restarts the control forwarding limit. -/
  | waitAcknowledgment (n : Fin 128) (ms : Nat)
  /-- `CONTROL_TIMEOUT` (R235). No acknowledgment within the limit ends the forwarded access with TIMEOUT. -/
  | controlTimeout (n : Fin 128)
  /-- `EVENT_PACKET` (R229). An event or device-to-host trigger packet is received, counted and discarded. -/
  | eventPacket (n : Fin 128)
  /-- `HEARTBEAT` (R229). A heartbeat with yard time is sent on each master link. -/
  | heartbeat (n : Fin 128)
  /-- `LINK_LOSS` (R254). A link that loses lock or alignment for 1 µs, or its reference, goes LOST and stops its group. -/
  | linkLoss (n : Fin 128)
  /-- `REDISCOVERY_RETRY` (R255). Every 1 s a LOST group with AUTO set retries discovery, rate and grouping. -/
  | rediscoveryRetry (n : Fin 128)
  /-- `POCXP_POWER_WAIT` (R231). After 200 ms of PoCXP enable with sense clear, discovery proceeds on the link. -/
  | pocxpPowerWait (n : Fin 128)
  /-- `POCXP_SENSE_FAULT` (R231). A PoCXP sense fault deasserts the enable within 1 µs and puts the link in POWER_FAULT. -/
  | pocxpSenseFault (n : Fin 128)
  /-- `DISCOVERY_TIMEOUT` (R231). A link that finds no camera within the limit ends in OFF. -/
  | discoveryTimeout (n : Fin 128)
  /-- `SET_LINK_LOCK_TIMEOUT` (R232). Links that fail to lock within 100 ms of a rate change go LOST. -/
  | setLinkLockTimeout (n : Fin 128)
  /-- `COUNT` (R260). A decoded encoder edge counts the position, schedules or fires triggers and updates the estimator. -/
  | count (e : Fin 8) (b : Bool) (x : LevelEdge)
  /-- `INDEX` (R264). An accepted Z edge with A and B low latches the position and may preset it. -/
  | index (e : Fin 8) (x : LevelEdge)
  /-- `PMAX_EXPIRY` (R269). When PMAX passes with no count, the estimator empties and its generators fall back to edge placement. -/
  | pmaxExpiry (e : Fin 8)
  /-- `INSTANT_FIRE` (R279). A scheduled trigger instant arrives and fires its outputs through the delay lines, subject to suppression. -/
  | instantFire
  /-- `PULSE_END` (R283). After WIDTH, a TRIG pin or GPIO copy pulse ends. -/
  | pulseEnd (o : Fin 256)
  /-- `PPS_EDGE` (R424). A PPS edge steps or slews yard time towards whole seconds and updates LOCKED. -/
  | ppsEdge (t : Nat)
  /-- `PPS_LOST` (R424). After 1.5 s with no PPS edge, LOST sets and the last trim is held. -/
  | ppsLost
  /-- `MEMORY_ACCESS` (R302). A DDR5 channel serves a request by class, correcting, counting or denying as required. -/
  | memoryAccess (ch : Fin 8)
  /-- `REQUEST_AGING` (R302). A DDR5 request that has waited 2 µs moves to class 2. -/
  | requestAging (ch : Fin 8)
  /-- `SCRUB_BLOCK` (R297). The patrol scrub reads one block of its sweep and writes back corrected data. -/
  | scrubBlock (ch : Fin 8)
  /-- `RECALIBRATION` (R306). Periodically each rank is recalibrated, pausing it for at most 200 ns. -/
  | recalibration (ch : Fin 8) (therm : Option (Fin 3))
  /-- `POWER_DOWN` (R309). In DOZE a channel idle for 1 µs enters power-down. -/
  | powerDown (ch : Fin 8)
  /-- `RELEASE_INDEX_READ` (R301). While a result waits for a free record, the device reads the region's release index every 1 µs. -/
  | releaseIndexRead (k : Fin 64)
  /-- `MUSTER_REQUEST` (R414). A request from an enabled source issues a strobe when the muster logic is free, or is missed. -/
  | musterRequest
  /-- `MUSTER_PIN` (R413). A rising edge on a muster input pin raises a pin muster request. -/
  | musterPin (n : Fin 96)
  /-- `FABRIC_MUSTER_REQUEST` (R413). A token on a fabric muster request port is acknowledged and raises a fabric muster request. -/
  | fabricMusterRequest (n : Fin 2)
  /-- `CUT_LATCH` (R416). When every participating paddock is quiescent, state frames latch and the hold is released, completing the muster. -/
  | cutLatch
  /-- `CUT_TIMEOUT` (R416). When the quiescence timeout runs out, the cut latches with incomplete paddocks and releases. -/
  | cutTimeout
  /-- `PIN_EDGE` (R447). An edge on a pin in edge-token form enters its event crossing or pending counter, or overruns. -/
  | pinEdge (n : Fin 96) (level : Bool)
  /-- `UART_RECEIVE` (R434). A byte received on a UART RX pin is presented as a token, or dropped on error or overflow. -/
  | uartReceive (n : Fin 96) (v : Byte) (ok : Bool)
  /-- `UART_TRANSMIT` (R434). A token on a UART TX out-lane is sent as a byte and acknowledged at its stop bit. -/
  | uartTransmit (n : Fin 96)
  /-- `I2C_COMMAND` (R434). A command token on the SDA out-lane performs an I²C write or read and returns a result token. -/
  | i2cCommand (n : Fin 96) (ack : Bool) (v : Byte)
  /-- `SPI_TRANSFER` (R434). A token on the MOSI out-lane shifts a byte out and returns the byte shifted in. -/
  | spiTransfer (n : Fin 96) (v : Byte)
  /-- `CROSSING_TIMEOUT` (R448). A crossing whose island shows no clock for the timeout completes with a poisoned or discarded token. -/
  | crossingTimeout (x : Crossing)
  /-- `USER_TREE_EDGE` (R33). At each selected edge of a USER tree, every clocked-mode output on that tree samples its evaluated digits, keeping, storing or counting a code violation. -/
  | userTreeEdge (n : Fin 3) (rise : Bool)
  /-- `UPSET` (R387). A bit of configuration memory, a bin array, a caster memory or DDR5 changes by itself through an upset. -/
  | upset (u : UpsetAt)
  /-- `DATA_LINK_UP` (R324). A host port's PERST_x_L deasserts and its data link comes up, deasserting WAKE_x_L and setting HP_STATUS.LINK_UP so the port may write CLAIM and re-enable its rings. -/
  | dataLinkUp (p : Fin 2) (speed width : Nat)
  /-- `SYMBOL_LOCK` (R232). A CoaXPress receiver gains symbol lock and word alignment at its rate, letting discovery or a rate change bring the link UP. -/
  | symbolLock (n : Fin 128)
  /-- `TRAINING_COMPLETE` (R307). A DDR5 training, recalibration, retrain or restore started by MEM_TRAIN ends, the channel joins or rejoins its die's active list and the command completes. -/
  | trainingComplete (ch : Fin 8) (ok : Bool)
  /-- `BIST_COMPLETE` (R406). The tests selected by a BIST_RUN finish, failing blocks are retired if asked, verdicts are recorded and the command completes. -/
  | bistComplete (failed : BitVec 32) (blocks : List Block)
  /-- `FLASH_TRANSFER_COMPLETE` (R364). The erase, program and read-back of a FLASH_WRITE, or the reading of a FLASH_READ, finishes and the command completes DONE or CHECK_FAILED. -/
  | flashTransferComplete (job : Nat) (ok : Bool)
  /-- `HOST_READ_COMPLETION` (R318). A host-memory read of a ring fetch or a host buffer transfer completes, with data, Unsupported Request, Completer Abort, poisoned data or a completion timeout. -/
  | hostReadCompletion (p : Fin 2) (what : HostRead) (ok : Bool)
  /-- `RAIL_MONITOR_REFRESH` (R464). Every 100 µs each rail monitor refreshes its MV reading and sets OOT when the rail has left its total tolerance. -/
  | railMonitorRefresh (r : Fin 7) (mv : Nat) (oot : Bool)
  /-- `JTAG_INSTRUCTION` (R427). An IEEE 1149.1 or 1149.6 instruction shifted in on the JTAG port runs, as BYPASS unless it is a supported boundary-scan instruction or scan is enabled. -/
  | jtagInstruction (l : JtagLoad)
  deriving DecidableEq, Repr

end Sys2Proof
end

