-- ==== Sys2Proof/Config.lean ====
section
/-! DEFINITION. Config.lean: the counts of the IXB-128, the constants of the protocols, and the free values: constants
without a body, of which nothing can be proved. -/

namespace Sys2Proof.Config

open Sys2Proof

/-! ### Counts (01_architecture.md, Table 1-1) -/

def paddocks : Nat := 64
def stalls : Nat := 2048
def casters : Nat := 256
def links : Nat := 128

/-! ### Free values (log entry 3): the argument is the state's counter `free`, or the operands -/

/-- A nonce after the one given (R360: the nonce advances, the spec gives no sequence; log entry 11). -/
opaque nextNonce : BitVec 64 → BitVec 64

/-- A value that the spec leaves open, drawn fresh. -/
opaque freeNat : Nat → Nat

/-- A bit that the spec leaves open, drawn fresh. -/
opaque freeBit : Nat → Bool

/-- The value of the SECDED check of 64 bits (R373, R103: the spec names SECDED and gives no matrix; log entry 10). -/
opaque secded64 : BitVec 64 → BitVec 8

/-- The SECDED check bits of a frame's payload, 14 bits (R373; log entry 10). -/
opaque secdedFrame : BitVec 4096 → BitVec 14

/-- Kazwen's PCI-SIG Vendor ID (Table 12-1), which the spec does not state (log entry 3). -/
opaque vendorId : BitVec 16

/-- The dword of configuration space that holds the MSI-X capability's message control; the standard lets each endpoint
place it (log entry 3). -/
opaque msixCap : Nat

/-- Where the endpoint places the standard's capabilities for power management, PCI Express and Advanced Error Reporting in
configuration space (Table 12-1, log entry 3). -/
opaque pmCap : Nat
opaque pcieCap : Nat
opaque aerCap : Nat

/-- A byte of device memory whose contents training has left undefined (R304), by the training and the byte (log entry 21). -/
opaque dramByte : Nat → Nat → Byte

/-- The board powers a bank's `VIO` rail at 3.3 V and not at 1.8 V (R429; log entry 3). -/
opaque bankHigh : Nat → Bool

/-- Bits 31 to 1 of the device's JTAG identification code, whose bit 0 is 1 (R427, IEEE 1149.1; log entry 95). -/
opaque idcode : BitVec 31

/-- Where a blinking status LED stands in its period at yard time 0, in ns (Table 17-3; log entry 3). -/
opaque blinkPhase : Nat

end Sys2Proof.Config
end

