-- ==== Sys2Proof/Machine/State.lean ====
section
/-! DEFINITION. Machine/State.lean: the state of the block as plain data, its value after reset, and the reasons a step
can stop.

Every field carries a comment `--| width | where the spec names it | reset`. A reset value marked DESIGN CHOICE is the
model's (log entry 5 unless the comment names another); one marked PRESUMED is the family's (log entry 6). -/

namespace Sys2Proof.Machine

open Sys2Proof

/-! ### Fabric (02_stalls.md, 03_lanes_and_trees.md, 04_bins.md) -/

/-- A watermark notice (R100): live bit, sticky bits, crossing count, high-water value; the level is kept beside it
so that a read may raise the high-water value at once. -/
structure Notice where
  live  : Bool := false      --| 1 | 04 R100 | 0
  up    : Bool := false      --| 1 | 04 R100 | 0
  down  : Bool := false      --| 1 | 04 R100 | 0
  cnt   : BitVec 4 := 0      --| 4 | 04 R100 | 0
  high  : Nat := 0           --| the level's width | 04 R100 | 0
  deriving DecidableEq, Repr

/-- One token channel as its producer holds it: the rails of R19 (16 rails, all low = spacer) and the leaves (selects,
named by their key) that have acknowledged the token that is on it. -/
structure Chan where
  rails : BitVec 16 := 0     --| 16 | 02 R19, R20 | spacer (0)
  acked : List Nat := []     --| one acknowledge per select | 03 R59, 02 R29 | none raised
  deriving DecidableEq, Repr

/-- What a stall holds beside its channels. -/
structure StallSt where
  held    : BitVec 16 := 0        --| 8 digits of 2 bits | 02 R30, R31 | 0
  fault   : Bool := false         --| 1 | 02 R46 | 0
  passed  : BitVec 16 := 0        --| 4 per port: the ports granted while this one waited | 02 R43 | 0
  grant   : Option (Fin 4) := none --| the alternative port whose grant still holds | 02 R42 | none
  blocked : Option (BitVec 3) := none --| the grant (4 = no alternative) of a firing that changed nothing | 02 R28 | none
  deriving DecidableEq, Repr

/-- A tree event held by a row tap: the generator and sequence number of a LINE event (R82), zero for a USER edge. -/
structure TapEv where
  gen : BitVec 6 := 0
  seq : BitVec 32 := 0
  deriving DecidableEq, Repr

/-- A row tap: pending events, oldest first, and how many tokens of the oldest have been put on the tap's channel. -/
structure TapSt where
  q    : List TapEv := []    --| at most 15 events | 03 R82 | empty
  sent : Nat := 0            --| 3 | 03 R82 | 0
  deriving DecidableEq, Repr

/-- A tree event on its way to the taps that accept its tree. -/
structure TreeEv where
  ev   : TapEv := {}
  taps : List Nat := []      -- taps (32 × paddock + row) it has still to reach
  line : Option Nat := none  -- a LINE event: the engine cycle it left in (R285)
  deriving DecidableEq, Repr

/-- An item of a priority FIFO bin. -/
structure PItem where
  handle  : Nat := 0           -- index entry, 0 to 1,023 (R93)
  prio    : BitVec 4 := 0
  len     : Nat := 1           -- words, 1 to 256
  arrival : Nat := 0           -- order of header acknowledges (R94)
  taken   : Nat := 0           -- words taken so far; readable when taken = len
  held    : Bool := false      -- read-held
  readseq : Nat := 0
  cells   : List Nat := []     -- the payload granules (of W/8 bytes) the words stand in
  deriving DecidableEq, Repr

/-- The item that a priority FIFO presents: tokens of its header and words put on the lanes so far. -/
structure Present where
  handle : Nat := 0
  hdr    : Nat := 0            -- header tokens presented, 0 to 3
  words  : Nat := 0            -- words presented
  deriving DecidableEq, Repr

/-- A bin beside its array and its channels. -/
structure BinSt where
  count    : Nat := 0                 --| FIFO words held | 04 R92 | 0
  rd       : Nat := 0                 --| FIFO word address of the oldest word | 04 R92 | 0
  shown    : Bool := false            --| 1: the oldest word is on port 1 | 04 R92 | 0
  items    : List PItem := []         --| at most 1,024 items | 04 R93 | none
  writing  : Option Nat := none       --| handle of the item being written | 04 R93 | none
  cur      : Option Present := none   --| the item being presented | 04 R94, R95 | none
  cmdFirst : Bool := false            --| 1: a command completed before the last acknowledge of the item before | 04 R98 | 0
  marks    : Vector (Option Nat) 4 := Vector.replicate 4 none  --| 4 marks | 04 R96 | none saved
  seq      : Nat := 0                 --| counter of reads | 04 R96 | 0
  arrivals : Nat := 0                 --| counter of header pairs | 04 R94 | 0
  idxErr   : Bool := false            --| 1: an uncorrectable index word was found | 04 R103 | 0
  fault    : Bool := false            --| 1: bin fault | 04 R479 | 0
  notice   : Notice := {}             --| notice | 04 R100, R101 | 0
  misuse   : BitVec 8 := 0            --| 8 | 04 R97, Table 4-7 | 0
  corr     : BitVec 16 := 0           --| 16 | 04 R103, Table 4-7 | 0
  uncorr   : BitVec 8 := 0            --| 8 | 04 R103, Table 4-7 | 0
  deriving DecidableEq, Repr

/-- The fabric outside its configuration frames. -/
structure Fabric where
  chans   : Tab Chan := []       --| one channel per source | 02 R20, 03 R59 | every channel at spacer
  stalls  : Tab StallSt := []    --| 131,072 stalls | 02 R25-R46 | see StallSt
  taps    : Tab TapSt := []      --| 2,048 row taps | 03 R81, R82 | no event pending
  tree    : List TreeEv := []    --| events on the LINE and USER trees | 03 R81 | none
  park    : Tab (BitVec 16) := [] --| 16 rails per gate cell: the last value present before isolation | 03 Table 3-7 | DESIGN CHOICE spacer (log entry 108)
  bins    : Tab BinSt := []      --| 4,096 bins | 04 R85-R111 | see BinSt
  binMem  : Tab Byte := []       --| 64 MiB, key 16,384 × bin + byte | 04 R85, R108 | 0
  binBad  : Tab (List Nat) := [] --| flipped bits per 64-bit array word (72 bits with its code) | 04 R103 | none
  deriving DecidableEq, Repr

/-! ### Rate governor (05_self_timed_rate.md) -/

/-- The parameters of Table 5-4; voltages in mV, percentages and windows as GOVERNOR_CONFIG gives them. -/
structure GovParams where
  fixed    : Bool := false             --| 1: MODE FIXED | 05 R127, Table 5-4 | 0 (AUTO)
  floor    : Nat := 650                --| 6, in mV here | 05 R127, Table 5-4 | 650
  ceiling  : Nat := 900                --| 6, in mV here | 05 R127, Table 5-4 | 900
  fixedV   : Nat := 850                --| 6, in mV here | 05 R127, Table 5-4 | 850
  margin   : Nat := 20                 --| 7, percent | 05 R127, Table 5-4 | 20
  near     : Nat := 8                  --| 7, percent | 05 R127, Table 5-4 | 8
  window   : Nat := 10                 --| 10, units of 10 µs | 05 R127, Table 5-4 | 10 (100 µs)
  holdWin  : Nat := 4                  --| 7 | 05 R127, Table 5-4 | 4
  tguard   : Nat := 5                  --| 4, degrees | 05 R127, Table 5-4 | 5
  twarn    : Nat := 100                --| 7, degrees | 05 R127, Table 5-4 | 100
  fifoMask : Option (BitVec 128) := none --| 128; none = the links with a port adapter enabled | 05 R127, Table 5-4 | the links with a port adapter enabled
  deriving DecidableEq, Repr

/-- One entry of the pace table (Table 5-3), in force for its paddock and slot. -/
structure PaceEntry where
  pdk   : Nat := 0
  slot  : Nat := 0
  stall : Nat := 0
  drv   : Nat := 0
  governs : Bool := false
  spans : Bool := false
  refPs : Nat := 1
  fixPs : Nat := 0
  rateK : Nat := 1
  count : Nat := 0            -- handshakes counted in this window (R118)
  first : Bool := false       -- the first window after its paddock became LIVE
  overCap : Bool := false       -- its declared rate exceeds its capacity at the ceiling (R122)
  deriving DecidableEq, Repr

/-- An AVSBus transaction (R123): a voltage write with its mV, a voltage read, a current read, a status read. -/
inductive AvsOp where
  | write (mv : Nat) | readV | readI | readStatus
  deriving DecidableEq, Repr

/-- The governor's state for one fabric die. -/
structure GovDie where
  vset    : Nat := 850                 --| 6 (VSET), in mV here | 05 R137 | 850 (50)
  vread   : Nat := 0                   --| 10 (VREAD), in mV | 05 R137 | 0
  calm    : Nat := 0                   --| windows in a row | 05 R128 | 0
  pourLift    : Bool := false          --| 1: the loader's lift to 0.75 V | 05 R131 | 0
  fettlerLift : Bool := false          --| 1: the fettler's lift to 0.70 V | 05 R133 | 0
  sat     : Bool := false              --| 1 | 05 R130, R137 | 0
  avsFault : Bool := false             --| 1, W1C | 05 R125, R137 | 0
  therm   : Bool := false              --| 1, W1C | 05 R130, R137 | 0
  reason  : BitVec 3 := 0              --| 3 | 05 R137 | 0
  minSlack : BitVec 8 := 0xFF          --| 8 | 05 R137 | 0xFF
  avs     : List AvsOp := []           --| AVSBus transactions waiting, the first under way | 05 R123 | none
  wroteAt : Nat := 0                   --| yard time of the last voltage write | 05 R125 | DESIGN CHOICE 0
  tries   : Nat := 0                   --| retries of the first of them | 05 R125 | 0
  must    : BitVec 32 := 0             --| 32 (GOV_MUSTn) | 05 R138 | 0
  deriving DecidableEq, Repr

structure Governor where
  params  : GovParams := {}            --| Table 5-4 | 05 R127 | the defaults of Table 5-4
  pending : Option GovParams := none   --| parameters waiting for the window boundary or the end of a freeze | 05 R135 | none
  die     : Vector GovDie 2 := Vector.replicate 2 {} --| 2 dies | 05 R128, R137 | see GovDie
  pace    : List PaceEntry := []       --| at most 512 entries | 05 R118, R119 | none
  vmin    : Vector Nat 64 := Vector.replicate 64 0 --| VMIN_MV of each paddock's pattern, mV | 05 R119, R121 | DESIGN CHOICE 0 (no pattern)
  pourFreeze : Nat := 0                --| windows left of the freeze after the last pour (2 while a pour runs) | 05 R131 | 0
  musterFreeze : Bool := false         --| 1: a cut is being formed | 05 R132 | 0
  heldConfig : Bool := false           --| 1: a GOVERNOR_CONFIG was given or came into force in the freeze | 05 R135 | 0
  deriving DecidableEq, Repr

/-! ### Casters and ladles (06_casters.md) -/

/-- The states of a ladle slot (Table 6-6). -/
inductive SlotState where
  | empty | filling | ready | current
  deriving DecidableEq, Repr

/-- One ladle slot: its item, its window and the order of placement. -/
structure Slot where
  state  : SlotState := .empty         --| 2 | 06 R154 | EMPTY
  item   : Item := zeroItem            --| 512 | 06 R154 | 0
  winSrc : Nat := 0                    --| 40 | 06 R155 | 0
  winLen : Nat := 0                    --| 14 | 06 R155 | 0
  winErr : Bool := false               --| 1 | 06 R156 | 0
  order  : Nat := 0                    --| order of placement | 06 R157 | 0
  oid    : Nat := 0                    --| names its outstanding item (the model's own) | 07 R197 | 0
  deriving DecidableEq, Repr

/-- The kinds of entry of an output half (R158, R160). -/
inductive OutKind where
  | emit | pass (edge : Nat) | completion
  deriving DecidableEq, Repr

/-- What stands in a caster's output half: a result of the current item, or a completion; `flow` and `oid` name the
outstanding item it belongs to. -/
structure OutEntry where
  kind : OutKind := .completion
  flow : Nat := 0
  oid  : Nat := 0
  item : Item := zeroItem
  deriving DecidableEq, Repr

/-- A DMA transfer of a busy tag (R150). -/
structure Dma where
  push  : Bool := false
  ext   : Nat := 0
  loc   : Nat := 0
  len   : Nat := 0
  deriving DecidableEq, Repr

/-- A DMA tag (Table 6-1): idle when all three are clear. -/
structure Tag where
  busy : Option Dma := none            --| busy, with its transfer | 06 R140, R150 | idle
  done : Bool := false                 --| 1 | 06 R140, R150 | 0
  err  : Bool := false                 --| 1 | 06 R140, R150 | 0
  deriving DecidableEq, Repr

/-- Where a caster stands (Table 6-11). -/
inductive CasterMode where
  | idle      -- no kernel
  | running   -- issuing
  | inTake    -- waiting in TAKE
  | waiting   -- waiting for a DMA tag, the output half or DONE
  | inWaitc   -- WAITC counts its cycles
  | faulted   -- a fault was taken; DMA is finishing (R162)
  | loading
  | halted
  | retired
  | excluded
  deriving DecidableEq, Repr

/-- What a caster's memory clear or switch waits for once its ladle has drained. -/
inductive DrainFor where
  | kernel (job : Nat)
  | retire (job : Nat) (persistent : Bool)
  deriving DecidableEq, Repr

structure Caster where
  v     : Vector (BitVec 512) 32 := Vector.replicate 32 0  --| 32 × 512 | 06 R140, Table 6-1 | 0
  sreg  : Vector (BitVec 32) 16 := Vector.replicate 16 0   --| 16 × 32 | 06 R140, Table 6-1 | 0
  acc   : Vector (BitVec 2048) 4 := Vector.replicate 4 0   --| 4 × 64 × 32 | 06 R140, Table 6-1 | 0
  k     : Vector (BitVec 64) 8 := Vector.replicate 8 0     --| 8 × 64 (k0 reads as all ones) | 06 R140, Table 6-1 | 0
  pc    : BitVec 11 := 0                                   --| 11 | 06 R140, Table 6-1 | 0
  tags  : Vector Tag 8 := Vector.replicate 8 {}            --| 8 tags | 06 R140, R150 | idle
  mode  : CasterMode := .idle          --| 4 (STATE) | 06 R169, Table 6-11 | IDLE (no kernel)
  clockStopped : Bool := false         --| 1 | 06 R139 | 0
  dozeStopped  : Bool := false         --| 1 | 06 R171 | 0
  persist : Bool := false              --| 1: retired persistently, until the next start | 06 R167 | 0
  mem   : Tab Byte := []               --| 128 KiB | 06 R141 | 0
  memBad : Tab (List Nat) := []        --| flipped bits per 64-bit word | 06 R143 | none
  store : Tab (BitVec 64) := []        --| 2,048 × 64 | 06 R143 | 0
  storeBad : Tab (List Nat) := []      --| flipped bits per 64-bit word | 06 R143 | none
  slots : Vector Slot 2 := Vector.replicate 2 {}           --| 2 slots | 06 R154 | EMPTY
  placed : Nat := 0                    --| order counter | 06 R157 | 0
  outHalf : List OutEntry := []        --| 4 results and 1 completion | 06 R161 | empty
  sent  : Nat := 0                     --| 5: results of the current item | 06 R159 | 0
  waitc : Nat := 0                     --| 16 | 06 R148 | 0
  drain : Option DrainFor := none      --| switch or retirement waiting for the ladle | 06 R166, R167 | none
  place : Bool := true                 --| 1: the scheduler may place items | 06 R166 | 1
  kernel : BitVec 16 := 0              --| 16 | 06 R169 | 0 (no kernel)
  fault : BitVec 8 := 0                --| 8 | 06 R169 | 0
  faultPc : BitVec 16 := 0             --| 16 | 06 R169 | 0
  faults : BitVec 16 := 0              --| 16, saturating | 06 R169 | 0
  items : BitVec 32 := 0               --| 32, wrapping | 06 R169 | 0
  cycles : Nat := 0                    --| cycles executed; BUSY (32) counts units of 1,024 | 06 R169 | 0
  dmaErr : BitVec 16 := 0              --| 16, saturating | 06 R169 | 0
  eccCorr : BitVec 16 := 0             --| 16, saturating | 06 R169 | 0
  trapCode : BitVec 16 := 0            --| 16 | 06 R169 | 0
  must  : BitVec 256 := 0              --| 256 (muster record) | 06 R170 | 0
  deriving DecidableEq, Repr

/-! ### Flow scheduler, cooling lists and trace (07_flow_scheduler.md, 08_cooling_lists_and_trace.md) -/

/-- A collector record (Table 7-3). -/
structure Collector where
  kind  : Nat := 0
  hport : Nat := 0
  ring  : Nat := 0
  index : Nat := 0
  deriving DecidableEq, Repr

/-- An operation record (Table 7-4). `edges` holds, for each edge, the successor of a valid edge. -/
structure Op where
  cls      : Nat := 0
  group    : Nat := 0
  kernel   : BitVec 16 := 0
  patience : Nat := 0
  mask     : Nat := 0
  lenFromItem : Bool := false
  winLen   : Nat := 0
  target   : Nat := 0
  cool     : Vector Nat 8 := Vector.replicate 8 0
  edges    : Vector (Option Nat) 8 := Vector.replicate 8 none
  deriving DecidableEq, Repr

/-- The loaded graph (Table 7-2); identifier 0 when none is loaded. -/
structure Graph where
  id         : BitVec 16 := 0          --| 16 (SCH_GRAPH) | 07 R206 | 0 (none)
  ports      : Vector Nat 512 := Vector.replicate 512 0 --| 512 modes | 07 R173, Table 7-6 | DESIGN CHOICE 0 (unused)
  masks      : List (BitVec 256) := [] --| at most 64 | 07 R173 | none
  collectors : List Collector := []    --| at most 1,024 | 07 R173 | none
  ops        : List Op := []           --| at most 4,096 | 07 R173 | none
  deriving DecidableEq, Repr

/-- What executes an item: a caster or a fabric operation port (R172). -/
inductive Executor where
  | caster (c : Nat)
  | port (n : Nat)
  deriving DecidableEq, Repr

/-- A result held with its item: an EMIT, or a PASS along an edge (R158). -/
inductive Result where
  | emit (item : Item)
  | pass (edge : Nat) (item : Item)
  deriving DecidableEq, Repr

/-- An outstanding item of a flow, in the reorder stage (R193, R197, R199). -/
structure OutItem where
  id       : Nat := 0                -- names the item towards its executor
  item     : Item := zeroItem        -- as dispatched
  results  : List Result := []       -- results not yet delivered
  reserved : Nat := 0                -- pool entries still reserved for it (R195)
  done     : Bool := false
  direct   : Bool := false           -- class 3 or 4: delivered to the operation's TARGET
  marked   : Bool := false           -- it has faulted once (R199)
  faulted  : Bool := false           -- it completes as a faulted completion
  back     : Bool := false           -- returned, to be dispatched again
  patience : Nat := 0                -- patience time kept over a return, in scheduler cycles
  exec     : Option Executor := none -- where it is placed, or who completed it
  deriving DecidableEq, Repr

/-- A spill page of a flow: its number in the spill region and how many of its 64 slots hold items. -/
structure SpillPage where
  page : Nat := 0
  used : Nat := 0
  deriving DecidableEq, Repr

inductive FlowState where
  | closed | open | draining
  deriving DecidableEq, Repr

structure Flow where
  state   : FlowState := .closed     --| 2 | 07 R180, Table 7-13 | CLOSED
  discard : Bool := false            --| 1: draining in discard mode | 07 R203 | 0
  keep    : Bool := false            --| 1 (SEQ_MODE) | 07 R181, Table 7-13 | 0
  prio    : Nat := 0                 --| 2 | 07 R180, Table 7-13 | 0
  coll    : Nat := 0                 --| 10 | 07 R180, Table 7-13 | 0
  last    : BitVec 32 := 0           --| 32 (SCH_FLOWVIEW1) | 07 R181, R206 | DESIGN CHOICE 0
  fresh   : Bool := true             --| 1: nothing admitted from a source since it opened | 07 R181 | 1
  order   : Bool := false            --| 1 | 07 R181, Table 7-13 | 0
  held    : Bool := false            --| 1 | 07 R197, Table 7-13 | 0
  pool    : List Item := []          --| pool part of the queue | 07 R188, R206 | empty
  spill   : List SpillPage := []     --| spill part, oldest page first | 07 R190 | empty
  tail    : List Item := []          --| re-entered items waiting behind the spill part with their pool entries | 07 R189 | empty
  out     : List OutItem := []       --| at most 256 outstanding items, entry order | 07 R193, R197 | none
  headAt  : Nat := 0                 --| scheduler cycle from which patience counts | 07 R194 | 0
  deriving DecidableEq, Repr

/-- A fabric operation port (R184, R185) with the tokens that its bulk crossing holds (17_pins_clocks_crossings.md). -/
structure OpPort where
  ctl   : List (BitVec 16) := []                                --| kind tokens | 07 R184 | empty
  data  : Vector (List (BitVec 16)) 8 := Vector.replicate 8 []  --| record tokens, 8 lanes | 07 R184 | empty
  items : List (Nat × Nat × Nat) := []                          --| delivered items not done: flow, identifier, results sent; at most 4 | 07 R185 | none
  del   : Vector (List Byte) 8 := Vector.replicate 8 []         --| tokens going to DEL_DATA, by lane | 07 R184, 17 R445 | none
  holding : Bool := false                                       --| 1: back-pressure on the record held | 07 R188 | 0
  received : BitVec 32 := 0                                     --| 32 (SCH_PORTVIEW1) | 18 Table 18-10 | 0
  delivered : BitVec 32 := 0                                    --| 32 (SCH_PORTVIEW2) | 18 Table 18-10 | 0
  deriving DecidableEq, Repr

/-- The counters of Table 7-11 and of Table 18-10. -/
structure SchCounters where
  enq : BitVec 32 := 0        --| 32, wrapping | 07 R206 | 0
  disp : BitVec 32 := 0       --| 32, wrapping | 07 R206 | 0
  rel : BitVec 32 := 0        --| 32, wrapping | 07 R206 | 0
  affmiss : BitVec 32 := 0    --| 32, wrapping | 07 R206 | 0
  placewait : BitVec 32 := 0  --| 32, wrapping | 07 R206 | 0
  spill : BitVec 32 := 0      --| 32, wrapping | 07 R206 | 0
  refill : BitVec 32 := 0     --| 32, wrapping | 07 R206 | 0
  bp : BitVec 32 := 0         --| 32, wrapping | 07 R206 | 0
  faulted : BitVec 32 := 0    --| 32, wrapping | 07 R206 | 0
  order : BitVec 32 := 0      --| 32, wrapping | 07 R206 | 0
  discard : BitVec 32 := 0    --| 32, wrapping | 07 R206 | 0
  porterr : BitVec 32 := 0    --| 32, wrapping | 07 R206 | 0
  comp : BitVec 32 := 0       --| 32, wrapping | 18 R462 | 0
  pass : BitVec 32 := 0       --| 32, wrapping | 18 R462 | 0
  emit : BitVec 32 := 0       --| 32, wrapping | 18 R462 | 0
  ret : BitVec 32 := 0        --| 32, wrapping | 18 R462 | 0
  admH : BitVec 32 := 0       --| 32, wrapping | 18 R462 | 0
  admD : BitVec 32 := 0       --| 32, wrapping | 18 R462 | 0
  atDisp : BitVec 32 := 0     --| 32, wrapping | 18 R462 | 0
  delHost : BitVec 32 := 0    --| 32, wrapping | 18 R462 | 0
  delDdr : BitVec 32 := 0     --| 32, wrapping | 18 R462 | 0
  delPort : BitVec 32 := 0    --| 32, wrapping | 18 R462 | 0
  dispP : Vector (BitVec 32) 4 := Vector.replicate 4 0 --| 4 × 32, wrapping | 18 R462 | 0
  deriving DecidableEq, Repr

/-- The pool thresholds and the watermarks that SPILL_CONFIG sets (Table 7-8). -/
structure SpillParams where
  spillHigh : Nat := 196608    --| 19 | 07 R187, Table 7-8 | 196,608
  refillBelow : Nat := 131072  --| 19 | 07 R187, Table 7-8 | 131,072
  hLimit : Nat := 245760       --| 19 | 07 R187, Table 7-8 | 245,760
  poolWmh : Nat := 0           --| 19 | 07 R206 | DESIGN CHOICE 0
  poolWml : Nat := 0           --| 19 | 07 R206 | DESIGN CHOICE 0
  spillWmh : Nat := 0          --| 25 | 07 R206 | DESIGN CHOICE 0
  spillWml : Nat := 0          --| 25 | 07 R206 | DESIGN CHOICE 0
  deriving DecidableEq, Repr

structure Sched where
  oldRoute : List (Nat × Nat) := []    --| operation port lanes whose handshake in progress keeps the routing of an earlier mode: 17 × port + lane, mode | 17 R440 | none
  graph   : Graph := {}                --| the loaded graph | 07 R173, R175 | none
  last    : Tab (Option Executor) := [] --| last executor of each operation | 07 R192 | none
  flows   : Tab Flow := []             --| 1,048,576 flows | 07 R180 | CLOSED
  nextId  : Nat := 0                   --| names for outstanding items (the model's own) | 07 R197 | 0
  ports   : Vector OpPort 512 := Vector.replicate 512 {} --| 512 ports | 07 R184 | see OpPort
  used    : Nat := 0                   --| 19 (SCH_POOL_LEVEL) | 07 R206 | 0
  reserved : Nat := 0                  --| pool entries reserved for results | 07 R195 | 0
  pages   : List Nat := []             --| spill pages in use (25-bit count) | 07 R190, R206 | none
  params  : SpillParams := {}          --| Table 7-8 | 07 R187 | see SpillParams
  poolNotice : Notice := {}            --| notice | 07 R191 | 0
  spillNotice : Notice := {}           --| notice | 07 R191 | 0
  rr      : Vector (Option Nat) 4 := Vector.replicate 4 none --| last flow served of each priority | 07 R193 | DESIGN CHOICE none
  refillRr : Option Nat := none        --| last flow refilled | 07 R190 | DESIGN CHOICE none
  waited  : Tab (BitVec 256) := []     --| per waiting caster: the casters granted meanwhile | 07 R196 | none
  cycle   : Nat := 0                   --| scheduler cycles | 07 R194 | 0
  cnt     : SchCounters := {}          --| 25 × 32 | 07 R206, 18 R462 | 0
  arbWaitMax : Nat := 0                --| 9, RC | 18 Table 18-10 | 0
  placeWait : Bool := false            --| 1 (SCH_STATUS[29]) | 18 Table 18-10 | 0
  refilling : Option Nat := none       --| 20, or none: the flow whose oldest page is being refilled (SCH_STATUS[28]) | 07 R190, 18 Table 18-10 | none
  opSel   : BitVec 12 := 0             --| 12 (SCH_OPSEL) | 18 Table 18-10 | 0
  opView  : Option (Vector (BitVec 32) 12) := none --| 12 × 32: captured SCH_OPVIEW0-3, SCH_CELIG0-7 | 18 R455, R463 | no capture stands
  opDisp  : Tab (BitVec 32) := []      --| 32 per operation: dispatches | 18 Table 18-10 | 0
  opOut   : Tab (BitVec 32) := []      --| 32 per operation: placements outside stage 1 | 18 Table 18-10 | 0
  portSel : BitVec 9 := 0              --| 9 (SCH_PORTSEL) | 18 Table 18-10 | 0
  portView : Option (Vector (BitVec 32) 3) := none --| 3 × 32: captured SCH_PORTVIEW0-2 | 18 R455 | no capture stands
  flowSel : BitVec 20 := 0             --| 20 (SCH_FLOWSEL) | 07 R206 | 0
  must    : Vector (BitVec 32) 8 := Vector.replicate 8 0 --| 8 × 32 (SCH_MUST) | 07 R207 | DESIGN CHOICE 0
  deriving DecidableEq, Repr

/-- A user tick domain (Table 8-2). -/
structure Domain where
  src  : Nat := 0                      --| 4 | 08 R210 | DESIGN CHOICE 0 (none)
  gen  : Nat := 0                      --| 6 | 08 R210 | DESIGN CHOICE 0
  tick : Nat := 0                      --| 3 | 08 R210 | DESIGN CHOICE 0
  deriving DecidableEq, Repr

/-- A cooling profile (Table 8-3). -/
structure Profile where
  valid  : Bool := false               --| 1 | 08 R211, R218 | 0
  domain : Nat := 0                    --| 4 | 08 R211 | DESIGN CHOICE 0
  base   : Nat := 0                    --| 2 | 08 R211 | DESIGN CHOICE 0
  delay  : Nat := 0                    --| 48 | 08 R211 | DESIGN CHOICE 0
  deriving DecidableEq, Repr

/-- An entry of a cooling list, or one that is due and waits its turn (R212, R215). -/
structure CoolEntry where
  domain  : Nat := 0
  profile : Nat := 0
  due     : Int := 0
  order   : Nat := 0
  item    : Item := zeroItem
  deriving DecidableEq, Repr

structure Cooling where
  period  : Nat := 125                 --| 27 | 08 R208, Table 8-1, 18 Table 18-10 | 125
  domains : Vector Domain 16 := Vector.replicate 16 {} --| domains 9-15 are used | 08 R210 | see Domain
  profiles : Vector Profile 16 := Vector.replicate 16 {} --| profiles 1-15 are used | 08 R211 | see Profile
  ticks   : Vector Nat 8 := Vector.replicate 8 0 --| 64 each: tokens received on each tick input | 08 R210 | 0
  entries : List CoolEntry := []       --| at most 262,144 | 08 R212 | none
  dueQ    : List CoolEntry := []       --| entries due that wait their turn | 08 R215, R216 | none
  inserted : Nat := 0                  --| order of insertion | 08 R215 | 0
  high    : Nat := 0                   --| 19, RC (COOL_HIGH) | 08 R227 | 0
  cntInsert : BitVec 32 := 0           --| 32 | 08 R227 | 0
  cntDue  : BitVec 32 := 0             --| 32 | 08 R227 | 0
  cntWait : BitVec 32 := 0             --| 32 | 08 R227 | 0
  domSel  : BitVec 4 := 0              --| 4 | 08 R227 | 0
  domView : Option (Vector (BitVec 32) 6) := none --| 6 × 32: captured COOL_DOMVIEW0-5 | 08 R228, 18 R455 | no capture stands
  profSel : BitVec 4 := 0              --| 4 (COOL_PROFSEL) | 18 Table 18-10 | 0
  profView : Option (Vector (BitVec 32) 2) := none --| 2 × 32: captured COOL_PROFVIEW0-1 | 18 R455 | no capture stands
  deriving DecidableEq, Repr

structure Trace where
  en      : Bool := false              --| 1 | 08 Table 8-8 | 0
  destLost : Bool := false             --| 1 | 08 Table 8-8 | 0
  dest    : Nat := 0                   --| 2 | 08 Table 8-8 | 0
  wrap    : Bool := false              --| 1 (MODE) | 08 Table 8-8 | 0
  armed   : Bool := false              --| 1 (MUSTER_ARMED) | 08 Table 8-8 | 0
  dropped : Bool := false              --| 1, W1C | 08 Table 8-8 | 0
  matchKind : BitVec 4 := 0            --| 4 (MUSTER_KIND) | 08 Table 8-8 | 0
  mask    : BitVec 16 := 0             --| 16 (KIND_MASK) | 08 Table 8-8 | 0
  flowLo  : Nat := 0                   --| 20 | 08 R221, 18 Table 18-10 | 0
  flowHi  : Nat := 0                   --| 20 | 08 R221, 18 Table 18-10 | 0
  opFilter : Option Nat := none        --| 12, or all | 08 R221 | 0xFFFF (all)
  base    : Nat := 0                   --| 64: address of a host ring | 08 R224 | DESIGN CHOICE 0
  size    : Nat := 0                   --| 25 (TRC_SIZE) | 08 R227 | DESIGN CHOICE 0
  wmHigh  : Nat := 0                   --| 25 | 08 R221, 18 Table 18-10 | 0
  wmLow   : Nat := 0                   --| 25 | 08 R221, 18 Table 18-10 | 0
  buf     : List (BitVec 128) := []    --| at most 4,096 records | 08 R223 | empty
  wrIdx   : BitVec 32 := 0             --| 32 | 08 R227 | 0
  rdIdx   : BitVec 32 := 0             --| 32 | 08 R227 | 0
  written : BitVec 32 := 0             --| 32 | 08 R227 | 0
  drop    : BitVec 32 := 0             --| 32 | 08 R227 | 0
  lost    : Bool := false              --| 1: the next record written has LOST | 08 R223 | 0
  gap     : Bool := false              --| 1: the next record buffered has LOST | 08 R219, R223 | 0
  matchOn : Bool := false              --| 1: the muster match that a rearm arms | 08 R226 | 0
  cycle   : Option (List (Nat × BitVec 128)) := none --| kinds and records of the cycle in progress | 08 R222 | none
  cycleAt : Nat := 0                   --| insertions when the cycle in progress began | 08 R216, R222 | 0
  epoch   : BitVec 16 := 0             --| 16: yard time [63:48] of the last epoch record | 08 R220 | 0
  notice  : Notice := {}               --| notice | 08 R226 | 0
  deriving DecidableEq, Repr

/-! ### CoaXPress links and groups (09_coaxpress_ports.md) -/

/-- Link states (Table 9-3). -/
inductive LinkState where
  | off | discovering | up | streaming | lost | powerFault | failed
  deriving DecidableEq, Repr

/-- What a DISCOVERING link waits for (R231, R232): the PoCXP power wait, symbol lock at CXP-1, its camera's bootstrap
registers, or symbol lock at a new rate. -/
inductive LinkWait where
  | none
  | power (job : Nat)
  | lock (job : Nat)
  | bootstrap (job : Nat)
  | rate (job : Nat) (code : Nat)
  deriving DecidableEq, Repr

/-- A stream packet held by an ingest FIFO: its tag, the payload bytes kept, how its CRC came out, whether it ends its
line, the bytes lost at a full FIFO (R245), and the run of reception it belongs to. -/
structure Packet where
  tag   : Nat := 0
  bytes : List Byte := []
  crcOk : Bool := true
  last  : Bool := false
  lost  : Nat := 0
  run   : Nat := 0
  deriving DecidableEq, Repr

structure Link where
  state  : LinkState := .off           --| 4 | 09 R230, Table 9-13 | OFF
  wait   : LinkWait := .none           --| step of discovery or of a rate change | 09 R231, R232 | none
  auto   : Bool := false               --| 1 (CXP_CTL.AUTO) | 09 Table 9-12 | 0
  off    : Bool := false               --| 1 (CXP_CTL.LINK_OFF) | 09 Table 9-12 | 0
  rate   : Nat := 0                    --| 3 | 09 Table 9-13 | 0
  prevRate : Nat := 0                  --| 3: the rate before a loss | 09 R255 | DESIGN CHOICE 0
  gsize  : Nat := 0                    --| 2 | 09 Table 9-13 | 0
  grouped : Bool := false              --| 1: it belongs to a port group (MASTER shows it) | 09 Table 9-13 | 0
  pocxp  : Bool := false               --| 1 | 09 Table 9-13 | 0
  eq     : BitVec 8 := 0               --| 8 | 09 Table 9-13 | 0
  conn   : BitVec 32 := 0              --| 32 ([7:0] shown) | 09 R231, Table 9-13 | 0
  index  : Nat := 0                    --| 8: index within the connection | 09 R231 | DESIGN CHOICE 0
  offered : Nat := 0                   --| 8: links the camera offers | 09 R231 | DESIGN CHOICE 0
  maxRate : Nat := 0                   --| 3: highest rate of the camera | 09 R231 | DESIGN CHOICE 0
  err    : BitVec 32 := 0              --| 32 (CXP_ERR) | 09 Table 9-14 | 0
  wmLow  : Nat := 256                  --| 11 | 09 Table 9-15 | 256
  wmHigh : Nat := 512                  --| 11 | 09 Table 9-15 | 512
  notice : Notice := {}                --| notice | 09 R244 | 0
  fifo   : List Packet := []           --| 64 KiB | 09 R243 | empty
  skip   : Bool := false               --| 1: the bytes of this line are discarded until the next line start | 09 R245 | 0
  lines  : BitVec 32 := 0              --| 32 (CXP_CNT_LINES) | 09 Table 9-11 | 0
  cntCrc : BitVec 8 := 0               --| 8, RC | 09 Table 9-16 | 0
  cntOvf : BitVec 8 := 0               --| 8, RC | 09 Table 9-16 | 0
  cntUnm : BitVec 8 := 0               --| 8, RC | 09 Table 9-16 | 0
  cntMiss : BitVec 8 := 0              --| 8, RC | 09 Table 9-16 | 0
  lastSeq : BitVec 32 := 0             --| 32 | 09 Table 9-11 | 0
  lastStart : Nat := 0                 --| 64: yard time of the last line start | 09 R259 | DESIGN CHOICE 0
  ackWait : List Nat := []             --| trigger packets whose I/O acknowledgment is awaited (yard time) | 09 R238 | none
  lanes  : Vector (List Byte) 4 := Vector.replicate 4 [] --| four FIFOs of 16 entries: tokens that wait on each lane | 09 R247, 17 R444 | none
  sent   : Vector Nat 4 := Vector.replicate 4 0 --| tokens of the present line that each lane's FIFO has taken | 09 R247 | 0
  cntEvent : BitVec 32 := 0            --| 32: event and device-to-host trigger packets | 09 Table 9-1 | 0
  must   : BitVec 32 := 0              --| 32 (CXP_MUST) | 09 Table 9-17 | 0
  record : BitVec 256 := 0             --| 256 (muster record) | 09 R259 | DESIGN CHOICE 0
  deriving DecidableEq, Repr

/-- Group settings (Table 9-4). -/
structure GroupSet where
  width  : Nat := 4096      --| 17 | 09 Table 9-4 | 4,096
  format : Nat := 0         --| 3 | 09 Table 9-4 | 0
  pix    : Bool := false    --| 1 | 09 Table 9-4 | 0
  lanes  : Nat := 2         --| 2 or 4 | 09 Table 9-4 | 2
  adapt  : Bool := false    --| 1 | 09 Table 9-4 | 0
  doMatch : Bool := true    --| 1 (MATCH) | 09 Table 9-4 | 1
  mmin   : Nat := 1000      --| 20, ns | 09 Table 9-4 | 1,000
  mmax   : Nat := 100000    --| 20, ns | 09 Table 9-4 | 100,000
  unm    : Bool := false    --| 1 | 09 Table 9-4 | 0
  enc    : Nat := 0         --| 3 | 09 Table 9-4 | 0
  deriving DecidableEq, Repr

/-- A trigger log entry (R236); `gen` and `k` keep one grid point from being entered twice. -/
structure LogEntry where
  seq : BitVec 32 := 0
  pos : BitVec 64 := 0
  t   : Nat := 0               -- yard time of the instant, ns
  gen : Nat := 0
  k   : Nat := 0
  deriving DecidableEq, Repr

/-- A line as the reassembler holds it: its stamp (R240), its bytes so far and its trailer flags (Table 9-8). -/
structure Line where
  seq    : BitVec 32 := 0
  pos    : BitVec 64 := 0
  flags  : BitVec 8 := 0
  start  : Nat := 0
  bytes  : List Byte := []
  trailer : BitVec 8 := 0
  drop   : Bool := false       -- discarded: unmatched with UNM 1
  number : Nat := 0            -- line starts since stream enable
  link   : Nat := 0            -- the link at whose pins it started
  adapt  : List Nat := []      -- links whose adapters take it (R249)
  store  : Bool := false       -- the pixel store takes it (R251)
  run    : Nat := 0            -- the run of reception it belongs to
  cut    : Nat := 0            -- trailer bits for bytes that will not arrive; 0: they may still
  done   : Bool := false       -- whole, and handed to its consumers
  deriving DecidableEq, Repr

/-- The pixel store of a group (R250 to R253). -/
structure Store where
  on       : Bool := false     --| 1 | 09 R250 | DESIGN CHOICE 0 (off)
  base     : Nat := 0          --| 40 | 09 R250 | DESIGN CHOICE 0
  len      : Nat := 0          --| 40 | 09 R250 | DESIGN CHOICE 0
  decim    : Nat := 1          --| 7 | 09 R250 | DESIGN CHOICE 1
  trunc    : Bool := false     --| 1 | 09 R250 | DESIGN CHOICE 0
  next     : BitVec 32 := 0    --| 32: index of the next record | 09 R251 | DESIGN CHOICE 0
  count    : Nat := 0          --| line starts since enable | 09 R251 | DESIGN CHOICE 0
  pport    : Option Nat := none --| preview: host port | 09 R253 | DESIGN CHOICE none
  pbase    : Nat := 0          --| 64 | 09 R253 | DESIGN CHOICE 0
  plen     : Nat := 0          --| 29 | 09 R253 | DESIGN CHOICE 0
  pdecim   : Nat := 1          --| 9 | 09 R253 | DESIGN CHOICE 1
  pcount   : Nat := 0          --| records counted for the preview | 09 R253 | DESIGN CHOICE 0
  pnext    : BitVec 32 := 0    --| 32: index of the next preview record | 09 R253 | DESIGN CHOICE 0
  deriving DecidableEq, Repr

/-- A control access forwarded through a group's master link (R235). -/
structure Ctrl where
  job   : Nat := 0
  write : Bool := false
  addr  : BitVec 32 := 0
  len   : Nat := 0
  data  : List Byte := []      -- data still to write, or read so far
  sent  : Nat := 0             -- bytes completed
  tag   : Nat := 0
  fails : Nat := 0             -- acknowledgments of the packet corrupt or missing in a row
  waits : Nat := 0             -- wait acknowledgments: each has restarted the limit
  deriving DecidableEq, Repr

/-- What a group holds, at its master link's number. -/
structure Group where
  set     : GroupSet := {}             --| Table 9-4 | 09 R233 | the defaults of Table 9-4
  log     : List LogEntry := []        --| at most 64 | 09 R239 | empty
  free    : Nat := 0                   --| 32: line starts since stream enable | 09 R240 | DESIGN CHOICE 0
  taking  : Bool := false              --| 1: a line start has been seen since the start of reception | 09 R256 | 0
  stopping : Bool := false             --| 1: the line in progress is the last | 09 R256 | 0
  rx      : Nat := 0                   --| lines of the run whose packets have not all come up to the last | 09 R234, R256 | 0
  rxLast  : List Nat := []             --| tags of last packets that have come before an earlier packet | 09 R234 | none
  run     : Nat := 0                   --| runs of reception so far (the model's own) | 09 R256 | 0
  nextTag : Option Nat := none         --| packet tag the reassembler takes next, counted without wrap | 09 R234 | none
  tagRun  : Nat := 0                   --| the run of reception of nextTag (the model's own) | 09 R234 | 0
  startLink : Nat := 0                 --| link at which the run's first line started | 09 R234 | DESIGN CHOICE 0
  rxTag   : Option Nat := none         --| lowest packet tag still to arrive, counted without wrap | 09 R234 | none
  rxAhead : List Nat := []             --| tags above it that have arrived: at most 16 | 09 R234 | none
  rxRef   : Nat := 512                 --| tag of the latest packet, counted without wrap (the model's own) | 09 R234 | DESIGN CHOICE 512
  logUndo : Option (List LogEntry × BitVec 8 × Bool) := none --| log, MISS and LOG_OVF before the newest entry, where it found the log full | 09 R239, R241 | none
  line    : Option Line := none        --| the line being reassembled and passed to its consumers | 09 R234, R243 | none
  starts  : List Line := []            --| lines started after it | 09 R240 | none
  toAdapt : List Nat := []             --| links whose adapter has still to take it | 09 R243 | none
  toStore : Bool := false              --| 1: the store has still to take it | 09 R243 | 0
  store   : Store := {}                --| the pixel store | 09 R250 | see Store
  ctrl    : List Ctrl := []            --| control accesses, oldest first | 09 R235 | none
  tagCtl  : Nat := 0                   --| next control tag | 09 R235 | DESIGN CHOICE 0
  resume  : Bool := false              --| 1: it was STREAMING before DOZE or a loss | 09 R255, R256 | 0
  deriving DecidableEq, Repr

structure Cxp where
  links  : Vector Link 128 := Vector.replicate 128 {}   --| 128 links | 09 R258 | see Link
  groups : Vector Group 128 := Vector.replicate 128 {}  --| one per possible master | 09 R233 | see Group
  deriving DecidableEq, Repr

/-! ### Encoders and triggers (10_encoders_and_triggers.md) -/

/-- Encoder parameters (Table 10-1). -/
structure EncParams where
  mode  : Nat := 0        --| 3 | 10 Table 10-1 | 0
  src   : Bool := false   --| 1 | 10 Table 10-1 | 0
  gpA   : Nat := 0        --| 7 | 10 Table 10-1 | 0
  gpB   : Nat := 0        --| 7 | 10 Table 10-1 | 0
  gpZ   : Nat := 0        --| 7 | 10 Table 10-1 | 0
  inv   : Bool := false   --| 1 | 10 Table 10-1 | 0
  filt  : Nat := 2        --| 3 | 10 Table 10-1 | 2
  zmode : Nat := 0        --| 2 | 10 Table 10-1 | 0
  win   : Nat := 2        --| 3 | 10 Table 10-1 | 2
  pmax  : Nat := 1000     --| 17, µs | 10 Table 10-1 | 1,000 (1 ms)
  preset : BitVec 64 := 0 --| 64 | 10 Table 10-1 | 0
  deriving DecidableEq, Repr

structure Encoder where
  par    : EncParams := {}       --| Table 10-1 | 10 R260 | see EncParams
  a      : Bool := false         --| 1: level of phase A | 10 R260 | DESIGN CHOICE 0
  b      : Bool := false         --| 1: level of phase B | 10 R260 | DESIGN CHOICE 0
  z      : Bool := false         --| 1: level of Z | 10 R264 | DESIGN CHOICE 0
  pinA   : Bool := false         --| 1: level of input A before the filter | 10 R263 | DESIGN CHOICE 0
  pinB   : Bool := false         --| 1: level of input B before the filter | 10 R263 | DESIGN CHOICE 0
  pinZ   : Bool := false         --| 1: level of input Z before the filter | 10 R263 | DESIGN CHOICE 0
  lastA  : Option Nat := none    --| stamp of the last edge of A | 10 R261 | DESIGN CHOICE none
  lastB  : Option Nat := none    --| stamp of the last edge of B | 10 R261 | DESIGN CHOICE none
  lastCnt : Option Nat := none   --| stamp of the last counted edge | 10 R262 | DESIGN CHOICE none
  pos    : BitVec 64 := 0        --| 64 | 10 R266, R291 | 0
  dir    : Bool := false         --| 1 (DIR): 1 backward | 10 Table 10-7 | 0
  stamps : List Nat := []        --| at most 17 stamps, newest first (1/64 ns) | 10 R269 | empty
  zpos   : BitVec 64 := 0        --| 64 | 10 R291 | 0
  zseen  : Bool := false         --| 1 | 10 Table 10-7 | 0
  indexed : Bool := false        --| 1: the index preset of ZMODE 2 has been made | 10 R264 | 0
  tdcf   : Bool := false         --| 1 | 10 Table 10-7 | 0
  failed : Bool := false         --| 1 | 10 Table 10-7 | 0
  err    : BitVec 32 := 0        --| 32 (ENC_ERR) | 10 Table 10-8 | 0
  illegal : BitVec 8 := 0        --| 8, RC | 10 R291 | 0
  overspeed : BitVec 8 := 0      --| 8, RC | 10 R291 | 0
  glitch : BitVec 16 := 0        --| 16, RC | 10 R291 | 0
  capPos : Option (BitVec 32) := none --| 32: captured ENC_POS_HI | 10 R291, 18 R454 | no capture stands
  capZpos : Option (BitVec 32) := none --| 32: captured ENC_ZPOS_HI | 10 R291, 18 R454 | no capture stands
  must   : BitVec 64 := 0        --| 64 (ENC_MUSTn shows [41:10]) | 10 R292 | DESIGN CHOICE 0
  deriving DecidableEq, Repr

inductive GenState where
  | unconfigured | idle | armed | done
  deriving DecidableEq, Repr

/-- Generator parameters (Table 10-3). -/
structure GenParams where
  enc   : Nat := 0            --| 3 | 10 Table 10-3, Table 10-9 | 0
  start : BitVec 64 := 0      --| 64 | 10 Table 10-3 | DESIGN CHOICE 0
  pitch : Nat := 1024         --| 48 | 10 Table 10-3 | DESIGN CHOICE 1,024
  count : Nat := 0            --| 32 | 10 Table 10-3 | DESIGN CHOICE 0
  both  : Bool := false       --| 1 (TRAVEL) | 10 Table 10-3, Table 10-9 | 0
  edge  : Bool := false       --| 1 (PLACE) | 10 Table 10-3, Table 10-9 | 0
  trig  : BitVec 32 := 0      --| 32 | 10 Table 10-3 | DESIGN CHOICE 0
  link  : BitVec 128 := 0     --| 128 | 10 Table 10-3 | DESIGN CHOICE 0
  gpio  : BitVec 96 := 0      --| 96 | 10 Table 10-3 | DESIGN CHOICE 0
  line  : Bool := false       --| 1 | 10 Table 10-3, Table 10-9 | 0
  deriving DecidableEq, Repr

/-- A scheduled instant (R277): output 256 is the nominal instant. Time in 2^-20 ns, so that it is exact. -/
structure Sched1 where
  out : Nat := 0
  k   : Nat := 0
  t   : Nat := 0
  late : Bool := false         -- it counts as a late firing (R278)
  crossed : Bool := false      -- a count has reached its firing position
  edge : Bool := false         -- it fires from the edge that reached it (R278, R281)
  fwd : Bool := true           -- the strip travels forward
  seq : BitVec 32 := 0         -- the grid point's sequence number
  pos : BitVec 64 := 0         -- its nominal position
  line : Bool := false         -- its generator sends LINE events
  old : Bool := false          -- it stands from before the generator was armed or its encoder preset
  deriving DecidableEq, Repr

/-- A grid point suppressed at its nominal instant (R276). -/
structure Gone where
  k   : Nat := 0
  t   : Nat := 0               -- its nominal instant
  fwd : Bool := true           -- the direction of travel at it
  old : Bool := false          -- it stands from before the generator was armed or its encoder preset
  deriving DecidableEq, Repr

structure Gen where
  state  : GenState := .unconfigured   --| 2 | 10 R274, Table 10-9 | UNCONFIGURED
  par    : GenParams := {}             --| Table 10-3 | 10 R270 | see GenParams
  seq0   : BitVec 32 := 0              --| 32 | 10 R271 | DESIGN CHOICE 0
  high   : Int := 0                    --| 64 (H), unwrapped against the position | 10 R272, R291 | 0
  sched  : List Sched1 := []           --| instants scheduled | 10 R277 | none
  ahead  : List (Nat × Nat) := []      --| outputs and grid points fired before the count reached them | 10 R277 | none
  gone   : List Gone := []             --| grid points suppressed under R276 at their last nominal instant | 10 R276 | none
  lastNom : Option Nat := none         --| last nominal instant issued, in 2^-20 ns | 10 R276 | none
  lastSeq : BitVec 32 := 0             --| 32 (TRG_GENVIEW1) | 10 R291 | DESIGN CHOICE 0
  issued : Bool := false               --| 1: a grid point was issued since power-on | 08 R210 | 0
  wraps  : BitVec 32 := 0              --| 32: passes of the sequence number from 0xFFFF_FFFF to 0 | 08 R210 | 0
  lineCnt : BitVec 64 := 0             --| 64: LINE events issued | 08 R210 | 0
  gsupp  : BitVec 16 := 0              --| 16, RC | 10 Table 10-9 | 0
  deriving DecidableEq, Repr

/-- Settings and state of one output (Table 10-4, Table 10-10): 0-31 TRIG, 32-159 links, 160-255 GPIO copies. -/
structure TrigOut where
  offset  : Int := 0                   --| 48, signed | 10 Table 10-4 | 0
  spacing : Nat := 200                 --| 20, 10 ns | 10 Table 10-4, Table 10-10 | 200 (2 µs)
  width   : Nat := 50                  --| 16, 20 ns | 10 Table 10-4 | 50 (1 µs)
  pol     : Bool := false              --| 1 | 10 Table 10-4 | 0
  dlf     : Bool := false              --| 1 (TRG_DLFAIL) | 10 R291 | 0
  last    : Option Nat := none         --| last fired instant, in 2^-20 ns | 10 R287 | none
  supp    : BitVec 16 := 0             --| 16, RC | 10 R291 | 0
  active  : Bool := false              --| 1: a pulse is on the output | 10 R283 | 0
  until_  : Nat := 0                   --| instant at which the pulse ends, in 2^-20 ns | 10 R283 | DESIGN CHOICE 0
  deriving DecidableEq, Repr

/-- A compare unit (R288). -/
structure Compare where
  armed : Bool := false                --| 1 (CMP_ARMED) | 10 Table 10-11 | 0
  met   : Bool := false                --| 1 (CMP_MET), W1C | 10 Table 10-11 | 0
  enc   : Nat := 0                     --| 3 | 10 R288 | DESIGN CHOICE 0
  pos   : BitVec 64 := 0               --| 64 | 10 R288 | DESIGN CHOICE 0
  dir   : Nat := 0                     --| 2 | 10 R288 | DESIGN CHOICE 0
  muster : Bool := false               --| 1 | 10 R288 | DESIGN CHOICE 0
  msix  : Bool := false                --| 1 | 10 R288 | DESIGN CHOICE 0
  deriving DecidableEq, Repr

structure Trig where
  enc     : Vector Encoder 8 := Vector.replicate 8 {}     --| 8 encoders | 10 R291 | see Encoder
  gen     : Vector Gen 64 := Vector.replicate 64 {}       --| 64 generators | 10 R274 | see Gen
  out     : Vector TrigOut 256 := Vector.replicate 256 {} --| 256 outputs | 10 R282 | see TrigOut
  cmp     : Vector Compare 8 := Vector.replicate 8 {}     --| 8 units | 10 R288 | see Compare
  driven  : Bool := false              --| 1: the TRIG pins are driven | 10 R283 | 0 (high-impedance before HALTER)
  genSel  : BitVec 6 := 0              --| 6 | 10 R291 | 0
  genView : Option (Vector (BitVec 32) 7) := none  --| 7 × 32: captured views | 10 R291, 18 R455 | no capture stands
  outSel  : BitVec 8 := 0              --| 8 | 10 R291 | 0
  outView : Option (Vector (BitVec 32) 5) := none  --| 5 × 32: captured views | 10 R291, 18 R455 | no capture stands
  err     : BitVec 32 := 0             --| 32 (TRG_ERR) | 10 Table 10-12 | 0
  fired   : BitVec 32 := 0             --| 32 | 10 R291 | 0
  supp    : BitVec 32 := 0             --| 32 | 10 R291 | 0
  late    : BitVec 32 := 0             --| 32 | 10 R291 | 0
  wire    : BitVec 32 := 0             --| 32 (TRG_WIRE) | 10 R286, R291 | DESIGN CHOICE 0
  mustSeq : BitVec 32 := 0             --| 32 | 10 R291 | DESIGN CHOICE 0
  mustT   : BitVec 64 := 0             --| 64 | 10 R291 | DESIGN CHOICE 0
  deriving DecidableEq, Repr

/-! ### DDR5 memory (11_ddr5.md) -/

/-- Channel states (Table 11-8). -/
inductive ChState where
  | absent | training | active | recal | failedTrain | retired | excluded | selfRefresh
  deriving DecidableEq, Repr

/-- A memory descriptor (R294, Table 11-1): one die's components. -/
structure MemDesc where
  present : BitVec 4 := 0      -- channels of the die that are present
  x16     : Bool := false
  density : Nat := 0           -- 0 16, 1 24, 2 32 Gbit
  ranks2  : Bool := false
  speed   : Nat := 1           -- 1 to 5: 4,800 to 8,000 MT/s
  deriving DecidableEq, Repr

/-- Region kinds of Table 11-3; the number of an instance is the die, or the result region. -/
inductive RegionKind where
  | pixel | spill | trace | caster | result | user
  deriving DecidableEq, Repr

structure Region where
  kind  : RegionKind := .user
  index : Nat := 0
  base  : Nat := 0
  len   : Nat := 0
  deriving DecidableEq, Repr

/-- Who makes a memory access (Table 11-3). -/
inductive MemUser where
  | caster | host (p : Fin 2) | memCmd | collector | sched | trace | store
  deriving DecidableEq, Repr

/-- A request that waits at a channel (R302). -/
structure MemReq where
  cls   : Nat := 4
  user  : MemUser := .memCmd
  write : Bool := false
  addr  : Nat := 0
  data  : List (Option Byte) := [] -- bytes to write, where enabled
  len   : Nat := 64            -- bytes to read
  job   : Option Nat := none   -- the waiting command whose access it is
  deriving DecidableEq, Repr

structure Channel where
  state   : ChState := .absent         --| 3 | 11 Table 11-8 | 0 (ABSENT)
  persist : Bool := false              --| 1 | 11 Table 11-8 | 0
  byCommand : Bool := false            --| 1: retired by command, not persistently | 11 R307 | 0
  err     : BitVec 32 := 0             --| 32 (MEM_ERR) | 11 Table 11-9 | 0
  scrubEn : Bool := true               --| 1 | 11 Table 11-10 | 1
  period  : BitVec 8 := 12             --| 8 | 11 Table 11-10 | 12
  ceThr   : BitVec 8 := 64             --| 8 | 11 Table 11-10 | 64
  scrubPos : BitVec 29 := 0            --| 29 (MEM_SCRUB_POS) | 11 Table 11-7 | 0
  sweepCe : Nat := 0                   --| corrected errors of this sweep | 11 R297 | 0
  cntCorr : BitVec 32 := 0             --| 32, RC | 11 Table 11-7 | 0
  cntUncorr : BitVec 32 := 0           --| 32, RC | 11 Table 11-7 | 0
  ueAddr  : BitVec 40 := 0             --| 40 | 11 Table 11-7 | 0
  ueHi    : Option (BitVec 32) := none --| 32: captured MEM_UE_ADDR_HI | 11 R311, 18 R454 | no capture stands
  cntDeny : BitVec 32 := 0             --| 32, RC | 11 Table 11-7 | 0
  denyAddr : BitVec 40 := 0            --| 40 (MEM_DENY_ADDR) | 11 R299, 18 | 0
  denyReq : BitVec 3 := 0              --| 3 (MEM_DENY_ADDR_HI[10:8]) | 18 Table 18-9 | 0
  denyHi  : Option (BitVec 32) := none --| 32: captured MEM_DENY_ADDR_HI | 18 R454 | no capture stands
  cntRecal : BitVec 32 := 0            --| 32 | 18 Table 18-9 | 0
  cntSweep : BitVec 32 := 0            --| 32 | 18 Table 18-9 | 0
  corrSc  : Vector (BitVec 16) 2 := Vector.replicate 2 0 --| 2 × 16, RC | 18 Table 18-9 | 0
  util    : Nat := 0                   --| 10 (MEM_UTIL) | 18 Table 18-9 | DESIGN CHOICE 0
  waitMax : Nat := 0                   --| 16, RC | 18 Table 18-9 | DESIGN CHOICE 0
  cntAged : BitVec 32 := 0             --| 32 | 18 Table 18-9 | 0
  cntPd   : BitVec 32 := 0             --| 32 | 18 Table 18-9 | 0
  therm   : BitVec 2 := 0              --| 2 (MEM_THERM) | 18 Table 18-9 | DESIGN CHOICE 0
  regSel  : BitVec 7 := 0              --| 7 (MEM_REGSEL) | 18 Table 18-9 | 0
  regView : Option (Vector (BitVec 32) 5) := none --| 5 × 32: captured MEM_REGVIEW0-4 | 18 R455 | no capture stands
  rank    : Vector (BitVec 32) 2 := Vector.replicate 2 0 --| 2 × 32 (MEM_RANKn) | 18 Table 18-9 | 0
  cntRmw  : BitVec 32 := 0             --| 32 | 18 Table 18-9 | 0
  cntSref : BitVec 32 := 0             --| 32 | 18 Table 18-9 | 0
  cntRd   : BitVec 32 := 0             --| 32 | 11 Table 11-7 | 0
  cntWr   : BitVec 32 := 0             --| 32 | 11 Table 11-7 | 0
  trainTj : BitVec 8 := 0              --| 8 (MEM_TRAININFO) | 11 Table 11-7 | 0
  quick   : Bool := false              --| 1 (MEM_TRAININFO) | 11 Table 11-7 | 0
  fill    : Nat := 0                   --| the training that left the contents undefined (model's own number, log entry 21) | 11 R304 | DESIGN CHOICE 0
  kept    : Bool := false              --| 1: the board kept the components powered through STABLED | 11 R309 | 0
  reqs    : List MemReq := []          --| requests waiting, oldest first | 11 R302 | none
  powerDown : Bool := false            --| 1 | 11 R309 | 0
  training : Option Nat := none        --| job of a training in progress | 11 R307 | none
  mustSeq : BitVec 32 := 0             --| 32 | 11 Table 11-7 | DESIGN CHOICE 0
  mustT   : BitVec 64 := 0             --| 64 | 11 Table 11-7 | DESIGN CHOICE 0
  mustRd  : BitVec 32 := 0             --| 32 | 11 Table 11-7 | DESIGN CHOICE 0
  mustWr  : BitVec 32 := 0             --| 32 | 11 Table 11-7 | DESIGN CHOICE 0
  mustStatus : BitVec 32 := 0          --| 32 | 11 R312 | DESIGN CHOICE 0
  deriving DecidableEq, Repr

/-- What the device keeps of a result region (R301). -/
structure ResSt where
  w   : BitVec 32 := 0          --| 32: write index | 11 R301 | 0
  r   : BitVec 32 := 0          --| 32: release index last accepted | 11 R301 | 0
  bad : Option (BitVec 32) := none --| 32: release index ignored and counted | 11 R301 | none
  deriving DecidableEq, Repr

structure Ddr where
  chan   : Vector Channel 8 := Vector.replicate 8 {}  --| 8 channels | 11 R311 | see Channel
  desc   : Vector (Option MemDesc) 2 := Vector.replicate 2 none --| descriptor of each die | 11 R294 | none
  active : Vector (List Nat) 2 := Vector.replicate 2 []         --| active channels of each die | 11 R298 | none
  map    : List Region := []                          --| the region map | 11 R300 | none
  bytes  : Memory := []                               --| 256 GiB, key = 2^35 × channel + channel-local address | 11 R298 | DESIGN CHOICE: a byte nothing has written since its channel's training reads as a free value (0 before any)
  bad    : Tab (List Nat) := []                       --| flipped bits per 32-bit beat (40 bits with its code), key = key of its first byte / 4 | 11 R295 | none
  results : Tab ResSt := []                           --| 64 result regions | 11 R301 | 0
  deriving DecidableEq, Repr

/-! ### Host ports and semaphores (12_host_ports.md) -/

/-- Ring states (Table 12-10). -/
inductive RingState where
  | disabled | enabling | active | discard
  deriving DecidableEq, Repr

/-- A reply held for a ring (R330): its bytes, and whether its command was begun before the last loss of the port. -/
structure Reply where
  bytes : List Byte := []
  deriving DecidableEq, Repr

structure Ring where
  base  : BitVec 64 := 0               --| 64 | 12 Table 12-10 | 0
  state : RingState := .disabled       --| 2 | 12 Table 12-10 | DISABLED
  en    : Bool := false                --| 1 | 12 Table 12-10 | 0
  place : Bool := false                --| 1 | 12 Table 12-10 | 0
  imod  : BitVec 8 := 0                --| 8, µs | 12 Table 12-10 | 0
  ven   : Bool := false                --| 1 | 12 Table 12-10 | 0
  vec   : BitVec 6 := 0                --| 6 | 12 Table 12-10 | 0
  log2  : Nat := 6                     --| 5 | 12 Table 12-10 | 6
  dev   : BitVec 32 := 0               --| 32 (F or W) | 12 Table 12-10 | 0
  host  : BitVec 32 := 0               --| 32 (T, H or R) | 12 Table 12-10 | 0
  drop  : BitVec 32 := 0               --| 32, RC (HP_RDROP) | 12 Table 12-10 | 0
  imodOn : Bool := false               --| 1: interrupt moderation time running | 12 R319 | 0
  imodPend : Bool := false             --| 1: an update was made during it | 12 R319 | 0
  waiting : List Reply := []           --| replies waiting for space | 12 R330 | none
  deriving DecidableEq, Repr

/-- One entry of the MSI-X table (Table 12-2, R319). -/
structure MsixEntry where
  addr : BitVec 64 := 0                --| 64 | 12 R319 | 0
  data : BitVec 32 := 0                --| 32 | 12 R319 | 0
  mask : Bool := true                  --| 1 | 12 R319 | PRESUMED 1 (PCI Express: masked at reset)
  pend : Bool := false                 --| 1 | 12 R319 | 0
  deriving DecidableEq, Repr

/-- The device events of the HP_VECSEL list. -/
structure VecMap where
  en  : Bool := false                  --| 1 | 12 Table 12-9 | 0
  vec : BitVec 6 := 0                  --| 6 | 12 Table 12-9 | 0
  deriving DecidableEq, Repr

structure Port where
  linkUp  : Bool := false              --| 1 | 12 Table 12-11 | 0
  perst   : Bool := true               --| 1: PERST_x_L asserted | 12 R314 | DESIGN CHOICE 1
  speed   : Nat := 0                   --| 3 | 12 Table 12-11 | 0
  width   : Nat := 0                   --| 3 | 12 Table 12-11 | 0
  l1      : Bool := false              --| 1 | 12 Table 12-11 | 0
  grace   : Bool := false              --| 1 | 12 Table 12-11 | 0
  graceEnd : Nat := 0                  --| yard time at which the grace timer expires (GRACE_LEFT, 16, is read from it) | 12 R324, Table 12-11 | 0
  bme     : Bool := false              --| 1 | 12 Table 12-11 | 0
  mse     : Bool := false              --| 1: memory space enable | 12 R313 | PRESUMED 0
  msixEn  : Bool := false              --| 1: MSI-X enable | 12 R319 | PRESUMED 0
  msixMask : Bool := false             --| 1: function mask | 12 R319 | PRESUMED 0
  d3      : Bool := false              --| 1: power state D3hot | 12 Table 12-1 | PRESUMED 0 (D0)
  devCtl  : BitVec 16 := 0x2910        --| 16: Device Control (payload and read request sizes, extended tags) | 12 Table 12-1 | PRESUMED 0x2910
  linkCtl : BitVec 16 := 0             --| 16: Link Control (ASPM) | 12 Table 12-1 | PRESUMED 0
  devCtl2 : BitVec 16 := 0             --| 16: Device Control 2 (completion timeout) | 12 Table 12-1 | 0 (50 ms)
  aerMask : BitVec 32 := 0x400000      --| 32: AER uncorrectable mask | 12 Table 12-1 | PRESUMED 0x0040_0000
  aerSev  : BitVec 32 := 0x462030      --| 32: AER uncorrectable severity | 12 Table 12-1 | PRESUMED 0x0046_2030
  aerCor  : BitVec 32 := 0xE000        --| 32: AER correctable mask | 12 Table 12-1 | PRESUMED 0x0000_E000
  aerSta  : BitVec 32 := 0             --| 32: AER uncorrectable status, the bits of a read completion | 12 Table 12-1, R318 | PRESUMED 0
  pciSta  : BitVec 16 := 0             --| 16: Status, the bits of a read completion | 12 Table 12-1, R318 | PRESUMED 0
  devSta  : BitVec 4 := 0              --| 4: Device Status, error bits | 12 Table 12-1, R318 | PRESUMED 0
  dmaHeld : List (Nat × List Byte) := [] --| DMA writes that wait for bus mastering: address and bytes | 12 R313, R318 | none
  bar0    : BitVec 64 := 0             --| 64 | 12 R315 | PRESUMED 0
  bar2    : BitVec 64 := 0             --| 64 | 12 R315 | PRESUMED 0
  bar4    : BitVec 64 := 0             --| 64 | 12 R315 | PRESUMED 0
  ready   : Bool := false              --| 1: configuration requests are answered | 12 R314 | 0
  wakeOut : Bool := false              --| 1: WAKE_x_L asserted | 12 R314 | 0
  err     : BitVec 32 := 0             --| 32 (HP_ERR) | 12 Table 12-12 | 0
  semGrace : Nat := 1000               --| 16, ms | 12 Table 12-9 | 1,000
  cntCmd  : BitVec 32 := 0             --| 32 | 12 Table 12-9 | 0
  cntRefused : BitVec 32 := 0          --| 32 | 12 Table 12-9 | 0
  cntSemign : BitVec 32 := 0           --| 32 | 12 Table 12-9 | 0
  aper    : BitVec 11 := 0             --| 11 | 12 Table 12-9 | 0
  vecSel  : BitVec 4 := 0              --| 4 | 12 Table 12-9 | 0
  vecMap  : Vector VecMap 13 := Vector.replicate 13 {} --| 13 events | 12 Table 12-9 | 0
  ringSel : BitVec 5 := 0              --| 5 | 12 Table 12-9 | 0
  rings   : Vector Ring 24 := Vector.replicate 24 {}   --| 24 rings | 12 Table 12-5 | see Ring
  sqNext  : Nat := 0                   --| 2: submission ring served next | 12 R329 | DESIGN CHOICE 0
  windows : Tab Byte := []             --| 16 × 8 MiB result windows | 12 R335 | 0
  msix    : Vector MsixEntry 64 := Vector.replicate 64 {} --| 64 entries | 12 R319 | see MsixEntry
  mbx     : Tab Byte := []             --| 4 KiB mailbox window | 12 R332 | DESIGN CHOICE 0
  mbxLen  : Nat := 0                   --| 16 | 12 Table 12-9 | 0
  mbxAcc  : Bool := false              --| 1 | 12 Table 12-9 | 0
  mbxState : Nat := 0                  --| 2 | 12 Table 12-9 | 0 (IDLE)
  held    : List (Nat × BitVec 32 × Option (List Byte)) := [] --| writes held until the end of STARTING | 12 R333, 18 R452 | none
  epoch   : Nat := 0                   --| losses so far: names the replies to discard (the model's own) | 12 R337 | 0
  mustSeq : BitVec 32 := 0             --| 32 | 12 Table 12-9 | DESIGN CHOICE 0
  mustT   : BitVec 64 := 0             --| 64 | 12 Table 12-9 | DESIGN CHOICE 0
  record  : BitVec 256 := 0            --| 256 (muster record) | 12 R341 | DESIGN CHOICE 0
  deriving DecidableEq, Repr

/-- A hardware semaphore (Table 12-3). -/
structure Sem where
  free  : Bool := false                --| 1 | 12 Table 12-3 | 0
  owner : Option (Fin 2) := none       --| 2 | 12 Table 12-3 | none
  tie   : Bool := false                --| 1 | 12 Table 12-3 | 0 (A)
  lost  : Bool := false                --| 1 | 12 Table 12-3 | 0
  takes : BitVec 16 := 0               --| 16 | 12 Table 12-3 | 0
  deriving DecidableEq, Repr

/-- The resources bound to semaphores (R325). -/
structure Bindings where
  pdk   : Vector (Option Nat) 64 := Vector.replicate 64 none   --| paddocks | 12 R325 | none bound
  link  : Vector (Option Nat) 128 := Vector.replicate 128 none --| links | 12 R325 | none bound
  enc   : Vector (Option Nat) 8 := Vector.replicate 8 none     --| encoders | 12 R325 | none bound
  gen   : Vector (Option Nat) 64 := Vector.replicate 64 none   --| generators | 12 R325 | none bound
  flows : List (Nat × Nat × Nat) := []                         --| at most 64 ranges: low, high, semaphore | 12 R325 | none bound
  deriving DecidableEq, Repr

structure Hosts where
  port : Vector Port 2 := Vector.replicate 2 {}  --| ports A and B | 12 R313 | see Port
  sem  : Vector Sem 64 := Vector.replicate 64 {} --| 64 semaphores | 12 Table 12-3 | see Sem
  bind : Bindings := {}                          --| bindings | 12 R325 | none
  tie  : Bool := false                           --| 1: register-file tie bit | 18 R453 | DESIGN CHOICE 0
  deriving DecidableEq, Repr

/-! ### Patterns, pours and paddocks (14_patterns_and_paddocks.md) -/

/-- A frame of configuration memory (R371, R373): the payload last written, and the bits of the stored frame (payload
bits 0-4,095, then check field bits 0-47) that an upset has flipped since. -/
structure Frame where
  good  : BitVec 4096 := 0
  flips : List Nat := []
  deriving DecidableEq, Repr

/-- Paddock states (Table 13-3's list of codes). -/
inductive PdkState where
  | empty | loading | torn | isolated | live | faulted
  deriving DecidableEq, Repr

/-- The release stages (R78, R379). -/
inductive Stage where
  | reset | write | output
  deriving DecidableEq, Repr

structure Paddock where
  state  : PdkState := .empty          --| 3 | 14 Table 14-10 | EMPTY
  secure : Bool := false               --| 1 | 14 Table 14-10 | 0
  relReset : Bool := false             --| 1 | 14 Table 14-10 | 0
  relWrite : Bool := false             --| 1 | 14 Table 14-10 | 0
  relOutput : Bool := false            --| 1 | 14 Table 14-10 | 0
  tornWhy : BitVec 4 := 0              --| 4 | 14 Table 14-10 | 0
  lastIdx : BitVec 13 := 0             --| 13 | 14 Table 14-10 | 0
  poured : Bool := false               --| 1: its last pour completed | 14 R359 | 0
  wrote  : Nat := 0                    --| stall and bin control frames written by the pour | 14 R376 | 0
  urst   : Bool := false               --| 1: a user global reset is asserted | 03 R79 | 0
  inIso  : Bool := true                --| 1: lanes into it isolate | 03 R71 | 1
  outIso : Bool := true                --| 1: lanes out of it isolate | 03 R71 | 1
  isolating : Option Nat := none       --| job of an isolation waiting for its outgoing lanes | 14 R382 | none
  deliver : Bool := true               --| 1: the scheduler may deliver to its ports | 14 R382 | 1
  hiz    : Bool := false               --| 1: its fabric user I/O pins stay high-impedance after a fault | 14 R385, 17 R436 | 0
  hdrOrder : Nat × Nat × Nat := (0, 0, 0) --| release order of its pattern's header: code, delays | 14 R368, R383 | DESIGN CHOICE 0
  order  : Option (Nat × Nat × Nat) := none --| release order override: code, delays | 14 R359 | none
  err    : BitVec 32 := 0              --| 32 (PDK_ERR) | 02 R46, 18 | 0
  drain  : BitVec 32 := 0              --| 32 (drain count) | 03 R73, 18 | 0
  tapOverrun : Bool := false           --| 1 (tap overrun flag), W1C | 03 R82, 18 | 0
  tapCount : BitVec 16 := 0            --| 16 (tap overrun count), RC | 03 R82, 18 | 0
  paceSlot : BitVec 3 := 0             --| 3 (PDK_PACE.SLOT) | 18 Table 18-8 | 0
  paceCount : Vector (BitVec 24) 8 := Vector.replicate 8 0 --| 8 × 24: counts of the last completed window | 18 Table 18-8 | 0
  binSel : BitVec 6 := 0               --| 6 | 04 Table 4-5 | 0
  binView : Bool := false              --| 1 | 04 Table 4-5 | 0
  record : BitVec 256 := 0             --| 256 (muster record) | 16 R420 | DESIGN CHOICE 0
  deriving DecidableEq, Repr

/-- A flash device (R362, R364): its contents (an erased byte reads 0xFF) and what its parameter table offers. -/
structure FlashDev where
  present : Bool := false              --| 1 | 14 R362 | DESIGN CHOICE 0 (no flash on the board)
  octal   : Bool := false              --| 1: xSPI octal DDR offered | 14 R362 | DESIGN CHOICE 0
  maxMHz  : Nat := 0                   --| 8 | 14 R362 | DESIGN CHOICE 0
  log2cap : Nat := 0                   --| 8 | 14 R362 | DESIGN CHOICE 0
  bytes   : Tab Byte := []             --| 2^log2cap bytes, each held as its complement | 14 R364 | DESIGN CHOICE 0xFF (erased)
  deriving DecidableEq, Repr

/-- The pour in progress (R374 to R379). -/
structure Pour where
  job      : Nat := 0                  -- the command's job; 0 for the start-up pour
  full     : Bool := false
  fromHost : Bool := false
  any      : Bool := false             -- slot 0xFF: several slots may be tried
  first    : Bool := true              -- the try is the first one
  slot     : Nat := 0                  -- the slot of this try
  slots    : List Nat := []            -- slots still to try
  base     : Nat := 0                  -- flash address of the image
  image    : List Byte := []           -- the image, from a host buffer
  mask     : BitVec 64 := 0
  secure   : BitVec 64 := 0    -- paddocks that its header marks secure
  accepted : Bool := false
  seg      : Nat := 0                  -- next segment
  frames   : List (Nat × BitVec 4096) := []  -- frames verified, waiting for the lift
  last     : Option Nat := none        -- last frame address written
  lifted   : Vector Bool 2 := Vector.replicate 2 false -- the die's rail has read back at least 0.75 V
  releasing : Bool := false
  deriving DecidableEq, Repr

/-- A paddock in a release sequence: of a pour (R379) or of RELEASE_PADDOCK with bit 0 set (R383). -/
structure Rel where
  job    : Nat := 0
  pdk    : Nat := 0
  stages : List Stage := []
  deriving DecidableEq, Repr

structure Cfg where
  frames : Tab Frame := []             --| 331,776 stall configuration and bin control frames | 14 R371, R373 | zero payload, correct check field
  stateFrames : Tab (BitVec 64) := []  --| 64 bits per stall | 14 R372 | 0
  host   : Bool := false               --| 1 | 14 Table 14-12 | 0
  slot   : BitVec 3 := 0               --| 3 | 14 Table 14-12 | 0
  fallback : Bool := false             --| 1 | 14 Table 14-12 | 0
  golden : Bool := false               --| 1 | 14 Table 14-12 | 0
  lstatus : BitVec 4 := 0              --| 4 | 14 Table 14-12 | 0
  ldetail : BitVec 16 := 0             --| 16 | 14 Table 14-12 | 0
  err    : BitVec 32 := 0              --| 32 (CFG_ERR) | 14 Table 14-13 | 0
  flashStatus : BitVec 32 := 0         --| 32 (CFG_FLASH) | 14 Table 14-11 | 0
  written : BitVec 32 := 0             --| 32 (CFG_FRAMES) | 14 Table 14-11 | 0
  lastAddr : BitVec 19 := 0            --| 19 (CFG_LASTADDR) | 14 Table 14-11 | 0
  pours  : BitVec 32 := 0              --| 32 (CFG_CNT_POURS) | 14 Table 14-11 | 0
  ftlEn  : Bool := true                --| 1 | 14 Table 14-14 | 1
  ftlPeriod : Nat := 100               --| 14 | 14 Table 14-14 | 100
  ftlPos : Vector Nat 2 := Vector.replicate 2 0 --| 2 × frame number in the sweep (FTL_POS shows the north engine's address) | 14 Table 14-11 | 0
  ftlHeld : Vector (List Nat) 2 := Vector.replicate 2 [] --| addresses of the corrections held for the rail or for DOZE | 05 R133, 14 R387 | none
  ftlCorr : BitVec 32 := 0             --| 32, RC | 14 Table 14-11 | 0
  ftlUncorr : BitVec 32 := 0           --| 32, RC | 14 Table 14-11 | 0
  ftlUeAddr : BitVec 19 := 0           --| 19 | 14 Table 14-11 | 0
  ftlSweeps : BitVec 32 := 0           --| 32 | 14 Table 14-11 | 0
  ftlDone : Vector Nat 2 := Vector.replicate 2 0 --| sweeps completed by each engine | 14 Table 14-11 | 0
  flash  : Vector FlashDev 2 := Vector.replicate 2 {} --| 2 devices | 14 R362 | see FlashDev
  parallel : Bool := false             --| 1 | 14 R362 | 0
  flReset : Bool := false              --| 1: FL_RST_L has been asserted in this start | 17 R441 | 0
  ioLow  : Vector Bool 2 := Vector.replicate 2 false --| 2: FLn_IO4 to FLn_IO7 held low | 17 R441 | DESIGN CHOICE 0
  pour   : Option Pour := none         --| the pour in progress (CFG_STATUS.BUSY: there is one) | 14 R374, Table 14-12 | none
  rels   : List Rel := []              --| release sequences running | 14 R383 | none
  mustSeq : BitVec 32 := 0             --| 32 | 14 Table 14-11 | DESIGN CHOICE 0
  mustT  : BitVec 64 := 0              --| 64 | 14 Table 14-11 | DESIGN CHOICE 0
  mustPos : BitVec 32 := 0             --| 32 | 14 Table 14-11 | DESIGN CHOICE 0
  deriving DecidableEq, Repr

/-! ### The command processor (13_commands.md) -/

/-- What a long-running command (R349) has still to do. -/
inductive JobKind where
  | pour
  | graphLoad
  | isolate (p : Nat) (force : Bool)
  | release (p : Nat)
  | flashWrite (dev addr : Nat) (erase : Bool) (data : List Byte)
  | flashRead (dev addr len : Nat)
  | discover (mask : BitVec 128)
  | setLink (m code : Nat)
  | ctrl (m : Nat)
  | flowSubmit (items : List Item) (dropped : Nat)
  | flowDrain (lo hi : Nat)
  | kernelLoad (mask : BitVec 256) (force : Bool) (kernel : BitVec 16) (prog : List (BitVec 64))
      (segs : List (Nat × List Byte)) (loaded skipped late : Nat)
  | casterRetire (mask : BitVec 256) (force persistent : Bool)
  | memTrain (op ch : Nat) (persistent : Bool)
  | musterFire (seq : BitVec 32)
  | bist (mask : BitVec 32) (retire : Bool)
  | shutdown (skip : Bool)
  | memWait (c : Cmd)   -- a command that waits for a channel to serve its access (not a long-running command)
  | imageWait (c : Cmd) -- its image can be read now: it goes on (not a long-running command)
  | setState            -- a SET_STATE that waits for its new state (not a long-running command)
  deriving DecidableEq, Repr

/-- A long-running command in progress. -/
structure Job where
  id     : Nat := 0
  src    : CmdSrc := .sideband
  opcode : BitVec 16 := 0
  tag    : BitVec 32 := 0
  reply  : Bool := false
  fence  : Bool := false
  epoch  : Nat := 0            -- the port's losses when it began (R337)
  hbuf   : BitVec 64 := 0
  hlen   : BitVec 32 := 0
  kind   : JobKind := .pour
  deriving DecidableEq, Repr

structure CmdProc where
  jobs   : List Job := []      --| at most 32 | 13 R349 | none
  nextId : Nat := 1            --| names for jobs, 0 naming none (the model's own) | 13 R349 | 1
  held   : List Cmd := []      --| commands that wait to begin (33rd long-running command, fence) | 13 R349, R350 | none
  deriving DecidableEq, Repr

/-! ### Device states, start-up, studbook (15_startup_and_power.md) -/

/-- Device states (Table 13-3, Table 15-1). -/
inductive DevState where
  | off | starting | halter | pouring | service | doze | stabled | shuttingDown | recovery
  deriving DecidableEq, Repr

/-- Life-cycle states (Table 13-3). -/
inductive LcState where
  | factory | owned | field | ret | scrapped
  deriving DecidableEq, Repr

/-- The shutdown record (Table 15-7), field by field; its reserved bytes are 0. -/
structure ShutRecord where
  magic : BitVec 32 := 0x44535A4B
  gen : Nat := 0
  fwver : BitVec 16 := 0
  lcs : LcState := .factory
  bistRun : Bool := false
  consumed : Bool := false
  time : Nat := 0
  passed : BitVec 32 := 0
  failed : BitVec 32 := 0
  newret : Nat := 0
  calHash : BitVec 384 := 0
  crc : BitVec 32 := 0
  deriving DecidableEq, Repr

/-- A training record (R304). -/
structure TrainRec where
  desc : MemDesc := {}
  tj   : Int := 0
  deriving DecidableEq, Repr

/-- An entry of the fault log (Table 15-8). -/
inductive FaultEntry where
  | deviceFault (t : Nat) (code : Nat) | failedWake (t : Nat) | torn (t : Nat) (addr : Nat) | trip (t : Nat) (sensor : Nat)
  deriving DecidableEq, Repr

/-- The record kinds of the studbook, in the order of Table 15-8. -/
inductive BookKind where
  | shutdown | verdicts | retiredList | ddr | links | calibration | memoryMap | golden | wrappedKeys | lifeCycle | faultLog
  deriving DecidableEq, Repr

/-- A block that holds a record (R409): its number, the record's kind and generation, and whether its CRC-32C matches: the
newest valid generation of a kind is in force. -/
structure BookBlock where
  block : Nat := 0
  kind : BookKind := .shutdown
  gen : Nat := 0
  whole : Bool := true
  deriving DecidableEq, Repr

/-- An entry of the retired-block list (R407): a block, whether a command retired it persistently (R167, R307), and the tests
of Table 15-6 that it failed. -/
structure RetEntry where
  block : Block
  byCommand : Bool := false
  tests : BitVec 9 := 0
  deriving DecidableEq, Repr

/-- The studbook (R409 to R411): its blocks, and the contents of the records in force (Table 15-8). -/
structure Studbook where
  live   : List BookBlock := []        --| blocks that hold a record in force | 15 R409, Table 15-8 | DESIGN CHOICE none (a blank studbook)
  wear   : Tab Nat := []               --| writes of each of the 4,096 blocks | 15 R409 | DESIGN CHOICE 0
  removed : List Nat := []             --| blocks removed from use | 15 R409 | DESIGN CHOICE none
  shut   : Option ShutRecord := none   --| shutdown record | 15 R408 | DESIGN CHOICE none (a blank studbook)
  verdicts : List (BitVec 32 × BitVec 32) := [] --| the last 16 BIST results: pass, fail | 15 R410 | DESIGN CHOICE none
  retired : List RetEntry := []        --| retired-block list | 15 R407 | DESIGN CHOICE none
  desc   : Vector (Option MemDesc) 2 := Vector.replicate 2 none --| descriptors | 11 R294 | DESIGN CHOICE none
  train  : Vector (Option TrainRec) 8 := Vector.replicate 8 none --| training records | 11 R304 | DESIGN CHOICE none
  map    : Option (List Region) := none --| memory map | 11 R300 | DESIGN CHOICE none
  eq     : Tab (BitVec 8) := []        --| equaliser settings per link and rate | 15 Table 15-8 | DESIGN CHOICE 0
  golden : Option (Nat × Nat × Nat) := none --| golden record: slot, address, length | 14 R366 | DESIGN CHOICE none
  wrapped : Tab (Option (BitVec 256)) := [] --| wrapped keys, by slot | 14 R370 | DESIGN CHOICE none
  nonce  : BitVec 64 := 0              --| 64 | 13 R360 | DESIGN CHOICE 0
  signed : BitVec 16 := 0              --| 16: signed commands accepted | 13 Table 13-14 | DESIGN CHOICE 0
  starts : BitVec 32 := 0              --| 32 (HUB_STARTS): starts since manufacture, of the life-cycle record | 18 Table 18-6 | DESIGN CHOICE 0
  faults : List FaultEntry := []       --| the last 1,024 entries | 15 Table 15-8 | DESIGN CHOICE none
  retReadable : Bool := true           --| 1: a copy of the retired-block list can be read | 15 R411 | DESIGN CHOICE 1
  lcReadable : Bool := true            --| 1: the life-cycle record can be read | 15 R411 | DESIGN CHOICE 1
  cal    : List (BitVec 8) := []       --| bytes of the calibration records in force | 15 R408, Table 15-8 | DESIGN CHOICE none
  sealed : Bool := false               --| 1: the life-cycle record is sealed | 16 R425 | 0
  deriving DecidableEq, Repr

/-- Identity, key slots and public-key hash in fuses (R422, Table 13-8, R425). -/
structure Fuses where
  serial : BitVec 32 := 0              --| 32 | 16 R422 | DESIGN CHOICE 0 (unit-specific)
  lot    : BitVec 64 := 0x2020202020202020 --| 8 characters | 16 R422 | DESIGN CHOICE spaces (unit-specific)
  fwver  : BitVec 16 := 0              --| 16 | 16 Table 16-7 | DESIGN CHOICE 0
  die    : Vector (BitVec 192) 3 :=
    #v[0x1000, 0x1000, 0x0101]         --| 3 × 192 (Table 13-8) | 00 R1, 16 R422 | type and stepping by R1; the rest DESIGN CHOICE 0 (unit-specific)
  lcs    : LcState := .factory         --| 3 | 16 R425, 15 Table 15-9 | FACTORY (0)
  pkHash : BitVec 384 := 0             --| 384 | 13 R360 | DESIGN CHOICE 0 (unit-specific)
  keys   : Vector (Option (BitVec 256)) 16 := Vector.replicate 16 none --| 16 eFuse key slots | 13 Table 13-14 | DESIGN CHOICE none programmed
  keysOff : Bool := false              --| 1: eFuse key slots disabled | 16 R425 | 0
  provKey : BitVec 256 := 0            --| 256: provisioning key | 13 Table 13-14 | DESIGN CHOICE 0 (unit-specific)
  deriving DecidableEq, Repr

/-- What a start waits for, and the state of the power pins. -/
structure Dev where
  state   : DevState := .starting      --| 4 (DSTATE) | 15 R392, Table 15-9 | STARTING (1)
  startStep : Nat := 1                 --| 4: step of Table 15-3 | 15 R395 | 1
  stuck   : Bool := false              --| 1: the start ended in STARTING | 15 R396 | 0
  cold    : Bool := false              --| 1 (COLD) | 15 Table 15-9 | 0
  recPin  : Bool := false              --| 1 (RECPIN) | 15 Table 15-9 | 0
  noFlash : Bool := false              --| 1 (NOFLASH) | 15 Table 15-9 | 0
  sbRo    : Bool := false              --| 1 (SB_RO) | 15 Table 15-9 | 0
  toHalter : BitVec 16 := 0            --| 16 | 15 Table 15-9 | 0
  rcause  : BitVec 4 := 0              --| 4 | 15 Table 15-10 | 0
  wake    : BitVec 2 := 0              --| 2 | 15 Table 15-10 | 0
  newret  : BitVec 8 := 0              --| 8 | 15 Table 15-10 | 0
  toService : BitVec 16 := 0           --| 16 | 15 Table 15-10 | 0
  startAt : Nat := 0                   --| yard time at which the start is counted from | 15 R395 | 0
  heldInReset : Bool := false          --| 1: RST_L, a lost rail or a thermal trip holds the device in reset | 15 R393, 19 R467, R475 | 0
  waking  : Option Nat := none         --| 1: a wake waits for the rails, since this yard time | 15 R404 | none
  wakeMask : BitVec 16 := 0            --| 16 | 13 Table 13-16 | DESIGN CHOICE 0
  wakeSig : BitVec 2 := 0              --| 2 | 13 Table 13-16 | DESIGN CHOICE 0
  wakeSb  : Bool := false              --| 1 | 13 Table 13-16 | DESIGN CHOICE 0
  rstL    : Bool := true               --| 1: level of RST_L | 15 R393 | 1
  recoveryL : Bool := true             --| 1: level of RECOVERY_L (50 kΩ pull-up) | 15 R393 | 1
  stbyL   : Bool := true               --| 1: level of STBY_L | 15 R403 | DESIGN CHOICE 1 (deasserted)
  thermtripL : Bool := true            --| 1: level of THERMTRIP_L | 19 R475 | DESIGN CHOICE 1 (deasserted)
  alert   : Bool := false              --| 1: SMB_ALERT_L asserted | 12 R338 | 0
  dozeEntry : Option Nat := none       --| the job of the SET_STATE to DOZE that waits for the floor | 15 R402 | none
  dozeExit : Option (List Nat) := none --| leaving DOZE, with the jobs of the SET_STATEs that wait for SERVICE | 15 R402 | none
  yard    : Nat := 0                   --| 64: yard time, ns | 16 R423 | 0
  faultCnt : BitVec 16 := 0            --| 16, saturating (HUB_FAULT) | 15 R400, 18 Table 18-6 | 0
  faultCode : BitVec 16 := 0           --| 16 (HUB_FAULT) | 18 Table 18-6 | 0
  scr    : Vector (BitVec 32) 4 := Vector.replicate 4 0 --| 4 × 32 (HUB_SCRn) | 18 Table 18-6 | 0
  evt    : BitVec 13 := 0              --| 13, W1C (HUB_EVT) | 18 Table 18-6 | 0
  lastErr : Option Nat := none         --| yard time of the last error event, which a status LED shows for 200 ms | 17 Table 17-3 | none
  fwBuild : BitVec 32 := 0             --| 32 (HUB_FWBUILD) | 18 Table 18-6 | DESIGN CHOICE 0
  deriving DecidableEq, Repr

/-! ### Muster and life cycle (16_muster_identity_lifecycle.md) -/

/-- A change that waits for the release of a fabric cut (R418). -/
inductive Deferred where
  | userReset | resetRelease | admissionStop | limitExpired | loading | faulted | release | reRelease
  deriving DecidableEq, Repr

structure Muster where
  src     : BitVec 6 := 1              --| 6 | 16 Table 16-5 | 1
  latest  : Bool := false              --| 1 (POLICY) | 16 Table 16-5 | 0
  timeout : Nat := 2000                --| 17 | 16 Table 16-4 | 2,000
  errMask : BitVec 13 := 0             --| 13 | 16 Table 16-4 | 0
  busy    : Bool := false              --| 1 | 16 Table 16-6 | 0
  unack   : Bool := false              --| 1 | 16 Table 16-6 | 0
  missed  : Bool := false              --| 1, W1C | 16 Table 16-6 | 0
  inc     : Bool := false              --| 1, W1C | 16 Table 16-6 | 0
  lsrc    : BitVec 6 := 0              --| 6 | 16 Table 16-6 | 0
  seq     : BitVec 32 := 0             --| 32 | 16 Table 16-4 | 0
  time    : BitVec 64 := 0             --| 64 | 16 Table 16-4 | 0
  timeHi  : Option (BitVec 32) := none    --| 32: captured MUS_THI | 16 R421, 18 R454 | no capture stands
  pend    : BitVec 6 := 0              --| 6: sources whose request waits for the next hub cycle | 16 R414 | 0
  cntMissed : BitVec 16 := 0           --| 16, RC | 16 Table 16-4 | 0
  cutInc  : Bool := false              --| 1 | 16 Table 16-4 | 0
  cutDur  : BitVec 17 := 0             --| 17 | 16 Table 16-4 | 0
  part    : BitVec 64 := 0             --| 64 | 16 Table 16-4 | 0
  incMask : BitVec 64 := 0             --| 64 | 16 Table 16-4 | 0
  cntFreq : BitVec 32 := 0             --| 32 | 16 Table 16-4 | 0
  cntPin  : BitVec 32 := 0             --| 32 | 16 Table 16-4 | 0
  hold    : Bool := false              --| 1: the cut holds the participating paddocks | 16 R416 | 0
  holdAt  : Nat := 0                   --| yard time at which the hold began | 16 R416 | DESIGN CHOICE 0
  deferred : List (Deferred × Nat) := [] --| changes waiting for the release of the cut, with their paddock | 16 R418 | none
  govT    : BitVec 64 := 0             --| 64: yard time of the governor's latch | 16 Table 16-2 | 0
  govSeq  : BitVec 32 := 0             --| 32 | 16 Table 16-2 | 0
  deriving DecidableEq, Repr

structure Pps where
  en     : Bool := false               --| 1 | 16 Table 16-7 | 0
  step   : Bool := false               --| 1 | 16 Table 16-7 | 0
  pin    : BitVec 7 := 0               --| 7 | 16 Table 16-7 | 0
  locked : Bool := false               --| 1 | 16 Table 16-7 | 0
  lost   : Bool := false               --| 1 | 16 Table 16-7 | 0
  stepped : Bool := false              --| 1, W1C | 16 Table 16-7 | 0
  phase  : BitVec 24 := 0              --| 24 | 16 Table 16-7 | 0
  last   : Option Nat := none          --| yard time of the last edge | 16 R424 | none
  good   : Nat := 0                    --| edges in a row within 100 ns | 16 R424 | 0
  trim   : Int := 0                    --| rate trim, ppm | 16 R424 | DESIGN CHOICE 0
  acc    : Int := 0                    --| yard time not yet advanced by the trim, 10^-6 ns | 16 R424 | DESIGN CHOICE 0
  timeHi : Option (BitVec 32) := none     --| 32: captured HUB_TIME_HI | 16 R423, 18 R454 | no capture stands
  deriving DecidableEq, Repr

structure Security where
  scan    : Bool := false              --| 1 | 16 R427 | 0
  zeroised : Bool := false             --| 1: zeroise complete | 16 R426 | 0
  signed : BitVec 16 := 0              --| 16: signed commands accepted since the start (HUB_LC) | 18 Table 18-6, R452 | 0
  keyReg  : BitVec 256 := 0            --| 256: key register | 16 R426 | 0
  jtag    : JtagIns := .idcode         --| JTAG instruction in force | 16 R427 | PRESUMED IDCODE (IEEE 1149.1)
  cells   : List (Option Bool) := []   --| boundary register: what each pad drives | 16 R427 | DESIGN CHOICE none (high-impedance)
  deriving DecidableEq, Repr

/-! ### Pins, clocks, crossings, power (17_pins_clocks_crossings.md, 18_register_map.md, 19_electrical_and_package.md) -/

/-- One general-purpose pin (Table 17-2), its pad, and the event crossing of its in-lane (R447). -/
structure Gpio where
  func  : BitVec 4 := 0                --| 4 | 17 Table 17-2 | 0
  pad   : Bool := false                --| 1: level at the pad (IN shows it) | 17 Table 17-2 | 0
  out   : Bool := false                --| 1 | 17 Table 17-2 | 0
  oe    : Bool := false                --| 1 | 17 Table 17-2 | 0
  pull  : BitVec 2 := 1                --| 2 | 17 Table 17-2 | 0b01
  drive : Bool := false                --| 1 | 17 Table 17-2 | 0
  fin   : Bool := false                --| 1 | 17 Table 17-2 | 0
  fout  : Bool := false                --| 1 | 17 Table 17-2 | 0
  role  : BitVec 3 := 0                --| 3 | 17 Table 17-2 | 0
  inst  : BitVec 2 := 0                --| 2 | 17 Table 17-2 | 0
  sel   : BitVec 7 := 0                --| 7 | 17 Table 17-2 | 0
  param : BitVec 8 := 0                --| 8 | 17 Table 17-2 | 0
  actFunc : BitVec 4 := 0              --| 4: the function that has the pad | 17 R435 | 0
  actRole : BitVec 3 := 0              --| 3: the role that has the pad | 17 R435 | 0
  switching : Bool := false            --| 1: a switch interval runs | 17 R435 | 0
  drv   : Bool := false                --| 1: the driver is enabled | 17 R436, R438 | 0 (high-impedance)
  lvl   : Bool := false                --| 1: the level driven | 17 R438 | DESIGN CHOICE 0
  pend  : List (BitVec 8) := []        --| pending counter, up to 15 events | 17 R447 | 0
  resync : Bool := false               --| 1: a resynchronising token is owed | 17 R447 | 0
  ovr   : Bool := false                --| 1 (GPIO_OVRn), W1C | 17 Table 17-10 | 0
  highAt : Option Nat := none          --| yard time since which a muster input is high | 16 Table 16-1 | none
  buf   : List Byte := []              --| UART RX buffer of 16 bytes | 17 R434 | empty
  cmd   : Option (BitVec 8) := none    --| I²C command token that waits for its data token | 17 R434 | none
  deriving DecidableEq, Repr

/-- A USER tree (R80, Table 3-12, Table 18-6). -/
structure UserTree where
  src   : BitVec 4 := 0                --| 4 | 18 Table 18-6 | 0
  div   : Nat := 5                     --| 11 | 18 Table 18-6 | 5
  pin   : BitVec 7 := 0                --| 7 | 18 Table 18-6 | DESIGN CHOICE 0
  gen   : BitVec 6 := 0                --| 6 | 18 Table 18-6 | DESIGN CHOICE 0
  level : Bool := false                --| 1 | 03 R80 | 0 (held low)
  stale : Bool := false                --| 1: the level is still an earlier source's | 03 R80 | 0
  deriving DecidableEq, Repr

/-- A temperature sensor (Table 18-6). -/
structure Sensor where
  temp   : Int := 0                    --| 16, 1/16 °C | 18 Table 18-6 | 0
  valid  : Bool := false               --| 1 | 18 Table 18-6 | 0
  failed : Bool := false               --| 1: marked failed by BIST | 05 R126 | 0
  deriving DecidableEq, Repr

/-- A rail monitor (Table 18-11). -/
structure Rail where
  fail : Bool := false                 --| 1 | 18 Table 18-11 | 0
  oot  : Bool := false                 --| 1, W1C | 18 Table 18-11 | 0
  mv   : BitVec 16 := 0                --| 16 | 18 Table 18-11 | 0
  deriving DecidableEq, Repr

structure Pins where
  gpio   : Vector Gpio 96 := Vector.replicate 96 {} --| 96 pins | 17 R429 | see Gpio
  banks  : Vector (BitVec 2) 6 := Vector.replicate 6 0 --| 6 × 2 | 17 Table 17-11 | 0
  serErr : BitVec 16 := 0              --| 16, RC (GPIO_SERERR) | 17 Table 17-10 | 0
  lock   : BitVec 16 := 0              --| 16 (HUB_CLK.LOCK) | 17 Table 17-12 | 0
  lost   : BitVec 16 := 0              --| 16, W1C (HUB_CLK.LOST) | 17 Table 17-12 | 0
  toCnt  : BitVec 8 := 0               --| 8, RC | 17 Table 17-13 | 0
  timeout : BitVec 10 := 10            --| 10 | 17 Table 17-13 | 10
  xovr   : BitVec 10 := 0              --| 10, W1C (HUB_XOVR) | 17 Table 17-10 | 0
  tickPend : Vector Nat 8 := Vector.replicate 8 0 --| pending counters of the tick inputs | 17 R447 | 0
  musPend : Vector Nat 2 := Vector.replicate 2 0 --| pending counters of the muster request ports | 17 R447 | 0
  trees  : Vector UserTree 3 := Vector.replicate 3 {} --| 3 USER trees | 03 R80 | see UserTree
  sensors : Vector Sensor 36 := Vector.replicate 36 {} --| 36 sensors | 18 Table 18-6 | see Sensor
  trimAt : Vector Int 2 := Vector.replicate 2 0 --| temperature of each fabric die at the last measurement of its trigger wires, 1/16 °C | 10 R286 | DESIGN CHOICE 0
  rails  : Vector Rail 7 := Vector.replicate 7 {} --| 7 rails | 18 Table 18-11 | see Rail
  iread  : Vector (BitVec 16) 2 := Vector.replicate 2 0 --| 2 × 16 | 18 Table 18-11 | 0
  health : List Byte := []             --| sideband HEALTH bytes of the last refresh | 12 R338, R339 | DESIGN CHOICE zeros
  temps  : List Byte := []             --| sideband TEMPS bytes of the last refresh | 12 R338, R339 | DESIGN CHOICE zeros
  pec    : BitVec 16 := 0              --| 16: PEC failures | 12 Table 12-8 | 0
  deriving DecidableEq, Repr


/-! ### The whole block -/

/-- What the block has sent to the outside (log entry 4: the model's record of outputs, newest last). -/
inductive Out where
  /-- a posted write to host memory by port `p` (R318) -/
  | hostWrite (p : Fin 2) (addr : Nat) (bytes : List Byte)
  /-- an MSI-X message (R319) -/
  | msix (p : Fin 2) (addr : Nat) (data : BitVec 32)
  /-- the completion of a read by port `p` -/
  | readData (p : Fin 2) (bytes : List Byte)
  /-- the completion of an aperture read by port `p`; the poisoned (EP) bit set on an uncorrectable block (Table 11-2) -/
  | apertureData (p : Fin 2) (addr : Nat) (bytes : List Byte) (poisoned : Bool)
  /-- configuration request retry status (R314) -/
  | crs (p : Fin 2)
  /-- the answer to a sideband read with its Packet Error Code, and a NACK (R338, R339) -/
  | sideband (bytes : List Byte) (pec : Byte)
  | nack
  /-- a pulse on output `o` of the trigger engine: its instant in 1/64 ns, width in 20 ns units and polarity (R283) -/
  | pulse (o : Nat) (start width : Nat) (pol : Bool)
  | pulseEnd (o : Nat)
  /-- packets on a CoaXPress uplink: trigger (R237), control (R235), heartbeat (R229) -/
  | trigPacket (link : Nat) (t : Nat) (delay : Nat)
  | ctrlPacket (link : Nat) (write : Bool) (addr len : Nat) (data : List Byte) (tag : Nat)
  | heartbeat (link : Nat) (yard : Nat)
  /-- bytes on serial pins (R434) -/
  | uart (pin : Nat) (v : Byte)
  | i2c (pin : Nat) (cmd data : Byte)
  | spi (pin : Nat) (v : Byte)
  /-- an AVSBus transaction for a die's rail (R123) -/
  | avs (die : Nat) (op : AvsOp)
  /-- a token of an output lane leaving the device at a pin: level (R438) -/
  | pin (n : Nat) (level : Bool)
  /-- the 100 ns pulse of a muster output pin (R415) -/
  | musterPulse (n : Nat)
  /-- the 20 ns pulse of a trace-out pin (R432) -/
  | tracePulse (n : Nat)
  /-- a JTAG instruction in force, and the bits that its register shifts out, first bit first (R427) -/
  | jtag (i : JtagIns) (bits : List Bool)
  /-- The pads that a JTAG instruction holds (R427): cell number, and the level driven or none. Under EXTEST_PULSE and
  EXTEST_TRAIN an AC-coupled pad sends a pulse, or a train of pulses, in place of its level (IEEE 1149.6). -/
  | jtagPads (i : JtagIns) (l : List (Nat × Option Bool))
  /-- `FL_RST_L` asserted for 10 µs (R441) -/
  | flashReset
  deriving DecidableEq, Repr

/-- The state of the block. -/
structure State where
  fuse : Fuses := {}                   --| fuses | 16 R422, R425 | see Fuses
  dev  : Dev := {}                     --| device state, start-up, power | 15 | see Dev
  sec  : Security := {}                --| life-cycle block | 16 R426, R427 | see Security
  book : Studbook := {}                --| studbook | 15 R409 | see Studbook
  bookWas : Studbook := {}             --| the studbook before the writes under way (the model's own: it shows which a loss of power may interrupt) | 15 R409 | as the studbook
  hosts : Hosts := {}                  --| host ports, semaphores, bindings | 12 | see Hosts
  cmdp : CmdProc := {}                 --| command processor | 13 | see CmdProc
  mus  : Muster := {}                  --| muster common block | 16 | see Muster
  pps  : Pps := {}                     --| PPS | 16 R424 | see Pps
  gov  : Governor := {}                --| rate governor | 05 | see Governor
  cfg  : Cfg := {}                     --| configuration memory, loader, fettler, flash | 14 | see Cfg
  pdk  : Vector Paddock 64 := Vector.replicate 64 {} --| 64 paddocks | 01 R9, 14 | see Paddock
  fab  : Fabric := {}                  --| fabric outside its frames | 02, 03, 04 | see Fabric
  cast : Vector Caster 256 := Vector.replicate 256 {} --| 256 casters | 06 | see Caster
  sch  : Sched := {}                   --| flow scheduler | 07 | see Sched
  cool : Cooling := {}                 --| cooling lists | 08 | see Cooling
  trc  : Trace := {}                   --| scheduling trace | 08 | see Trace
  cxp  : Cxp := {}                     --| CoaXPress links and groups | 09 | see Cxp
  trig : Trig := {}                    --| encoders and triggers | 10 | see Trig
  ddr  : Ddr := {}                     --| DDR5 | 11 | see Ddr
  pins : Pins := {}                    --| pins, clocks, sensors, rails | 17, 18, 19 | see Pins
  out  : List Out := []                --| the model's record of what was sent outside | log entry 4 | empty
  free : Nat := 0                      --| the model's counter of free values drawn | log entry 3 | DESIGN CHOICE 0
  pending : List Instr := []           --| commands waiting, first in first out | log entry 1 | empty
  deriving DecidableEq, Repr

/-- The block right after reset: every field at the value the spec states, or at the one the assumption log names. -/
def State.reset : State := {}

/-- Why a step ends in a fault. The spec lets no command stop this block: every event it describes ends in a next
state (an error is a register bit, a status or a held token). -/
inductive Fault where
  /-- Raised by nobody. Safe. -/
  | unused
  deriving DecidableEq, Repr

/-- Why a command is refused. -/
inductive Refusal where
  /-- Raised by a command that has no meaning yet, with its mnemonic. Safe. -/
  | notModelled (mnemonic : String)
  /-- Raised by `JTAG_INSTRUCTION` for an internal scan instruction while scan is enabled: R427 enables those
  instructions and the spec says nothing of what they do. Safe. -/
  | internalScan (code : Nat)
  deriving DecidableEq, Repr

end Sys2Proof.Machine
end

