-- ==== Sys2Proof/Machine/Tab.lean ====
section
/-! DEFINITION. Machine/Tab.lean: reading and writing sparse tables, fixed arrays and lists of bytes; the byte order of
every wider field (00_scope.md: byte 0 is the least significant). -/

namespace Sys2Proof.Machine

open Sys2Proof

variable {α β : Type} {n : Nat}

/-! ### Sparse tables -/

/-- The value at key `k`, or the table's default `d`. -/
def tget (d : α) : Tab α → Nat → α
  | [], _ => d
  | (j, v) :: r, k => if j = k then v else tget d r k

/-- The table with key `k` set to `v`, in canonical form: the default is not listed. -/
def tput [DecidableEq α] (d : α) : Tab α → Nat → α → Tab α
  | [], k, v => if v = d then [] else [(k, v)]
  | (j, w) :: r, k, v =>
    if k < j then (if v = d then (j, w) :: r else (k, v) :: (j, w) :: r)
    else if k = j then (if v = d then r else (k, v) :: r)
    else (j, w) :: tput d r k v

/-- The table with the value at `k` changed by `f`. -/
def tmod [DecidableEq α] (d : α) (t : Tab α) (k : Nat) (f : α → α) : Tab α :=
  tput d t k (f (tget d t k))

/-- The table without the entries whose key satisfies `p`. -/
def tdrop (p : Nat → Bool) (t : Tab α) : Tab α := t.filter fun e => !p e.1

/-- Keys strictly rise from above `lo` on, and no entry holds what an unlisted key reads as. -/
def tabFrom [DecidableEq α] (d : Nat → α) : Option Nat → Tab α → Bool
  | _, [] => true
  | lo, (k, v) :: r => (match lo with | none => true | some l => decide (l < k)) && decide (v ≠ d k) && tabFrom d (some k) r

/-- The canonical form of a table. -/
def tabWf [DecidableEq α] (d : α) (t : Tab α) : Bool := tabFrom (fun _ => d) none t

/-- `len` consecutive bytes from address `a`. -/
def readBytes (m : Memory) (a : Nat) : Nat → List Byte
  | 0 => []
  | len + 1 => tget 0 m a :: readBytes m (a + 1) len

/-- Consecutive bytes written from address `a`. -/
def writeBytes (m : Memory) (a : Nat) : List Byte → Memory
  | [] => m
  | b :: r => writeBytes (tput 0 m a b) (a + 1) r

/-- `len` consecutive bytes from address `a` of a memory whose unlisted bytes read as `d` says. -/
def readFilled (d : Nat → Byte) (m : Memory) (a : Nat) : Nat → List Byte
  | 0 => []
  | len + 1 => tget (d a) m a :: readFilled d m (a + 1) len

/-- Bytes written from address `a` of such a memory, where they are enabled. -/
def writeEnabled (d : Nat → Byte) (m : Memory) (a : Nat) : List (Option Byte) → Memory
  | [] => m
  | some b :: r => writeEnabled d (tput (d a) m a b) (a + 1) r
  | none :: r => writeEnabled d m (a + 1) r

/-- The canonical form of such a memory. -/
abbrev filledWf (d : Nat → Byte) (m : Memory) : Prop := tabFrom d none m = true

/-- Memory.wf: the canonical form of a memory of bytes. -/
abbrev Memory.wf (m : Memory) : Prop := tabWf 0 m = true

/-! ### Fixed arrays -/

/-- The array with element `i` set. -/
def vset (v : Vector α n) (i : Fin n) (x : α) : Vector α n := v.set i.val x i.isLt

/-- The array with element `i` changed by `f`. -/
def vmod (v : Vector α n) (i : Fin n) (f : α → α) : Vector α n := vset v i (f v[i])

/-- The element at a number, or `d` beyond the end. -/
def vget (d : α) (v : Vector α n) (i : Nat) : α := if h : i < n then v[i] else d

/-- The array with the element at a number changed; unchanged beyond the end. -/
def vmodN (v : Vector α n) (i : Nat) (f : α → α) : Vector α n :=
  if h : i < n then vmod v ⟨i, h⟩ f else v

/-- The array with every element changed, its number given. -/
def vmapI (v : Vector α n) (f : Nat → α → α) : Vector α n := v.mapIdx f

/-- The list with element `i` changed. -/
def lmod (l : List α) (i : Nat) (f : α → α) : List α := l.modify i f

/-! ### Bytes and bits -/

/-- The `len` bytes of `v`, least significant first. -/
def leBytes : Nat → Nat → List Byte
  | 0, _ => []
  | len + 1, v => BitVec.ofNat 8 v :: leBytes len (v / 256)

/-- The number whose bytes, least significant first, are given. -/
def leNat : List Byte → Nat
  | [] => 0
  | b :: r => b.toNat + 256 * leNat r

/-- Bytes `[lo, lo + len)` of a parameter block, as a number; a byte beyond the end reads 0. -/
def leAt (l : List Byte) (lo len : Nat) : Nat := leNat ((l.drop lo).take len)

/-- Byte `i` of a list, 0 beyond the end. -/
def byteAt (l : List Byte) (i : Nat) : Byte := l.getD i 0

/-- The list cut or filled with zeros to `len` bytes. -/
def padTo (len : Nat) (l : List Byte) : List Byte := (l ++ List.replicate (len - l.length) 0).take len

/-- The `n` numbers below `n` for which bit `k` of `m` is set, rising. -/
def bitsOf (n m : Nat) : List Nat := (List.range n).filter fun k => m.testBit k

/-- A mask with the bits named in a list. -/
def maskOf (l : List Nat) : Nat := l.foldl (fun m k => m ||| 2 ^ k) 0

/-- 1 or 0. -/
def b2n (b : Bool) : Nat := if b then 1 else 0

/-- The 64 bytes of an item, and an item from 64 bytes. -/
def itemBytes (i : Item) : List Byte := leBytes 64 i.toNat
def itemOf (l : List Byte) : Item := BitVec.ofNat 512 (leNat (l.take 64))

/-- Bits `[lo + len - 1 : lo]` of a word as a number. -/
def fld {w : Nat} (v : BitVec w) (lo len : Nat) : Nat := (v.toNat / 2 ^ lo) % 2 ^ len

/-- The word with bits `[lo + len - 1 : lo]` replaced. -/
def setFld {w : Nat} (v : BitVec w) (lo len x : Nat) : BitVec w :=
  BitVec.ofNat w (v.toNat - fld v lo len * 2 ^ lo + (x % 2 ^ len) * 2 ^ lo)

/-- A saturating count. -/
def satAdd {w : Nat} (v : BitVec w) (k : Nat) : BitVec w := BitVec.ofNat w (min (2 ^ w - 1) (v.toNat + k))

/-- The two's complement value of the low `w` bits. -/
def sInt (w v : Nat) : Int := if v % 2 ^ w < 2 ^ (w - 1) then (v % 2 ^ w : Nat) else ((v % 2 ^ w : Nat) : Int) - (2 ^ w : Nat)

/-- The low `w` bits of a signed value, as a number. -/
def uNat (w : Nat) (v : Int) : Nat := (v % (2 ^ w : Nat)).toNat

end Sys2Proof.Machine
end

