-- ==== Sys2Proof/Machine/Ops.lean ====
section
/-! DEFINITION. Machine/Ops.lean: the named operations over the state: its parts, outputs and free values, device events
and MSI-X messages, muster requests, replies to host commands, watermark notices and paddock errors. -/

namespace Sys2Proof.Machine

open Sys2Proof

/-! ### Codes (Table 13-3, Table 12-10) -/

/-- Device state codes (Table 13-3). -/
def devCode : DevState → Nat
  | .off => 0 | .starting => 1 | .halter => 2 | .pouring => 3 | .service => 4 | .doze => 5 | .stabled => 6
  | .shuttingDown => 7 | .recovery => 8

/-- The device state of a code. -/
def devOfCode : Nat → Option DevState
  | 0 => some .off | 1 => some .starting | 2 => some .halter | 3 => some .pouring | 4 => some .service
  | 5 => some .doze | 6 => some .stabled | 7 => some .shuttingDown | 8 => some .recovery | _ => none

/-- Life-cycle state codes (Table 13-3). -/
def lcCode : LcState → Nat
  | .factory => 0 | .owned => 1 | .field => 2 | .ret => 3 | .scrapped => 4

def lcOfCode : Nat → Option LcState
  | 0 => some .factory | 1 => some .owned | 2 => some .field | 3 => some .ret | 4 => some .scrapped | _ => none

/-- Paddock state codes (Table 13-3). -/
def pdkCode : PdkState → Nat
  | .empty => 0 | .loading => 1 | .torn => 2 | .isolated => 3 | .live => 4 | .faulted => 5

/-- Ring state codes (Table 12-10). -/
def ringCode : RingState → Nat
  | .disabled => 0 | .enabling => 1 | .active => 2 | .discard => 3

/-! ### Changing one part -/

def State.modPort (s : State) (p : Fin 2) (f : Port → Port) : State := { s with hosts.port := vmod s.hosts.port p f }

/-- Ring `r` of a port by its `HP_RINGSEL` code: 0-3 SQ, 4-7 RQ, 8-23 RR (Table 12-9). -/
def State.modRing (s : State) (p : Fin 2) (r : Fin 24) (f : Ring → Ring) : State :=
  s.modPort p fun h => { h with rings := vmod h.rings r f }

def State.ring (s : State) (p : Fin 2) (r : Fin 24) : Ring := s.hosts.port[p].rings[r]

def State.modPdk (s : State) (k : Fin 64) (f : Paddock → Paddock) : State := { s with pdk := vmod s.pdk k f }

/-- Every paddock of a list changed. -/
def State.modPdks (s : State) (l : List Nat) (f : Paddock → Paddock) : State :=
  { s with pdk := vmapI s.pdk fun k x => if l.contains k then f x else x }

def State.modCast (s : State) (c : Fin 256) (f : Caster → Caster) : State := { s with cast := vmod s.cast c f }

def State.modLink (s : State) (n : Fin 128) (f : Link → Link) : State := { s with cxp.links := vmod s.cxp.links n f }

def State.modGroup (s : State) (n : Fin 128) (f : Group → Group) : State := { s with cxp.groups := vmod s.cxp.groups n f }

def State.modEnc (s : State) (e : Fin 8) (f : Encoder → Encoder) : State := { s with trig.enc := vmod s.trig.enc e f }

def State.modGen (s : State) (g : Fin 64) (f : Gen → Gen) : State := { s with trig.gen := vmod s.trig.gen g f }

def State.modTrigOut (s : State) (o : Fin 256) (f : TrigOut → TrigOut) : State := { s with trig.out := vmod s.trig.out o f }

def State.modChan (s : State) (c : Fin 8) (f : Channel → Channel) : State := { s with ddr.chan := vmod s.ddr.chan c f }

def State.modGpio (s : State) (n : Fin 96) (f : Gpio → Gpio) : State := { s with pins.gpio := vmod s.pins.gpio n f }

def State.modOpPort (s : State) (n : Fin 512) (f : OpPort → OpPort) : State := { s with sch.ports := vmod s.sch.ports n f }

/-- A flow; one that is not listed is CLOSED (R180). -/
def State.flow (s : State) (f : Nat) : Flow := tget {} s.sch.flows f

def State.modFlow (s : State) (f : Nat) (g : Flow → Flow) : State := { s with sch.flows := tmod {} s.sch.flows f g }

def State.chan (s : State) (k : Nat) : Chan := tget {} s.fab.chans k
def State.setChan (s : State) (k : Nat) (c : Chan) : State := { s with fab.chans := tput {} s.fab.chans k c }

def State.bin (s : State) (b : Nat) : BinSt := tget {} s.fab.bins b
def State.modBin (s : State) (b : Nat) (f : BinSt → BinSt) : State := { s with fab.bins := tmod {} s.fab.bins b f }

/-! ### Outputs and free values -/

/-- One thing sent to the outside. -/
def State.emit (s : State) (o : Out) : State := { s with out := s.out ++ [o] }

/-- A JTAG instruction holds the pads: they follow the boundary register, or are high-impedance (R427). -/
def padsTested (s : State) : Bool :=
  match s.sec.jtag with
  | .extest | .extestPulse | .extestTrain | .clamp | .highz => true
  | .bypass | .idcode | .sample | .preload | .internal _ => false

/-- What the device's own functions send to a pad: nothing while a JTAG instruction holds the pads. -/
def State.emitPad (s : State) (o : Out) : State := if padsTested s then s else s.emit o

/-- The states in which the fabric and the casters work, each where its other conditions allow it: in SHUTTING_DOWN the one is
held and the others idle, and in STARTING, STABLED and OFF neither is at work (Table 15-5). -/
def powered (s : State) : Bool :=
  match s.dev.state with
  | .off | .starting | .shuttingDown | .stabled => false
  | .halter | .pouring | .service | .doze | .recovery => true

/-- A free value, and the state that has drawn it (log entry 3). -/
def State.drawNat (s : State) : Nat × State := (Config.freeNat s.free, { s with free := s.free + 1 })

def State.drawBit (s : State) : Bool × State := (Config.freeBit s.free, { s with free := s.free + 1 })

/-! ### The studbook (R409 to R411) -/

/-- Blocks that a record kind may hold (Table 15-8). -/
def bookQuota : BookKind → Nat
  | .shutdown => 4 | .verdicts => 64 | .retiredList => 8 | .ddr => 64 | .links => 128 | .calibration => 64
  | .memoryMap => 8 | .golden => 4 | .wrappedKeys => 16 | .lifeCycle => 16 | .faultLog => 256

def bookKinds : List BookKind :=
  [.shutdown, .verdicts, .retiredList, .ddr, .links, .calibration, .memoryMap, .golden, .wrappedKeys, .lifeCycle, .faultLog]

/-- Blocks left in the wear-levelling pool: those that no quota takes and no failed verification has removed (R409, R410). -/
def bookPool (b : Studbook) : Nat := 4096 - (bookKinds.map bookQuota).sum - b.removed.length

/-- A block is fresh: in use, with no record in force in it. -/
def bookFresh (b : Studbook) (n : Nat) : Bool := !b.removed.contains n && !b.live.any fun e => e.block == n

/-- The fresh blocks with the fewest writes, among which wear levelling leaves the choice open (log entry 105). -/
def leastWorn (b : Studbook) : List Nat :=
  let l := (List.range 4096).filter (bookFresh b)
  let m := l.foldl (fun m n => min m (tget 0 b.wear n)) (tget 0 b.wear (l.headD 0))
  l.filter fun n => tget 0 b.wear n == m

/-- Block `v` of them, counted round, is written. -/
def bookPick (b : Studbook) (v : Nat) : Nat := (leastWorn b).getD (v % (leastWorn b).length) 0

def bookWorn (b : Studbook) (n : Nat) : Studbook := { b with wear := tput 0 b.wear n (tget 0 b.wear n + 1) }

/-- `k` writes fail their verification: each block leaves use, and the write is retried in another one. -/
def bookFails : Nat → Nat → Studbook → Studbook
  | 0, _, b => b
  | k + 1, v, b =>
    let n := bookPick b v
    bookFails k (v + 1) { bookWorn b n with removed := b.removed ++ [n] }

/-- The generation in force of a kind: the newest valid one. -/
def bookGen (b : Studbook) (k : BookKind) : Nat :=
  (b.live.filter fun e => e.kind == k && e.whole).foldl (fun m e => max m e.gen) 0

/-- A record written into a fresh block under the next generation; the oldest block beyond the quota becomes fresh. -/
def bookPut (b : Studbook) (k : BookKind) (v : Nat) : Studbook :=
  let n := bookPick b v
  let mine := (b.live.filter fun e => e.kind == k) ++ [{ block := n, kind := k, gen := bookGen b k + 1 }]
  { bookWorn b n with live := (b.live.filter fun e => e.kind != k) ++ mine.drop (mine.length - bookQuota k) }

/-- The content of a kind's record in `b`, put in its place in `a`. -/
def bookTake (a b : Studbook) : BookKind → Studbook
  | .shutdown => { a with shut := b.shut }
  | .verdicts => { a with verdicts := b.verdicts }
  | .retiredList => { a with retired := b.retired }
  | .ddr => { a with desc := b.desc, train := b.train }
  | .links => { a with eq := b.eq }
  | .calibration => { a with cal := b.cal }
  | .memoryMap => { a with map := b.map }
  | .golden => { a with golden := b.golden }
  | .wrappedKeys => { a with wrapped := b.wrapped }
  | .lifeCycle => { a with nonce := b.nonce, signed := b.signed, starts := b.starts, sealed := b.sealed }
  | .faultLog => { a with faults := b.faults }

/-- The writes of kind `k` under way since `was` are interrupted: their blocks hold no valid record, and the generation of
`was` stays in force (R409). -/
def bookTorn (was b : Studbook) (k : BookKind) : Studbook :=
  let late := (b.live.filter fun e => e.kind == k && decide (bookGen was k < e.gen)).map fun e => { e with whole := false }
  bookTake { b with live := (b.live.filter fun e => e.kind != k) ++ (was.live.filter fun e => e.kind == k) ++ late } was k

/-- Power goes: of the kinds written in this cycle of `REFCLK_SYS`, which writes it interrupts is a free value (R409, R475, log
entry 105). -/
def cutWrites (s : State) : State :=
  if s.book = s.bookWas then s
  else
    let (v, s) := s.drawNat
    let cut := bookKinds.zipIdx.filter fun x => v.testBit x.2 && bookGen s.book x.1 != bookGen s.bookWas x.1
    let b := cut.foldl (fun b x => bookTorn s.bookWas b x.1) s.book
    { s with book := b, bookWas := b }

/-- The blocks of the studbook after a record of kind `k` has been written (R409): how many blocks fail their verification
first, and which of the least worn blocks is taken, are free values. The studbook becomes read-only when fewer than 64 blocks
remain in the pool (R411). A write is one step of the model, so no power loss falls within one (log entry 105). -/
def bookWrite (s : State) (k : BookKind) : State :=
  let (f, s) := s.drawNat
  let (v, s) := s.drawNat
  let b := bookPut (bookFails (f % (bookPool s.book + 1)) v s.book) k v
  { s with book := { s.book with live := b.live, wear := b.wear, removed := b.removed },
           dev.sbRo := s.dev.sbRo || decide (bookPool b < 64) }

/-- An entry joins the retired-block list: one block has one entry, with everything that is recorded of it. -/
def bookMerge (l : List RetEntry) (e : RetEntry) : List RetEntry :=
  if l.any fun x => x.block == e.block then
    l.map fun x => if x.block == e.block then { x with byCommand := x.byCommand || e.byCommand, tests := x.tests ||| e.tests } else x
  else l ++ [e]

/-- Entries of the retired-block list written, in its two copies (R407, Table 15-8); dropped while the studbook is read-only. -/
def bookEnter (s : State) (l : List RetEntry) : State :=
  if s.dev.sbRo ∨ l = [] then s
  else bookWrite (bookWrite { s with book.retired := l.foldl bookMerge s.book.retired } .retiredList) .retiredList

/-! ### Muster requests (R413, R414, R419) -/

/-- The states in which sources raise muster requests (R413). -/
def musterState : DevState → Bool
  | .halter | .pouring | .service | .doze | .recovery => true
  | _ => false

/-- R419: a request that arrives now would be missed. -/
def musterMissed (s : State) : Bool := s.mus.busy || (s.mus.unack && !s.mus.latest)

/-- A request from source `src` (Table 16-1): ignored when the source is not enabled, missed under R419, else kept for
the strobe of the next hub cycle. -/
def musterRequest (s : State) (src : Nat) : State :=
  if musterState s.dev.state && s.mus.src.getLsbD src then
    if musterMissed s then { s with mus.cntMissed := satAdd s.mus.cntMissed 1, mus.missed := true }
    else { s with mus.pend := s.mus.pend ||| BitVec.twoPow 6 src }
  else s

/-! ### Device events and messages (R319, Table 12-9) -/

/-- The function may send memory requests: bus mastering is enabled, and it is in D0 (R313, log entry 68). -/
def masters (h : Port) : Bool := h.bme && !h.d3

/-- DMA writes of port `p`, address and bytes, in their order: sent, or kept until the function may send them (R318). -/
def hostOut (s : State) (p : Fin 2) (l : List (Nat × List Byte)) : State :=
  if masters s.hosts.port[p] then { s with out := s.out ++ l.map fun x => Out.hostWrite p x.1 x.2 }
  else s.modPort p fun h => { h with dmaHeld := h.dmaHeld ++ l }

/-- A message on vector `v` of port `p` (R319): nothing without MSI-X enable and a link; pending while the function or the
vector is masked, or the function may not send it. -/
def sendMsix (s : State) (p : Fin 2) (v : BitVec 6) : State :=
  let h := s.hosts.port[p]
  if h.msixEn && h.linkUp then
    let e := h.msix[v.toNat]
    if h.msixMask || e.mask || !masters h then
      s.modPort p fun h => { h with msix := vmodN h.msix v.toNat fun e => { e with pend := true } }
    else s.emit (.msix p e.addr.toNat e.data)
  else s

/-- The error events of the `HP_VECSEL` list, which a status LED may show (Table 17-3): paddock, governor, CoaXPress,
DDR5 and host-port error. -/
def isErrorEvent (n : Nat) : Bool := n == 2 || n == 3 || n == 4 || n == 5 || n == 12

/-- Event `n` of the `HP_VECSEL` list rises at port `p`: `HUB_EVT` and the port's message. -/
def raiseAt (s : State) (p : Fin 2) (n : Nat) : State :=
  let s := { s with dev.evt := s.dev.evt ||| BitVec.twoPow 13 n,
                    dev.lastErr := if isErrorEvent n then some s.dev.yard else s.dev.lastErr }
  let m := vget ({} : VecMap) s.hosts.port[p].vecMap n
  if m.en then sendMsix s p m.vec else s

/-- The muster source of an event (Table 16-1, bit 4). -/
def musterOnEvent (s : State) (n : Nat) : State := if s.mus.errMask.getLsbD n then musterRequest s 4 else s

/-- Event `n` rises on both ports. -/
def raiseEvent (s : State) (n : Nat) : State := musterOnEvent (raiseAt (raiseAt s 0 n) 1 n) n

/-- Event `n` rises at port `p` alone (mailbox reply, host-port error). -/
def raisePort (s : State) (p : Fin 2) (n : Nat) : State := musterOnEvent (raiseAt s p n) n

/-- Bits of `HP_ERR` (Table 12-12). -/
def hpLinkDown : Nat := 31
def hpReset : Nat := 30
def hpSemLost : Nat := 29
def hpDb : Nat := 28
def hpRel : Nat := 27
def hpMbx : Nat := 26
def hpFetch : Nat := 25
def hpDma : Nat := 24
def hpRdisc : Nat := 23
def hpAcc : Nat := 22

/-- A bit of `HP_ERR` sets, and any of them setting raises the host-port error event (Table 12-12). -/
def hpErr (s : State) (p : Fin 2) (bit : Nat) : State :=
  let old := s.hosts.port[p].err
  let s := s.modPort p fun h => { h with err := h.err ||| BitVec.twoPow 32 bit }
  if old.getLsbD bit then s else raisePort s p 12

/-! ### Rings (R327, R334, Table 12-5) -/

/-- Slots of a ring. -/
def ringN (r : Ring) : Nat := 2 ^ r.log2

/-- The message of a ring after its index write (R319): sent at once, or kept for the end of the moderation time. -/
def ringMessage (s : State) (p : Fin 2) (i : Fin 24) : State :=
  let r := s.ring p i
  if !r.ven then s
  else if r.imodOn then s.modRing p i fun r => { r with imodPend := true }
  else
    let s := sendMsix s p r.vec
    if r.imod = 0 then s else s.modRing p i fun r => { r with imodOn := true }

/-- Reply ring number of a submission ring, and result ring numbers. -/
def rqOf (n : Fin 4) : Fin 24 := ⟨4 + n.val, by omega⟩
def sqOf (n : Fin 4) : Fin 24 := ⟨n.val, by omega⟩
def rrOf (n : Fin 16) : Fin 24 := ⟨8 + n.val, by omega⟩

/-- Slots that a reply of `len` bytes occupies (R330). -/
def replySlots (len : Nat) : Nat := (len + 63) / 64

/-- R330: the ring can take a reply of `len` bytes now. -/
def replyFits (r : Ring) (len : Nat) : Bool :=
  r.state == .active && replySlots len + (r.dev - r.host).toNat ≤ ringN r

/-- The slot writes of a reply: 64 bytes to each slot, in order, wrapping. -/
def replyWrites (r : Ring) : Nat → Nat → List Byte → List (Nat × List Byte)
  | 0, _, _ => []
  | k + 1, i, l => (r.base.toNat + 4096 + (i % ringN r) * 64, padTo 64 l) :: replyWrites r k (i + 1) (l.drop 64)

/-- A reply written to reply ring `n`: its slots, then the index, then the message (R318, R330). -/
def writeReply (s : State) (p : Fin 2) (n : Fin 4) (bytes : List Byte) : State :=
  let i := rqOf n
  let r := s.ring p i
  let k := replySlots bytes.length
  let s := hostOut s p (replyWrites r k r.dev.toNat bytes ++ [(r.base.toNat, leBytes 4 (r.dev.toNat + k))])
  ringMessage (s.modRing p i fun r => { r with dev := r.dev + BitVec.ofNat 32 k }) p i

/-- A reply for ring `n` of port `p`: written at once when nothing waits before it and it fits, held otherwise (R330). -/
def putReply (s : State) (p : Fin 2) (n : Fin 4) (bytes : List Byte) : State :=
  let r := s.ring p (rqOf n)
  if r.waiting.isEmpty && replyFits r bytes.length then writeReply s p n bytes
  else s.modRing p (rqOf n) fun r => { r with waiting := r.waiting ++ [{ bytes := bytes }] }

/-! ### Replies (R343 to R348) -/

/-- Status codes (Table 13-4). -/
inductive Status where
  | done | accepted | badOpcode | stateRefused | badParam | semNotHeld | busy | retired | lifecycle | auth | check
  | timeout | aborted | noSpace | deviceFault
  deriving DecidableEq, Repr

def statusCode : Status → Nat
  | .done => 0 | .accepted => 1 | .badOpcode => 2 | .stateRefused => 3 | .badParam => 4 | .semNotHeld => 5 | .busy => 6
  | .retired => 7 | .lifecycle => 8 | .auth => 9 | .check => 10 | .timeout => 11 | .aborted => 12 | .noSpace => 13
  | .deviceFault => 14

/-- The 16-byte reply header followed by its data (Table 13-2). -/
def replyBytes (s : State) (opcode : BitVec 16) (st : Status) (tag : BitVec 32) (detail : Nat) (data : List Byte) :
    List Byte :=
  leBytes 2 opcode.toNat ++ leBytes 1 (statusCode st) ++ leBytes 1 (devCode s.dev.state) ++ leBytes 4 tag.toNat
    ++ leBytes 2 data.length ++ leBytes 2 detail ++ leBytes 4 s.dev.yard ++ data

/-- Whether a reply is written (R348): with `REPLY` 0 an ACCEPTED and a final DONE reply are not. -/
def replyWanted (reply : Bool) : Status → Bool
  | .done | .accepted => reply
  | _ => true

/-- A reply goes where its command came from: to the paired reply ring, unless the port was lost since the command began
(R337); to the mailbox window (R332); to nobody for the sideband. -/
def sendReply (s : State) (src : CmdSrc) (epoch : Nat) (reply : Bool) (opcode : BitVec 16) (tag : BitVec 32) (st : Status)
    (detail : Nat) (data : List Byte) : State :=
  let bytes := replyBytes s opcode st tag detail data
  match src with
  | .sideband => s
  | .ring p n =>
    let s := if st = .stateRefused then s.modPort p fun h => { h with cntRefused := h.cntRefused + 1 } else s
    if !replyWanted reply st then s
    else if s.hosts.port[p].epoch = epoch then putReply s p n bytes
    else hpErr s p hpRdisc
  | .mailbox p =>
    let s := if st = .stateRefused then s.modPort p fun h => { h with cntRefused := h.cntRefused + 1 } else s
    if st = .accepted then s.modPort p fun h => { h with mbxAcc := true }
    else
      raisePort (s.modPort p fun h =>
        { h with mbx := writeBytes h.mbx 0 bytes, mbxLen := bytes.length, mbxAcc := false, mbxState := 2 }) p 0

/-! ### Watermark notices (R100) -/

/-- A level with its watermarks after a change: the live bit, the sticky bits, the count and the high-water value. A
high watermark of 0 disables the notice and clears its live bit, with no crossing recorded. -/
def noticeLevel (n : Notice) (high low level : Nat) : Notice :=
  let n := { n with high := max n.high level }
  if high = 0 then { n with live := false }
  else if !n.live && decide (high ≤ level) then { n with live := true, up := true, cnt := satAdd n.cnt 1 }
  else if n.live && decide (level ≤ low) then { n with live := false, down := true, cnt := satAdd n.cnt 1 }
  else n

/-- A notice that is disabled under R101 or R191: its live bit, sticky bits and count are 0. -/
def noticeOff (n : Notice) (level : Nat) : Notice := { high := max n.high level }

/-- The notices of bins, of the pool and of the spill region at a level: one that is disabled keeps no crossing (R101, R191). -/
def noticeHere (n : Notice) (high low level : Nat) : Notice :=
  if high = 0 then noticeOff n level else noticeLevel n high low level

/-! ### Paddock errors (R46, R479, Table 18-7) -/

/-- A fault counted in `PDK_ERR.CNT`. -/
def pdkCount (s : State) (k : Fin 64) : State :=
  raiseEvent (s.modPdk k fun d => { d with err := setFld d.err 0 8 (min 255 (fld d.err 0 8 + 1)) }) 2

/-- A stall or bin fault: counted, and recorded when nothing is recorded. `kind` 1 CODE, 2 POISON; `site` and `stall` as
Table 18-7. -/
def pdkFault (s : State) (k : Fin 64) (kind site stall : Nat) : State :=
  let s := s.modPdk k fun d =>
    if d.err.getLsbD 31 then d
    else { d with err := setFld (setFld (setFld (setFld d.err 31 1 1) 29 2 kind) 26 3 site) 15 11 stall }
  pdkCount s k

end Sys2Proof.Machine
end

