-- ==== Sys2Proof/Machine/Routing.lean ====
section
/-! DEFINITION. Machine/Routing.lean: the configuration frames as the fabric reads them (R47 to R51, R60, R105) and the
lanes that they make: for a select the sources it names, for a source the selects that name it (R56 to R59, R66, R88). -/

namespace Sys2Proof.Machine

open Sys2Proof

/-! ### Frames -/

/-- Frame address of frame `idx` of paddock `k` (R371): 32 × die + local paddock is `k`, so the address is `k` and the
index side by side. -/
def frameAddr (k idx : Nat) : Nat := k * 8192 + idx

/-- The payload as stored: the payload last written with the bits that upsets have flipped (log entry 9). -/
def framePayload (s : State) (addr : Nat) : BitVec 4096 :=
  let f : Frame := tget {} s.cfg.frames addr
  (f.flips.filter (· < 4096)).foldl (fun p i => p ^^^ BitVec.twoPow 4096 i) f.good

/-- `len` bits from bit `b` of stall `n`'s configuration (R51). Every field lies in one frame. -/
def stallField (s : State) (k n b len : Nat) : Nat :=
  let j := 10240 * n + b
  fld (framePayload s (frameAddr k (j / 4096))) (j % 4096) len

/-- `len` bits from bit `b` of bin `b'`s control frame (R105). -/
def binField (s : State) (k bin b len : Nat) : Nat := fld (framePayload s (frameAddr k (5152 + bin))) b len

/-- Stalls whose macrocell fields lie in a frame that has been written: the others hold zeros. -/
def writtenStalls (s : State) (k : Nat) : List Nat :=
  s.cfg.frames.filterMap fun e =>
    let i := e.1 % 8192
    if e.1 / 8192 = k ∧ i < 5120 then
      if i % 5 = 1 then some (2 * (i / 5)) else if i % 5 = 4 then some (2 * (i / 5) + 1) else none
    else none

/-- Bins whose control frame says `USED`. -/
def usedBins (s : State) (k : Nat) : List Nat :=
  s.cfg.frames.filterMap fun e =>
    let i := e.1 % 8192
    if e.1 / 8192 = k ∧ 5152 ≤ i ∧ i < 5216 ∧ binField s k (i - 5152) 2568 1 = 1 then some (i - 5152) else none

/-- Port fields (Table 2-6). -/
def portRole (s : State) (k n p : Nat) : Nat := stallField s k n (6464 + 16 * p) 2
def portConsume (s : State) (k n p : Nat) : Nat := stallField s k n (6464 + 16 * p + 2) 2
def portCondRail (s : State) (k n p : Nat) : Nat := stallField s k n (6464 + 16 * p + 4) 2
def portCondMc (s : State) (k n p : Nat) : Nat := stallField s k n (6464 + 16 * p + 6) 3

/-- Macrocell and output fields (Table 2-5); `o` is 0 for X and 1 for Y. -/
def mcCarry (s : State) (k n m : Nat) : Bool := stallField s k n (6336 + 8 * m) 1 == 1
def mcHeld (s : State) (k n m : Nat) : Bool := stallField s k n (6336 + 8 * m + 1) 1 == 1
def mcOpbInv (s : State) (k n m : Nat) : Bool := stallField s k n (6336 + 8 * m + 2) 1 == 1
def outInit (s : State) (k n o : Nat) : Nat := stallField s k n (6400 + 16 * o) 8
def outInitValid (s : State) (k n o : Nat) : Bool := stallField s k n (6400 + 16 * o + 8) 1 == 1
def outClocked (s : State) (k n o : Nat) : Bool := stallField s k n (6400 + 16 * o + 9) 1 == 1
def outClkSel (s : State) (k n o : Nat) : Nat := stallField s k n (6400 + 16 * o + 10) 2
def outClkEdge (s : State) (k n o : Nat) : Bool := stallField s k n (6400 + 16 * o + 12) 1 == 1
def cinSel (s : State) (k n : Nat) : Nat := stallField s k n (6336 + 96) 2
def chainOut (s : State) (k n : Nat) : Bool := stallField s k n (6336 + 98) 1 == 1
def gangRole (s : State) (k n : Nat) : Nat := stallField s k n (6336 + 104) 2
def gangPos (s : State) (k n : Nat) : Nat := stallField s k n (6336 + 106) 3
def gangSize (s : State) (k n : Nat) : Nat := stallField s k n (6336 + 109) 3

/-- Routing fields (Table 3-2): the selects as 64-bit masks, the border field and the tap configuration. -/
def drvSel (s : State) (k n j : Nat) : Nat := stallField s k n (6528 + 64 * j) 64
def inSel (s : State) (k n p : Nat) : Nat := stallField s k n (6528 + 3328 + 64 * p) 64
def borderFld (s : State) (k n : Nat) : Nat := stallField s k n (6528 + 3584) 16
def tapCfg (s : State) (k row : Nat) : Nat := stallField s k (64 * row) (6528 + 3600) 16

/-- Bin fields (Table 4-9). -/
def binUsed (s : State) (k b : Nat) : Bool := binField s k b 2568 1 == 1
def binMode (s : State) (k b : Nat) : Nat := binField s k b 2560 2
def binLanes (s : State) (k b p : Nat) : Nat := 2 ^ binField s k b (2562 + 2 * p) 2
def binDir (s : State) (k b p : Nat) : Nat := binField s k b (2566 + p) 1
def binInit (s : State) (k b : Nat) : Nat := binField s k b 2576 15
def binWmHigh (s : State) (k b : Nat) : Nat := binField s k b 2592 15
def binWmLow (s : State) (k b : Nat) : Nat := binField s k b 2608 15
def binIn (s : State) (k b i : Nat) : Nat := binField s k b (128 * i) 128

/-- The inputs (10 × port + j) that a bin uses (Table 4-2). -/
def binInputs (s : State) (k b : Nat) : List Nat :=
  if !binUsed s k b then []
  else
    let data := fun p => (List.range (binLanes s k b p)).map fun i => 10 * p + 2 + i
    match binMode s k b with
    | 0 => [0, 1] ++ data 0
    | 1 => [0, 1] ++ data 0 ++ [10, 11] ++ data 1
    | 2 => data 0
    | _ => [0, 1] ++ data 0 ++ [10, 11]

/-- The number of outputs `OUT0` upward that port `p` of a bin uses (Table 4-2). -/
def binOuts (s : State) (k b p : Nat) : Nat :=
  if !binUsed s k b then 0
  else match binMode s k b, p with
    | 0, 0 => binLanes s k b 0
    | 1, p => binLanes s k b p
    | 2, 1 => binLanes s k b 1
    | 3, 0 => 1
    | 3, 1 => binLanes s k b 1
    | _, _ => 0

/-! ### Tracks -/

/-- A track end: the tile where a track arrives, its direction of travel (R54) and its class (Table 3-1). -/
structure End where
  k : Nat
  row : Nat
  col : Nat
  d : Nat
  c : Nat
  deriving DecidableEq, Repr

/-- What may present tokens on a lane. -/
inductive Src where
  | out (k n o : Nat)        -- output X (0) or Y (1) of a stall
  | bin (k b p i : Nat)      -- output `OUTi` of port `p` of a bin
  | tap (k row : Nat)        -- a row tap
  | gate (e : End)           -- the latch of the gate cell whose lane arrives at `e`
  | adapter (link lane : Nat)
  | del (port lane : Nat)    -- `DEL_DATA` of an operation port
  | pin (g : Nat)            -- the in-lane of a pin
  deriving DecidableEq, Repr

/-- What may acknowledge a token: a select that names a source. -/
inductive Leaf where
  | port (k n p : Nat)       -- input port A-D of a stall
  | bin (k b i : Nat)        -- input 10 × port + j of a bin
  | gate (e : End)           -- the input of the gate cell whose lane arrives at `e`
  | op (port lane : Nat)     -- `SUB_DATA` lane 0-7, or `SUB_CTL` (8), of an operation port
  | tick (t : Nat)
  | muster (d : Nat)
  | pin (g : Nat)            -- the out-lane of a pin
  | open_                    -- a track end that no select names: never acknowledged (R59, R88)
  deriving DecidableEq, Repr

def endKey (e : End) : Nat := (((e.k * 32 + e.row) * 64 + e.col) * 4 + e.d) * 2 + e.c

/-- The number of a source in the table of channels. -/
def srcKey : Src → Nat
  | .out k n o => 2 * (2048 * k + n) + o
  | .bin k b p i => 393216 + 16 * (64 * k + b) + 8 * p + i
  | .tap k r => 458752 + 32 * k + r
  | .adapter l j => 460800 + 4 * l + j
  | .del n j => 461312 + 8 * n + j
  | .pin g => 465408 + g
  | .gate e => 500000 + endKey e

/-- The number of a carry channel (R37), and of the second latch of a crossing lane (R75). -/
def carryKey (k n : Nat) : Nat := 262144 + 2048 * k + n
def farKey (e : End) : Nat := 1600000 + endKey e

/-- The number of a select in a channel's list of acknowledges. -/
def leafKey : Leaf → Nat
  | .port k n p => 4 * (2048 * k + n) + p
  | .bin k b i => 524288 + 20 * (64 * k + b) + i
  | .op n j => 606208 + 9 * n + j
  | .tick t => 610816 + t
  | .muster d => 610824 + d
  | .pin g => 610826 + g
  | .gate e => 700000 + endKey e
  | .open_ => 0

/-- Track length of a class (Table 3-1). -/
def trackLen (c : Nat) : Nat := if c < 8 then 1 else if c < 12 then 4 else 16

/-- Tiles of the paddock ahead of a tile in a direction (R54), and behind it. -/
def ahead (row col : Nat) : Nat → Nat
  | 0 => row | 1 => 63 - col | 2 => 31 - row | _ => col
def behind (row col : Nat) : Nat → Nat
  | 0 => 31 - row | 1 => col | 2 => row | _ => 63 - col

/-- The tile `x` steps from a tile in a direction, and back from it. -/
def stepTile (row col d x : Nat) : Nat × Nat :=
  match d with
  | 0 => (row - x, col) | 1 => (row, col + x) | 2 => (row + x, col) | _ => (row, col - x)
def backTile (row col d x : Nat) : Nat × Nat :=
  match d with
  | 0 => (row + x, col) | 1 => (row, col - x) | 2 => (row - x, col) | _ => (row, col + x)

/-- Where a border lane goes. -/
inductive Border where
  | lane (e : End)        -- to the facing edge tile of another paddock
  | outer (d col : Nat)   -- to the outer edge of die `d`, at a die column
  | none
  deriving DecidableEq, Repr

/-- The border lane that leaves an edge tile (Table 3-6). -/
def borderOut (k row col d c : Nat) : Border :=
  let q := k % 32
  match d with
  | 0 => if c = 0 then (if 4 ≤ q then .lane ⟨k - 4, 31, col, 0, 0⟩ else .outer (k / 32) (64 * (q % 4) + col)) else .none
  | 1 => if c < 2 ∧ q % 4 < 3 then .lane ⟨k + 1, row, 0, 1, c⟩ else .none
  | 2 =>
    if q < 28 then (if c = 0 then .lane ⟨k + 4, 0, col, 2, 0⟩ else .none)
    else if c < 2 then .lane ⟨if k < 32 then k + 32 else k - 32, 31, col, 0, c⟩ else .none
  | _ => if c < 2 ∧ 0 < q % 4 then .lane ⟨k - 1, row, 63, 3, c⟩ else .none

/-- The lane arriving at `e` crosses between the dies (R74). -/
def isCrossing (e : End) : Bool := 28 ≤ e.k % 32 && e.row == 31 && e.d == 0

/-- The paddock and edge tile that drive the border lane arriving at `e`, with the lane's direction there. -/
def driverOf (e : End) : Option (Nat × Nat × Nat × Nat) :=
  let q := e.k % 32
  match e.d with
  | 0 =>
    if e.row ≠ 31 then none
    else if q < 28 then (if e.c = 0 then some (e.k + 4, 0, e.col, 0) else none)
    else if e.c < 2 then some (if e.k < 32 then e.k + 32 else e.k - 32, 31, e.col, 2) else none
  | 1 => if e.col = 0 ∧ e.c < 2 ∧ 0 < q % 4 then some (e.k - 1, e.row, 63, 1) else none
  | 2 => if e.row = 0 ∧ e.c = 0 ∧ 4 ≤ q then some (e.k - 4, 31, e.col, 2) else none
  | _ => if e.col = 63 ∧ e.c < 2 ∧ q % 4 < 3 then some (e.k + 1, e.row, 0, 3) else none

/-- The pin whose port lies at a die column (Table 17-4). -/
def pinAt (d col : Nat) : Option Nat :=
  let x := col % 64
  if 16 ≤ x ∧ x < 28 then some (48 * d + 12 * (col / 64) + (x - 16)) else none

/-- The die column of a pin's port, and its paddock and column there. -/
def pinPort (g : Nat) : Nat × Nat := (32 * (g / 48) + (g % 48) / 12, 16 + (g % 48) % 12)

/-- What stands at the outer edge for an out-lane (Table 17-4). -/
def outerLeaf (d col : Nat) : Leaf :=
  if col < 4 then .tick (4 * d + col)
  else if col = 4 then .muster d
  else match pinAt d col with
    | some g => .pin g
    | none => .open_

/-- The port adapter lane arriving at an edge tile (R67), by local paddock row. -/
def adapterAt (e : End) : Option (Nat × Nat) :=
  let q := e.k % 32
  let l := 64 * (e.k / 32) + 4 * (q / 4) + e.row / 8
  if e.c < 2 ∧ e.row % 8 < 2 then
    if e.d = 1 ∧ e.col = 0 ∧ q % 4 = 0 then some (l, 2 * (e.row % 8) + e.c)
    else if e.d = 3 ∧ e.col = 63 ∧ q % 4 = 3 then some (l + 32, 2 * (e.row % 8) + e.c)
    else none
  else none

/-- The track end at which adapter lane `j` of a link arrives (R67). -/
def adapterEnd (link j : Nat) : End :=
  let l := link % 64
  if l < 32 then ⟨32 * (link / 64) + 4 * (l / 4), 8 * (l % 4) + j / 2, 0, 1, j % 2⟩
  else ⟨32 * (link / 64) + 4 * ((l - 32) / 4) + 3, 8 * (l % 4) + j / 2, 63, 3, j % 2⟩

/-! ### Claimed ends (R88, R440) -/

/-- The channels that an operation port's mode uses (Tables 7-6, 7-7): `SUB_CTL` and `SUB_DATA`, and `DEL_DATA`. -/
def modeSub (m : Nat) : Bool := m == 1 || m == 2 || m == 3
def modeDel (m : Nat) : Bool := m == 3 || m == 4

def portMode (s : State) (port : Nat) : Nat := vget 0 s.sch.graph.ports port

/-- Lane `j` of an operation port: `SUB_DATA` 0 to 7, `SUB_CTL` (8), `DEL_DATA` 9 to 16. -/
def laneKey (port j : Nat) : Nat := 17 * port + j

/-- The mode that routes a lane of an operation port: an earlier one while a handshake that began under it is in progress (R440). -/
def laneMode (s : State) (port j : Nat) : Nat :=
  match s.sch.oldRoute.find? fun e => e.1 == laneKey port j with
  | some e => e.2
  | none => portMode s port

/-- The track end of a lane of an operation port (Table 17-5). -/
def laneEnd (port j : Nat) : End :=
  let k := port / 8
  let r := 4 * (port % 8)
  if j < 8 then ⟨k, r + j / 2, 32, 1, 8 + j % 2⟩
  else if j = 8 then ⟨k, r, 32, 1, 10⟩
  else ⟨k, r + (j - 9) / 2, 32, 3, 8 + (j - 9) % 2⟩

/-- The bin output that claims an end. -/
def binClaim (s : State) (e : End) : Option Src :=
  if e.c < 8 ∧ ((e.d = 1 ∧ (e.col = 16 ∨ e.col = 48)) ∨ (e.d = 3 ∧ (e.col = 15 ∨ e.col = 47))) then
    let b := (if 32 ≤ e.col then 32 else 0) + e.row
    let dir := if e.d = 1 then 0 else 1
    if binDir s e.k b 0 = dir ∧ e.c < binOuts s e.k b 0 then some (.bin e.k b 0 e.c)
    else if binDir s e.k b 1 = dir ∧ e.c < binOuts s e.k b 1 then some (.bin e.k b 1 e.c)
    else none
  else none

/-- The operation port's delivery lane that claims an end. -/
def delClaim (s : State) (e : End) : Option Src :=
  if e.col = 32 ∧ e.d = 3 ∧ (e.c = 8 ∨ e.c = 9) ∧ modeDel (laneMode s (8 * e.k + e.row / 4) (9 + 2 * (e.row % 4) + (e.c - 8))) then
    some (.del (8 * e.k + e.row / 4) (2 * (e.row % 4) + (e.c - 8)))
  else none

def claimOf (s : State) (e : End) : Option Src := (binClaim s e).or (delClaim s e)

/-! ### From a select to its sources -/

/-- The starts of the tracks that end at `e` (R56, R57): one, or at an edge tile the several joined ones. -/
def startsOf (e : End) : List (Nat × Nat) :=
  let b := behind e.row e.col e.d
  let l := trackLen e.c
  if ahead e.row e.col e.d = 0 then (List.range (min l b)).map fun x => backTile e.row e.col e.d (x + 1)
  else if l ≤ b then [backTile e.row e.col e.d l] else []

/-- The end named by bit `i` of a select whose track ends start at bit 0 (index 13d′ + c′). -/
def endAt (k row col i : Nat) : End := ⟨k, row, col, i / 13, i % 13⟩

/-- The sources that feed a track end: a claim, a border lane, or the drivers of its tracks. -/
def endSources (s : State) : Nat → End → List Src
  | 0, _ => []
  | fuel + 1, e =>
    match claimOf s e with
    | some c => [c]
    | none =>
      if behind e.row e.col e.d = 0 then
        match driverOf e with
        | some _ => [.gate e]
        | none =>
          match adapterAt e with
          | some (l, j) => [.adapter l j]
          | none =>
            if e.d = 2 ∧ e.row = 0 ∧ e.c = 0 then
              match pinAt (e.k / 32) (64 * (e.k % 4) + e.col) with
              | some g => [.pin g]
              | none => []
            else []
      else
        (startsOf e).flatMap fun t =>
          let n := 64 * t.1 + t.2
          let sel := drvSel s e.k n (13 * e.d + e.c)
          (if sel.testBit 1 then [Src.out e.k n 0] else []) ++ (if sel.testBit 2 then [Src.out e.k n 1] else []) ++
            (bitsOf 52 (sel / 8)).flatMap fun i => endSources s fuel (endAt e.k t.1 t.2 i)

/-- The tracks of a paddock: no lane is longer. -/
def laneFuel : Nat := 2048 * 52

/-- The sources of a driver at a border tile. -/
def driverSources (s : State) (k row col j : Nat) : List Src :=
  let n := 64 * row + col
  let sel := drvSel s k n j
  (if sel.testBit 1 then [Src.out k n 0] else []) ++ (if sel.testBit 2 then [Src.out k n 1] else []) ++
    (bitsOf 52 (sel / 8)).flatMap fun i => endSources s laneFuel (endAt k row col i)

/-- The sources that a select names. -/
def leafSources (s : State) : Leaf → List Src
  | .port k n p =>
    if portRole s k n p = 0 then []
    else
      let sel := inSel s k n p
      (if sel.testBit 53 then [Src.tap k (n / 64)] else []) ++
        (bitsOf 52 (sel / 2)).flatMap fun i => endSources s laneFuel (endAt k (n / 64) (n % 64) i)
  | .bin k b i =>
    let sel := binIn s k b i
    let west := if b < 32 then 15 else 47
    (if sel.testBit 105 then [Src.tap k (b % 32)] else []) ++
      ((bitsOf 52 (sel / 2)).flatMap fun x => endSources s laneFuel (endAt k (b % 32) west x)) ++
      (bitsOf 52 (sel / 2 ^ 53)).flatMap fun x => endSources s laneFuel (endAt k (b % 32) (west + 1) x)
  | .gate e =>
    match driverOf e with
    | some (k, row, col, d) => driverSources s k row col (13 * d + e.c)
    | none => []
  | .op n j =>
    if modeSub (laneMode s n j) then endSources s laneFuel (laneEnd n j) else []
  | .tick t => driverSources s (32 * (t / 4)) 0 (t % 4) 0
  | .muster d => driverSources s (32 * d) 0 4 0
  | .pin g => driverSources s (pinPort g).1 0 (pinPort g).2 0
  | .open_ => []

/-! ### From a source to the selects that name it -/

/-- The selects at a tile and its bins that name the end `e`, the tracks driven from it left aside. -/
def leavesHere (s : State) (e : End) : List Leaf :=
  let n := 64 * e.row + e.col
  let i := 13 * e.d + e.c
  let ports := (List.range 4).filterMap fun p =>
    if portRole s e.k n p ≠ 0 ∧ (inSel s e.k n p).testBit (1 + i) then some (Leaf.port e.k n p) else none
  let bins :=
    if e.col = 15 ∨ e.col = 16 ∨ e.col = 47 ∨ e.col = 48 then
      let b := (if 32 ≤ e.col then 32 else 0) + e.row
      let at_ := if e.col = 15 ∨ e.col = 47 then 1 + i else 53 + i
      (binInputs s e.k b).filterMap fun x => if (binIn s e.k b x).testBit at_ then some (Leaf.bin e.k b x) else none
    else []
  let ops :=
    let n := 8 * e.k + e.row / 4
    let j := if e.c = 10 then 8 else 2 * (e.row % 4) + (e.c - 8)
    if e.col = 32 ∧ e.d = 1 ∧ 8 ≤ e.c ∧ e.c ≤ 10 ∧ laneEnd n j = e ∧ modeSub (laneMode s n j) then [Leaf.op n j] else []
  ports ++ bins ++ ops

/-- The drivers of a tile that take bit `b` of their select. -/
def driversNaming (s : State) (k n b : Nat) : List Nat :=
  (List.range 52).filter fun j => (drvSel s k n j).testBit b

/-- The selects that name the track end `e`, over the tracks driven on from it; `open_` when none does. -/
def endLeaves (s : State) : Nat → End → List Leaf
  | 0, _ => [.open_]
  | fuel + 1, e =>
    let n := 64 * e.row + e.col
    let on := (driversNaming s e.k n (3 + (13 * e.d + e.c))).flatMap fun j =>
      let d := j / 13
      let c := j % 13
      let a := ahead e.row e.col d
      if a = 0 then
        if c < 8 then
          match borderOut e.k e.row e.col d c with
          | .lane f => [Leaf.gate f]
          | .outer die col => [outerLeaf die col]
          | .none => [Leaf.open_]
        else [Leaf.open_]
      else
        let t := stepTile e.row e.col d (min (trackLen c) a)
        let f : End := ⟨e.k, t.1, t.2, d, c⟩
        if (claimOf s f).isSome then [Leaf.open_] else endLeaves s fuel f
    let all := leavesHere s e ++ on
    if all.isEmpty then [.open_] else all

/-- The selects that one track driver of a tile reaches. -/
def driverLeaves (s : State) (k n j : Nat) : List Leaf :=
  let d := j / 13
  let c := j % 13
  let a := ahead (n / 64) (n % 64) d
  if a = 0 then
    if c < 8 then
      match borderOut k (n / 64) (n % 64) d c with
      | .lane f => [.gate f]
      | .outer die col => [outerLeaf die col]
      | .none => [.open_]
    else [.open_]
  else
    let t := stepTile (n / 64) (n % 64) d (min (trackLen c) a)
    let f : End := ⟨k, t.1, t.2, d, c⟩
    if (claimOf s f).isSome then [.open_] else endLeaves s laneFuel f

/-- The drivers that name a stall output: its fork lanes (R58). -/
def forks (s : State) (k n o : Nat) : List Nat := driversNaming s k n (1 + o)

/-- The claimed end of a bin output (R88), and of a delivery lane (Table 17-5). -/
def binOutEnd (s : State) (k b p i : Nat) : End :=
  let west := if b < 32 then 15 else 47
  if binDir s k b p = 0 then ⟨k, b % 32, west + 1, 1, i⟩ else ⟨k, b % 32, west, 3, i⟩
def delEnd (n j : Nat) : End := laneEnd n (9 + j)

/-- The selects that name a source (R59). -/
def srcLeaves (s : State) : Src → List Leaf
  | .out k n o => (forks s k n o).flatMap (driverLeaves s k n)
  | .bin k b p i => endLeaves s laneFuel (binOutEnd s k b p i)
  | .tap k row =>
    let ports := (List.range 256).filterMap fun x =>
      let n := 64 * row + x / 4
      if portRole s k n (x % 4) ≠ 0 ∧ (inSel s k n (x % 4)).testBit 53 then some (Leaf.port k n (x % 4)) else none
    let bins := [row, 32 + row].flatMap fun b =>
      (binInputs s k b).filterMap fun i => if (binIn s k b i).testBit 105 then some (Leaf.bin k b i) else none
    let all := ports ++ bins
    if all.isEmpty then [.open_] else all
  | .gate e => endLeaves s laneFuel e
  | .adapter l j => endLeaves s laneFuel (adapterEnd l j)
  | .del n j => endLeaves s laneFuel (delEnd n j)
  | .pin g => endLeaves s laneFuel ⟨(pinPort g).1, 0, (pinPort g).2, 2, 0⟩

end Sys2Proof.Machine
end

