-- ==== Sys2Proof/Machine/Tokens.lean ====
section
/-! DEFINITION. Machine/Tokens.lean: the 1-of-4 code of a token (R19, R21), what a select sees (R57, R69, R438) and how
an acknowledge is joined and falls (R20, R29, R30, R59). -/

namespace Sys2Proof.Machine

open Sys2Proof

/-- The four rails of digit `d`. -/
def digitRails (r : BitVec 16) (d : Nat) : Nat := fld r (4 * d) 4

/-- The value of a digit whose rails are one-hot. -/
def digitVal : Nat → Option Nat
  | 1 => some 0 | 2 => some 1 | 4 => some 2 | 8 => some 3 | _ => none

/-- Every digit has exactly one rail high (R19). -/
def complete (r : BitVec 16) : Bool := (List.range 4).all fun d => (digitVal (digitRails r d)).isSome

/-- Every digit has a rail high: a token, a poisoned token, or a token with a code violation. -/
def arrived (r : BitVec 16) : Bool := (List.range 4).all fun d => digitRails r d != 0

/-- Some digit has two or more rails high (R20). -/
def violates (r : BitVec 16) : Bool :=
  (List.range 4).any fun d => digitRails r d != 0 && (digitVal (digitRails r d)).isNone

/-- The poisoned token: all sixteen rails high. -/
def poison : BitVec 16 := 0xFFFF

/-- The rails of a token (R19). -/
def railsOf (v : Nat) : BitVec 16 :=
  BitVec.ofNat 16 ((List.range 4).foldl (fun a d => a + 2 ^ (4 * d + v / 4 ^ d % 4)) 0)

/-- The value of a complete token. -/
def tokenOf (r : BitVec 16) : Nat :=
  (List.range 4).foldl (fun a d => a + (digitVal (digitRails r d)).getD 0 * 4 ^ d) 0

/-! ### What stands on a channel -/

/-- The held value of an output as a token's value. -/
def heldVal (s : State) (k n o : Nat) : Nat := fld (tget ({} : StallSt) s.fab.stalls (2048 * k + n)).held (8 * o) 8

def pdkAt (s : State) (k : Nat) : Paddock := vget {} s.pdk k

/-- The paddock's release stages RESET and WRITE are released and no user global reset is asserted (R31, R79). -/
def released (s : State) (k : Nat) : Bool := (pdkAt s k).relReset && (pdkAt s k).relWrite && !(pdkAt s k).urst

/-- The paddock is held by the fabric cut of a muster (R416). -/
def cutHeld (s : State) (k : Nat) : Bool := s.mus.hold && s.mus.part.getLsbD k

/-- The fabric of the paddock may act: Table 15-5 holds it in SHUTTING_DOWN. -/
def running (s : State) (k : Nat) : Bool := released s k && !cutHeld s k && powered s

/-- The gate cell of the lane arriving at `e` passes (R69, R71). -/
def gatePasses (s : State) (e : End) : Bool :=
  match driverOf e with
  | some (k, _) => !(pdkAt s k).outIso && !(pdkAt s e.k).inIso
  | none => false

/-- The incoming slot of a border position (R68): positions on the up or down edge come first. -/
def inSlot (e : End) : Nat :=
  if e.d = 0 ∨ e.d = 2 then e.c
  else (if e.row = 0 then 1 else if e.row = 31 then (if 28 ≤ e.k % 32 then 2 else 1) else 0) + e.c

/-- The outgoing slot of the lane that leaves a tile in direction `d`. -/
def outSlot (k row d c : Nat) : Nat :=
  if d = 0 ∨ d = 2 then c
  else (if row = 0 then 1 else if row = 31 then (if 28 ≤ k % 32 then 2 else 1) else 0) + c

/-- `IN_PARK` of the lane arriving at `e`, and `OUT_ACT` of the side that drives it (Table 3-7). -/
def inPark (s : State) (e : End) : Nat := borderFld s e.k (64 * e.row + e.col) / 2 ^ (4 + 2 * inSlot e) % 4
def outDrain (s : State) (e : End) : Bool :=
  match driverOf e with
  | some (k, row, col, d) => (borderFld s k (64 * row + col)).testBit (outSlot k row d e.c)
  | none => false

/-- The function that has a pin's pad is fabric user I/O, and no switch interval runs (R435). -/
def pinIsUser (s : State) (g : Nat) : Bool :=
  let p := vget ({} : Gpio) s.pins.gpio g
  p.actFunc == 1 && !p.switching

/-- The rails that a clocked output shows (R33). -/
def outLevel (s : State) (k n o : Nat) : Option (BitVec 16) :=
  if outClocked s k n o then some (if (pdkAt s k).relReset && !(pdkAt s k).urst then railsOf (heldVal s k n o) else 0) else none

/-- The fabric user I/O pins of a paddock are driven: its OUTPUT stage is released, and no fault has taken them (R385,
R436). -/
def pinsDriven (s : State) (k : Nat) : Bool := (pdkAt s k).relOutput && !(pdkAt s k).hiz

/-- The level that a fabric user I/O pin drives at its pad, with the rails `lane` on its out-lane; none while it is
high-impedance (R436, R438). -/
def driveWith (s : State) (g : Nat) (lane : BitVec 16) : Option Bool :=
  let p := vget ({} : Gpio) s.pins.gpio g
  if !pinsDriven s (pinPort g).1 then none
  else if p.fout then
    let d := digitRails lane 0
    if d.testBit 2 || d.testBit 3 then some (d.testBit 1 || d.testBit 3) else none
  else if p.drv then some p.lvl else none

/-- The park value of an isolating gate cell as levels; none on a token lane (Table 3-7). Where no level has ever passed the
lane, the last value present is spacer: the model's choice (log entry 108). -/
def parkLevel (s : State) (e : End) : Option (BitVec 16) :=
  match inPark s e with
  | 0 => none
  | 1 => some (railsOf 0x00)
  | 2 => some (railsOf 0xFF)
  | _ => some (tget 0 s.fab.park (srcKey (.gate e)))

/-- The rails that several sources put on one lane (R57). -/
def joinRails (l : List (BitVec 16)) : BitVec 16 := l.foldl (· ||| ·) 0

/-- The rails of a source that carries a level: a clocked output (R33); a pin in level form, at its pad's level (R438); or a
gate cell with no token in its latch that passes such a lane or shows a park value as one (R69). `fuel` bounds the gate cells
and pins on the way. -/
def levelVia (s : State) : Nat → Src → Option (BitVec 16)
  | _, .out k n o => outLevel s k n o
  | fuel + 1, .gate e =>
    if (s.chan (srcKey (.gate e))).rails ≠ 0 then none
    else if gatePasses s e then
      match (leafSources s (.gate e)).filterMap (levelVia s fuel) with
      | [] => none
      | l => some (joinRails l)
    else parkLevel s e
  | fuel + 1, .pin g =>
    let p := vget ({} : Gpio) s.pins.gpio g
    if pinIsUser s g && !p.fin then
      some (railsOf (b2n ((driveWith s g (joinRails ((leafSources s (.pin g)).filterMap (levelVia s fuel)))).getD p.pad)))
    else none
  | _, _ => none

/-- More gate cells than a lane can pass. -/
def levelFuel : Nat := 64 * 320

/-- The rails of a source that carries a level. -/
def levelRails (s : State) (x : Src) : Option (BitVec 16) := levelVia s levelFuel x

/-- The levels on a pin's out-lane, directly or through gate cells (R69, R438). -/
def outLaneLevel (s : State) (g : Nat) : BitVec 16 := joinRails ((leafSources s (.pin g)).filterMap (levelRails s))

/-- The level that a fabric user I/O pin drives at its pad. -/
def userDrive (s : State) (g : Nat) : Option Bool := driveWith s g (outLaneLevel s g)

/-- The level at the pad of a fabric user I/O pin: its own, else the one from outside. -/
def padLevel (s : State) (g : Nat) : Bool := (userDrive s g).getD (vget ({} : Gpio) s.pins.gpio g).pad

/-- The rails that a source presents: its level, or the token on its channel. -/
def srcRails (s : State) (x : Src) : BitVec 16 := (levelRails s x).getD (s.chan (srcKey x)).rails

/-- What one select sees of a source: nothing once it has acknowledged the token there. -/
def srcSeen (s : State) (l : Leaf) (x : Src) : BitVec 16 :=
  if (s.chan (srcKey x)).acked.contains (leafKey l) then 0 else srcRails s x

/-- The rails at a select: the OR of the sources it names (R57). -/
def seen (s : State) (l : Leaf) : BitVec 16 := joinRails ((leafSources s l).map (srcSeen s l))

/-- The levels at a select: the OR of the rails of the sources it names, whatever it has acknowledged (R33). -/
def levelAt (s : State) (l : Leaf) : BitVec 16 := joinRails ((leafSources s l).map (srcRails s))

/-! ### Stalls as half buffers (R29, R30) -/

/-- A port belongs to a gang (R40): A and B of every stall of one, and D of its head. -/
def gangPort (s : State) (k n p : Nat) : Bool :=
  gangRole s k n != 0 && (decide (p < 2) || (p == 3 && gangRole s k n == 1))

/-- An output that the stall's own firing presents: in handshake mode, with a fork lane, and not a gang head's X (R25,
R40). R25 speaks of outputs in handshake mode: that a stall with a clocked output fires for the other, with the clocked one
left out and the ports acknowledged by their consume controls, is this model's choice (log entry 100). -/
def usedOut (s : State) (k n o : Nat) : Bool :=
  !outClocked s k n o && !(forks s k n o).isEmpty && !(o == 0 && gangRole s k n == 1)

/-- The outputs that a firing on a port of a stall fills: its own used ones, or its gang's. -/
def portOuts (s : State) : Leaf → List Src
  | .port k n p =>
    if gangPort s k n p then [.out k (n - 64 * gangPos s k n) 0]
    else ((List.range 2).filter (usedOut s k n)).map fun o => .out k n o
  | _ => []

/-- A select's acknowledge stays high after the channel has returned to spacer: the stall's half buffer still holds the token
of the firing that took the port's. -/
def ackHigh (s : State) (l : Leaf) : Bool := (portOuts s l).any fun x => (s.chan (srcKey x)).rails != 0

/-- The ports whose firings fill an output. -/
def outPorts (s : State) : Src → List Leaf
  | .out k n o =>
    let rows := if o = 0 ∧ gangRole s k n = 1 then gangSize s k n + 1 else 1
    ((List.range rows).flatMap fun i => (List.range 4).map fun p => Leaf.port k (n + 64 * i) p).filter fun l =>
      (portOuts s l).contains (.out k n o)
  | _ => []

/-! ### Acknowledging -/

/-- A select lowers its acknowledge of a source whose rails are low, which those of a level that stands never are (R34);
whether the channel is then free. -/
def lowerAck (s : State) (l : Leaf) (x : Src) : State × Bool :=
  let c := s.chan (srcKey x)
  if srcRails s x = 0 ∧ c.acked.contains (leafKey l) then
    let left := c.acked.filter (· != leafKey l)
    (s.setChan (srcKey x) { c with acked := left }, left.isEmpty)
  else (s, false)

/-- An output's rails have fallen: the ports that filled it lower their acknowledges (R20); the sources that are free then. -/
def lowerAcks (s : State) (x : Src) : State × List Src :=
  ((outPorts s x).filter fun l => !ackHigh s l).foldl (fun a l =>
    (leafSources a.1 l).foldl (fun (a : State × List Src) y =>
      let r := lowerAck a.1 l y
      (r.1, if r.2 then a.2 ++ [y] else a.2)) a) (s, [])

/-- A source's level has fallen: every select that no full state element holds lowers its acknowledge (R20). -/
def fallLevel (s : State) (x : Src) : State :=
  if (s.chan (srcKey x)).acked.isEmpty then s
  else ((srcLeaves s x).filter fun l => !ackHigh s l).foldl (fun s l => (lowerAck s l x).1) s

/-- Every select that names the source has acknowledged (R59): an open end never does. -/
def allAcked (s : State) (x : Src) : Bool :=
  (srcLeaves s x).all fun l => l != .open_ && (s.chan (srcKey x)).acked.contains (leafKey l)

/-- A select acknowledges a source's token; once all have, the channel returns to spacer, and it is free when every
acknowledge is low again (R20, R29). The sources that have become free. -/
def ackOne (s : State) (l : Leaf) (x : Src) : State × List Src :=
  if srcRails s x = 0 then (s, [])
  else
    let c := s.chan (srcKey x)
    let s := s.setChan (srcKey x) { c with acked := if c.acked.contains (leafKey l) then c.acked else leafKey l :: c.acked }
    if c.rails != 0 && allAcked s x then
      let s := s.setChan (srcKey x) { rails := 0, acked := (s.chan (srcKey x)).acked }
      let low := (srcLeaves s x).filter fun l => !ackHigh s l
      let r := low.foldl (fun (a : State × Bool) l => let b := lowerAck a.1 l x; (b.1, a.2 || b.2)) (s, false)
      let d := lowerAcks r.1 x
      (d.1, (if r.2 then [x] else []) ++ d.2)
    else (s, [])

/-- A select acknowledges what it sees, on every source it names; the sources whose channel became free. -/
def ackLeaf (s : State) (l : Leaf) : State × List Src :=
  (leafSources s l).foldl (fun (a : State × List Src) x =>
    let r := ackOne a.1 l x
    (r.1, a.2 ++ r.2)) (s, [])

/-- A token put on a source's channel. -/
def present (s : State) (x : Src) (r : BitVec 16) : State := s.setChan (srcKey x) { rails := r, acked := [] }

/-- A lane of an operation port has no handshake in progress on its track end. -/
def laneQuiet (s : State) (port j : Nat) : Bool :=
  (endSources s laneFuel (laneEnd port j)).all fun x => (s.chan (srcKey x)).rails == 0 && (s.chan (srcKey x)).acked.isEmpty

/-- Lanes whose handshake under an earlier routing has completed take the routing in force (R440). -/
def newRoutes (s : State) : State :=
  if s.sch.oldRoute.isEmpty then s
  else { s with sch.oldRoute := s.sch.oldRoute.filter fun e => !laneQuiet s (e.1 / 17) (e.1 % 17) }

/-- The source's channel is free: at spacer, with every acknowledge low (R29). -/
def idleSrc (s : State) (x : Src) : Bool := (s.chan (srcKey x)).rails == 0 && (s.chan (srcKey x)).acked.isEmpty

end Sys2Proof.Machine
end

