-- ==== Sys2Proof/Machine/BinOps.lean ====
section
/-! DEFINITION. Machine/BinOps.lean: the array of a bin with its error code (R103), its level (R101), and what FIFO and
priority FIFO bins present (R92, R94, R95). -/

namespace Sys2Proof.Machine

open Sys2Proof

/-- The number of a bin across the device, and the byte and array word numbers of its array. -/
def binNo (k b : Nat) : Nat := 64 * k + b
def binByte (k b a : Nat) : Nat := 16384 * binNo k b + a
def binWord (k b w : Nat) : Nat := 2048 * binNo k b + w

def pdkFin (k : Nat) : Fin 64 := ⟨k % 64, Nat.mod_lt _ (by decide)⟩

/-- A bin's level counts in bytes (R101). -/
def binLevel (s : State) (k b : Nat) : Nat :=
  let x := s.bin (binNo k b)
  match binMode s k b with
  | 2 => x.count * binLanes s k b 1
  | 3 => x.items.foldl (fun a i => a + i.len * binLanes s k b 0) 0
  | _ => 0

/-- The bin's notice after a change of its level or watermarks (R100, R101). In a RAM mode, in an unused bin and with a
high watermark of 0 it is disabled: its live bit, sticky bits and count are 0. -/
def binNotice (s : State) (k b : Nat) : State :=
  let lv := binLevel s k b
  let off := !binUsed s k b || decide (binMode s k b < 2)
  s.modBin (binNo k b) fun x => { x with
    notice := if off then noticeOff x.notice lv else noticeHere x.notice (binWmHigh s k b) (binWmLow s k b) lv }

/-- What a reader finds at array word `w` (R103): a single-bit error is corrected in place and counted; an uncorrectable
word is counted. Answers whether the word can be read. -/
def arrayRead (s : State) (k b w : Nat) : State × Bool :=
  let key := binWord k b w
  match tget ([] : List Nat) s.fab.binBad key with
  | [] => (s, true)
  | [_] =>
    (({ s with fab.binBad := tput [] s.fab.binBad key [] } : State).modBin (binNo k b)
      fun x => { x with corr := satAdd x.corr 1 }, true)
  | _ => (pdkCount (s.modBin (binNo k b) fun x => { x with uncorr := satAdd x.uncorr 1 }) (pdkFin k), false)

/-- `len` bytes from byte `a`, which lie in one array word; none when the word is uncorrectable. -/
def binRead (s : State) (k b a len : Nat) : State × Option (List Byte) :=
  let r := arrayRead s k b (a / 8)
  (r.1, if r.2 then some (readBytes r.1.fab.binMem (binByte k b a) len) else none)

/-- Bytes written from byte `a`, within one array word (R103): a single-bit error is corrected and counted, and a write
of the whole word removes its error. A narrower write into a word with an uncorrectable error stores its bytes, keeps the error
and counts nothing: the model's choice (log entry 100). -/
def binWrite (s : State) (k b a : Nat) (l : List Byte) : State :=
  let key := binWord k b (a / 8)
  let s := match tget ([] : List Nat) s.fab.binBad key with
    | [] => s
    | [_] => (arrayRead s k b (a / 8)).1
    | _ => if l.length = 8 then { s with fab.binBad := tput [] s.fab.binBad key [] } else s
  { s with fab.binMem := writeBytes s.fab.binMem (binByte k b a) l }

/-- The index of a priority FIFO is read (R103): single-bit errors are corrected; an uncorrectable word is counted and
remembered until the paddock is reset or poured. -/
def indexRead (s : State) (k b : Nat) : State :=
  let bad := s.fab.binBad.filterMap fun e =>
    if binWord k b 0 ≤ e.1 ∧ e.1 < binWord k b 256 then some (e.1 % 2048) else none
  bad.foldl (fun s w =>
    let r := arrayRead s k b w
    if r.2 then r.1 else r.1.modBin (binNo k b) fun x => { x with idxErr := true }) s

/-- Every used output of a port is at spacer. -/
def outsIdle (s : State) (k b p : Nat) : Bool :=
  (List.range (binOuts s k b p)).all fun i => idleSrc s (.bin k b p i)

/-- A word put on a port's output lanes, byte by byte; poisoned on every lane when it cannot be read (R103). -/
def presentWord (s : State) (k b p : Nat) (w : Option (List Byte)) : State × List Src :=
  let lanes := List.range (binOuts s k b p)
  (lanes.foldl (fun s i => present s (.bin k b p i)
    (match w with
     | some l => railsOf (byteAt l i).toNat
     | none => poison)) s, lanes.map fun i => Src.bin k b p i)

/-- A bin that may act: its paddock runs, and it holds no fault (R109, R479). -/
def binRuns (s : State) (k b : Nat) : Bool := running s k && binUsed s k b && !(s.bin (binNo k b)).fault

/-- FIFO words that fit. -/
def fifoCap (s : State) (k b : Nat) : Nat := 16384 / binLanes s k b 0

/-- The FIFO presents its oldest word on port 1 when nothing is presented (R92). -/
def fifoPresent (s : State) (k b : Nat) : State × List Src :=
  let x := s.bin (binNo k b)
  if binRuns s k b ∧ binMode s k b = 2 ∧ 0 < x.count ∧ x.shown = false ∧ outsIdle s k b 1 then
    let w := binLanes s k b 1
    let r := binRead s k b (x.rd * w) w
    presentWord (r.1.modBin (binNo k b) fun x => { x with shown := true }) k b 1 r.2
  else (s, [])

/-- A command token pair stands complete on port 1 of a priority FIFO (R96). -/
def cmdComplete (s : State) (k b : Nat) : Bool := complete (seen s (.bin k b 10)) && complete (seen s (.bin k b 11))

/-- The item of a handle. -/
def itemOfHandle (x : BinSt) (h : Nat) : Option PItem := x.items.find? fun i => i.handle == h

/-- Header token `n` of an item (R95). -/
def headerToken (i : PItem) : Nat → Nat
  | 0 => i.handle % 256
  | 1 => 16 * i.prio.toNat + i.handle / 256
  | _ => i.len - 1

/-- The next header token of the item in progress, when port 0's output is free. -/
def headerPresent (s : State) (k b : Nat) : State × List Src :=
  let x := s.bin (binNo k b)
  match x.cur with
  | none => (s, [])
  | some c =>
    match itemOfHandle x c.handle with
    | none => (s, [])
    | some i =>
      if binRuns s k b ∧ c.hdr < 3 ∧ idleSrc s (.bin k b 0 0) then
        (present (s.modBin (binNo k b) fun x => { x with cur := some { c with hdr := c.hdr + 1 } }) (.bin k b 0 0)
          (railsOf (headerToken i c.hdr)), [.bin k b 0 0])
      else (s, [])

/-- The next word of the item in progress, when every output lane of port 1 is free. -/
def wordPresent (s : State) (k b : Nat) : State × List Src :=
  let x := s.bin (binNo k b)
  match x.cur with
  | none => (s, [])
  | some c =>
    match itemOfHandle x c.handle with
    | none => (s, [])
    | some i =>
      if binRuns s k b ∧ c.words < i.len ∧ outsIdle s k b 1 then
        let w := binLanes s k b 1
        let r := binRead s k b (2048 + w * i.cells.getD c.words 0) w
        presentWord (r.1.modBin (binNo k b) fun x => { x with cur := some { c with words := c.words + 1 } }) k b 1 r.2
      else (s, [])

/-- The item in progress ends when its header and words have all been acknowledged (R94); a command complete at that
moment is applied before the next selection (R98). -/
def itemFinish (s : State) (k b : Nat) : State :=
  let x := s.bin (binNo k b)
  match x.cur with
  | none => s
  | some c =>
    match itemOfHandle x c.handle with
    | none => s
    | some i =>
      if c.hdr = 3 ∧ c.words = i.len ∧ idleSrc s (.bin k b 0 0) ∧ outsIdle s k b 1 then
        s.modBin (binNo k b) fun x => { x with cur := none, cmdFirst := cmdComplete s k b }
      else s

/-- What a bin presents once a token of its output `p` has been taken. -/
def binRefill (s : State) (k b p : Nat) : State × List Src :=
  if binMode s k b = 3 then
    let r := if p = 0 then headerPresent s k b else wordPresent s k b
    (itemFinish r.1 k b, r.2)
  else (s, [])

end Sys2Proof.Machine
end

