-- ==== Sys2Proof/Machine/Channels.lean ====
section
/-! DEFINITION. Machine/Channels.lean: what moves by itself once a token is presented or taken: gate cells and crossing
lanes (R69, R70, R75), bulk crossings of operation ports and adapters (R445), row taps (R81), pin ports (R438, R447). -/

namespace Sys2Proof.Machine

open Sys2Proof

/-! ### Row taps -/

/-- The tokens of an event of a row tap (R81, Table 3-5). -/
def tapTokens (s : State) (k row : Nat) (e : TapEv) : List Nat :=
  let cfg := tapCfg s k row
  let seqBytes := (leBytes 4 e.seq.toNat).map BitVec.toNat
  if cfg % 8 = 1 then
    match cfg / 8 % 4 with
    | 0 => [e.seq.toNat % 256]
    | 1 => seqBytes
    | _ => e.gen.toNat :: seqBytes
  else [0]

def tapNo (k row : Nat) : Nat := 32 * k + row

/-- The tap's pending events: one whose last token the consumers have acknowledged is none any more (R82). -/
def tapPending (s : State) (k row : Nat) : Nat :=
  let t := tget ({} : TapSt) s.fab.taps (tapNo k row)
  match t.q with
  | [] => 0
  | e :: rest => if (tapTokens s k row e).length ≤ t.sent ∧ (s.chan (srcKey (.tap k row))).rails = 0 then rest.length else rest.length + 1

/-- The tap's next token, when its channel is free: the next of the event in progress, or the first of the next event
once the last token of the one before has been acknowledged (R82). -/
def tapPresent (s : State) (k row : Nat) : State × List Src :=
  if !idleSrc s (.tap k row) || cutHeld s k then (s, [])
  else
    let t := tget ({} : TapSt) s.fab.taps (tapNo k row)
    match t.q with
    | [] => (s, [])
    | e :: rest =>
      let l := tapTokens s k row e
      let (q, sent) := if t.sent < l.length then (t.q, t.sent) else (rest, 0)
      match q with
      | [] => ({ s with fab.taps := tput {} s.fab.taps (tapNo k row) { q := [], sent := 0 } }, [])
      | e :: _ =>
        let s := { s with fab.taps := tput {} s.fab.taps (tapNo k row) { q := q, sent := sent + 1 } }
        (present s (.tap k row) (railsOf ((tapTokens s k row e).getD sent 0)), [.tap k row])

/-! ### Adapters, delivery lanes, pins -/

/-- The adapter's next token on a lane (R247). -/
def adapterPresent (s : State) (l j : Nat) : State × List Src :=
  if h : l < 128 ∧ j < 4 then
    let n : Fin 128 := ⟨l, h.1⟩
    let i : Fin 4 := ⟨j, h.2⟩
    match s.cxp.links[n].lanes[i] with
    | [] => (s, [])
    | b :: r =>
      if idleSrc s (.adapter l j) && !cutHeld s (adapterEnd l j).k then
        (present (s.modLink n fun x => { x with lanes := vset x.lanes i r }) (.adapter l j) (railsOf b.toNat), [.adapter l j])
      else (s, [])
  else (s, [])

/-- The next token of a record on a lane of `DEL_DATA` (R184). -/
def delPresent (s : State) (n j : Nat) : State × List Src :=
  if h : n < 512 ∧ j < 8 then
    let p : Fin 512 := ⟨n, h.1⟩
    let i : Fin 8 := ⟨j, h.2⟩
    match s.sch.ports[p].del[i] with
    | [] => (s, [])
    | b :: r =>
      if idleSrc s (.del n j) && !cutHeld s (n / 8) then
        (present (s.modOpPort p fun x => { x with del := vset x.del i r }) (.del n j) (railsOf b.toNat), [.del n j])
      else (s, [])
  else (s, [])

/-- The next token on a pin's in-lane: a pending edge, then the resynchronising token that is owed (R447), then a byte of a
serial cell (R434). What an old function passed into the crossing is still delivered (R435). -/
def pinPresent (s : State) (g : Nat) : State × List Src :=
  if h : g < 96 then
    let n : Fin 96 := ⟨g, h⟩
    let p := s.pins.gpio[n]
    if !idleSrc s (.pin g) || cutHeld s (pinPort g).1 then (s, [])
    else match p.pend, p.buf with
    | b :: r, _ => (present (s.modGpio n fun x => { x with pend := r }) (.pin g) (railsOf b.toNat), [.pin g])
    | [], l =>
      if p.resync then
        (present (s.modGpio n fun x => { x with resync := false }) (.pin g) (railsOf (128 + b2n (padLevel s g))), [.pin g])
      else match l with
      | b :: r => (present (s.modGpio n fun x => { x with buf := r }) (.pin g) (railsOf b.toNat), [.pin g])
      | [] => (s, [])
  else (s, [])

/-- The pin takes its role of its serial cell: no lower-numbered pin claims it (R434). -/
def ownsRole (s : State) (g : Fin 96) : Bool :=
  let p := s.pins.gpio[g]
  !(s.pins.gpio.toList.take g.val).any fun q =>
    q.actFunc == p.actFunc && q.actRole == p.actRole && q.inst == p.inst

/-- An edge of a pin in edge form enters its crossing or the pending counter; the sixteenth pending event overruns (R447). -/
def pendEdge (s : State) (g : Fin 96) (level : Bool) : State :=
  s.modGpio g fun x =>
    if x.pend.length < 15 then { x with pend := x.pend ++ [BitVec.ofNat 8 (b2n level)] } else { x with ovr := true, resync := true }

/-- A pin in edge form, whose edges its paddock accepts (R436). -/
def edgeForm (s : State) (g : Nat) : Bool :=
  pinIsUser s g && (vget ({} : Gpio) s.pins.gpio g).fin && (pdkAt s (pinPort g).1).relWrite

/-- A pin's pad takes a token of its out-lane by itself: fabric user I/O in token form (R438), which in edge form sees its own
change of level, or an SPI chip select (R434). Answers whether it does. -/
def pinTakes (s : State) (g : Nat) (r : BitVec 16) : State × Bool :=
  if h : g < 96 then
    let n : Fin 96 := ⟨g, h⟩
    let p := s.pins.gpio[n]
    if !complete r || p.switching then (s, false)
    else if p.actFunc = 1 ∧ p.fout = false then
      let old := padLevel s g
      let s := s.modGpio n fun x => { x with lvl := (tokenOf r).testBit 0, drv := (tokenOf r).testBit 1 }
      let s := if (tokenOf r).testBit 1 ∧ pinsDriven s (pinPort g).1 then s.emitPad (.pin g ((tokenOf r).testBit 0)) else s
      (if edgeForm s g ∧ padLevel s g ≠ old then pendEdge s n (padLevel s g) else s, true)
    else if p.actFunc = 6 ∧ p.actRole = 3 ∧ ownsRole s n then
      ((s.modGpio n fun x => { x with lvl := (tokenOf r).testBit 0 }).emitPad (.pin g ((tokenOf r).testBit 0)), true)
    else (s, false)
  else (s, false)

/-! ### Operation ports -/

/-- The scheduler serves a port: it has a mode and its paddock is LIVE (R186). -/
def portServed (s : State) (n : Nat) : Bool := portMode s n != 0 && (pdkAt s (n / 8)).state == .live

/-- A token enters the bulk crossing of an operation port's lane, of 16 entries (R445). One whose handshake completes under the
routing of an earlier mode while the port is no longer served is acknowledged and discarded (R440, log entry 106). -/
def opTakes (s : State) (n j : Nat) (r : BitVec 16) : State × Bool :=
  if h : n < 512 ∧ j < 9 then
    let p : Fin 512 := ⟨n, h.1⟩
    let x := s.sch.ports[p]
    if !arrived r then (s, false)
    else if !portServed s n then (s, s.sch.oldRoute.any fun e => e.1 == laneKey n j)
    else if j = 8 then
      if x.ctl.length < 16 then (s.modOpPort p fun x => { x with ctl := x.ctl ++ [r] }, true) else (s, false)
    else if (vget [] x.data j).length < 16 then
      (s.modOpPort p fun x => { x with data := vmodN x.data j fun l => l ++ [r] }, true)
    else (s, false)
  else (s, false)

/-! ### Pace counters (R118) -/

/-- A handshake completed on a source's lane is counted by every pace entry whose track driver carries it, while the
entry's paddock is LIVE. -/
def paceCount (s : State) (x : Src) : State :=
  if s.gov.pace.isEmpty then s
  else
    { s with gov.pace := s.gov.pace.map fun e =>
        if (pdkAt s e.pdk).state == .live && (driverSources s e.pdk (e.stall / 64) (e.stall % 64) e.drv).contains x then
          { e with count := e.count + 1 }
        else e }

/-! ### The moves -/

/-- What has just happened on a channel. -/
inductive Move where
  | shown (x : Src)
  | freed (x : Src)
  deriving DecidableEq, Repr

/-- The gate cell of the lane arriving at `e` takes a token offered to it: into the latch on the receiving side, or on a
crossing lane into the latch at the driving die's end first. Within a cut it presents nothing to a held paddock (R416). -/
def gateTake (s : State) (e : End) : State × List Move :=
  let near := if isCrossing e then farKey e else srcKey (.gate e)
  let free := (s.chan near).rails == 0 && (s.chan near).acked.isEmpty
  let r := seen s (.gate e)
  let level := (leafSources s (.gate e)).any fun x => (levelRails s x).isSome
  if gatePasses s e && !level && arrived r && free && (isCrossing e || !cutHeld s e.k) then
    let a := ackLeaf (s.setChan near { rails := r }) (.gate e)
    (a.1, a.2.map Move.freed ++ if isCrossing e then [] else [Move.shown (.gate e)])
  else (s, [])

/-- On a crossing lane the token moves on to the latch at the receiving die's end. -/
def crossTake (s : State) (e : End) : State × List Move :=
  let c := s.chan (farKey e)
  if isCrossing e && c.rails != 0 && idleSrc s (.gate e) && !cutHeld s e.k then
    (present (s.setChan (farKey e) {}) (.gate e) c.rails, [.shown (.gate e)])
  else (s, [])

/-- A tick input's token enters its event crossing (R447): one event is in the handshake and up to 15 are pending; a 16th
pending one is discarded and the overrun flag sets. -/
def tickEvent (s : State) (n : Nat) : State :=
  if vget 0 s.pins.tickPend n < 16 then { s with pins.tickPend := vmodN s.pins.tickPend n (· + 1) }
  else { s with pins.xovr := s.pins.xovr ||| BitVec.twoPow 10 n }

/-- A muster request port's token enters its event crossing. -/
def musterEvent (s : State) (d : Nat) : State :=
  if vget 0 s.pins.musPend d < 16 then { s with pins.musPend := vmodN s.pins.musPend d (· + 1) }
  else { s with pins.xovr := s.pins.xovr ||| BitVec.twoPow 10 (8 + d) }

/-- A non-stallable input of the hub acknowledges a token at once, whatever its value; it is counted only while its
paddock is LIVE (R210, R413). -/
def eventTake (s : State) (l : Leaf) (k : Nat) (f : State → State) : State × List Move :=
  if arrived (seen s l) then
    let a := ackLeaf (if (pdkAt s k).state == .live then f s else s) l
    (a.1, a.2.map Move.freed)
  else (s, [])

/-- A lane's automatic consumer takes what it sees. -/
def autoTake (s : State) (l : Leaf) : State × List Move :=
  match l with
  | .gate e =>
    let a := gateTake s e
    let b := crossTake a.1 e
    (b.1, a.2 ++ b.2)
  | .op n j =>
    let r := opTakes s n j (seen s l)
    if r.2 then let a := ackLeaf r.1 l; (a.1, a.2.map Move.freed) else (s, [])
  | .pin g =>
    let r := pinTakes s g (seen s l)
    if r.2 then
      let a := ackLeaf r.1 l
      let b := pinPresent a.1 g
      (b.1, a.2.map Move.freed ++ b.2.map Move.shown)
    else (s, [])
  | .tick n => eventTake s l (32 * (n / 4)) fun s => tickEvent s n
  | .muster d => eventTake s l (32 * d) fun s => musterEvent s d
  | _ => (s, [])

/-- Several consumers, one after another. -/
def autoTakes (s : State) (ls : List Leaf) : State × List Move :=
  ls.foldl (fun (a : State × List Move) l => let b := autoTake a.1 l; (b.1, a.2 ++ b.2)) (s, [])

/-- What a source does once its channel is free. -/
def refill (s : State) (x : Src) : State × List Move :=
  let s := newRoutes (paceCount s x)
  let shown := fun (r : State × List Src) => (r.1, r.2.map Move.shown)
  match x with
  | .out _ _ _ => (s, [])
  | .bin k b p _ => shown (binRefill s k b p)
  | .tap k row => shown (tapPresent s k row)
  | .adapter l j => shown (adapterPresent s l j)
  | .del n j => shown (delPresent s n j)
  | .pin g => shown (pinPresent s g)
  | .gate e =>
    let a := crossTake s e
    let b := gateTake a.1 e
    let c := crossTake b.1 e
    (c.1, a.2 ++ b.2 ++ c.2)

/-- The moves that follow, until nothing moves by itself. -/
def pump : Nat → List Move → State → State
  | 0, _, s => s
  | _ + 1, [], s => s
  | fuel + 1, .shown x :: r, s =>
    let a := autoTakes s (srcLeaves s x)
    pump fuel (r ++ a.2) a.1
  | fuel + 1, .freed x :: r, s =>
    let a := refill s x
    pump fuel (r ++ a.2) a.1

/-- The most moves that one event starts (log entry 14). -/
def pumpFuel (s : State) : Nat := 4096 + s.fab.chans.length

def settle (s : State) (l : List Move) : State := pump (pumpFuel s) l s

/-- Sources that have been presented. -/
def settleShown (r : State × List Src) : State := settle r.1 (r.2.map Move.shown)

/-- Pins in edge form whose pads' own levels have changed since `old`: each change is an edge (R438). -/
def padEdges (old s : State) : State :=
  ((List.finRange 96).filter fun g => edgeForm s g.val && padLevel s g.val != padLevel old g.val).foldl (fun s g =>
    settleShown (pinPresent (pendEdge s g (padLevel s g.val)) g.val)) s

/-- A select acknowledges its token, and what follows moves. -/
def take (s : State) (l : Leaf) : State :=
  let a := ackLeaf s l
  settle a.1 (a.2.map Move.freed)

/-- Several selects acknowledge together. -/
def takeAll (s : State) (ls : List Leaf) : State :=
  let a := ls.foldl (fun (a : State × List Move) l => let b := ackLeaf a.1 l; (b.1, a.2 ++ b.2.map Move.freed)) (s, [])
  settle a.1 a.2

/-! ### A paddock resumes (release of WRITE, release of a cut, LIVE) -/

/-- Everything of a paddock that waits to present or to be taken does so. -/
def resumePaddock (s : State) (k : Nat) : State :=
  let s := (List.range 32).foldl (fun s row => settleShown (tapPresent s k row)) s
  let s := (usedBins s k).foldl (fun s b => settleShown (fifoPresent s k b)) s
  let s := (List.range 8).foldl (fun s p =>
    (List.range 8).foldl (fun s j => settleShown (delPresent s (8 * k + p) j)) s) s
  let s := ((List.range 96).filter fun g => (pinPort g).1 == k).foldl (fun s g => settleShown (pinPresent s g)) s
  let s := ((List.range 128).filter fun l => (adapterEnd l 0).k == k).foldl (fun s l =>
    (List.range 4).foldl (fun s j => settleShown (adapterPresent s l j)) s) s
  (writtenStalls s k).foldl (fun s n => settle s [.shown (.out k n 0), .shown (.out k n 1)]) s

/-- The border lanes that arrive in a paddock. -/
def arrivals (k : Nat) : List End :=
  ((List.range 64).flatMap fun col => [⟨k, 31, col, 0, 0⟩, ⟨k, 31, col, 0, 1⟩, ⟨k, 0, col, 2, 0⟩]) ++
    (List.range 32).flatMap fun row => [⟨k, row, 0, 1, 0⟩, ⟨k, row, 0, 1, 1⟩, ⟨k, row, 63, 3, 0⟩, ⟨k, row, 63, 3, 1⟩]

/-- The border lanes of a paddock, by the end where each arrives. -/
def arrivalLanes (k : Nat) : List End := (arrivals k).filter fun e => (driverOf e).isSome
def departureLanes (k : Nat) : List End :=
  ((List.range 64).flatMap fun col => [borderOut k 0 col 0 0, borderOut k 31 col 2 0, borderOut k 31 col 2 1]
    |>.filterMap fun b => match b with | .lane e => some e | _ => none) ++
  ((List.range 32).flatMap fun row =>
    [borderOut k row 63 1 0, borderOut k row 63 1 1, borderOut k row 0 3 0, borderOut k row 0 3 1]
    |>.filterMap fun b => match b with | .lane e => some e | _ => none)

/-- Border lanes that pass again take what waits at them (R72). -/
def resumeLanes (s : State) (es : List End) : State :=
  es.foldl (fun s e =>
    let a := gateTake (fallLevel s (.gate e)) e
    let b := crossTake a.1 e
    settle b.1 (a.2 ++ b.2 ++ if idleSrc b.1 (.gate e) then [] else [.shown (.gate e)])) s

/-- Before lanes turn to isolating, the last value present on a level lane is kept for `IN_PARK` 0b11, which the receiving
side may also be given later (Table 3-7). -/
def keepPark (s : State) (es : List End) : State :=
  es.foldl (fun s e =>
    match (if gatePasses s e then levelRails s (.gate e) else none) with
    | some r => { s with fab.park := tput 0 s.fab.park (srcKey (.gate e)) r }
    | none => s) s

end Sys2Proof.Machine
end

