-- ==== Sys2Proof/Machine/Bin.lean ====
section
/-! DEFINITION. Machine/Bin.lean: the accesses, items and commands of bins (R89 to R99, R103, R479) and their state at
the release of RESET and at a user global reset (R109, R110). -/

namespace Sys2Proof.Machine

open Sys2Proof

/-- A bad token on a used input of a bin (R479). Of several bad inputs at once the one of the lowest number gives the kind
recorded: the model's choice (log entry 100). -/
def badInput (s : State) (k b : Nat) : Option (BitVec 16) :=
  ((binInputs s k b).map fun i => seen s (.bin k b i)).find? violates

/-- A bin fault (R479). -/
def binFault (s : State) (k : Fin 64) (b : Nat) (r : BitVec 16) : State :=
  pdkFault (s.modBin (binNo k b) fun x => { x with fault := true }) k (if r = poison then 2 else 1) 6 b

/-- An access of a bin: nothing while it may not act; a bad token on a used input is a bin fault; else `f`. -/
def binStep (s : State) (k : Fin 64) (b : Nat) (f : State → State) : State :=
  if !binRuns s k b || cutHeld s k then s
  else match badInput s k b with
  | some r => binFault s k b r
  | none => f s

/-! ### RAM (R89 to R91) -/

/-- A request stands complete on a port: its address, cut to the port's words, and its operation. -/
def ramRequest (s : State) (k b p : Nat) : Option (Nat × Bool) :=
  let lo := seen s (.bin k b (10 * p))
  let hi := seen s (.bin k b (10 * p + 1))
  if complete lo && complete hi then
    some ((tokenOf lo + 256 * (tokenOf hi % 64)) % (16384 / binLanes s k b p), (tokenOf hi).testBit 7)
  else none

/-- A port that serves RAM requests (Table 4-1). -/
def ramPort (s : State) (k b p : Nat) : Bool := binMode s k b == 1 || (binMode s k b == 0 && p == 0)

/-- The write-data selects of a port, and the word that stands on them. -/
def dataLeaves (s : State) (k b p : Nat) : List Leaf := (List.range (binLanes s k b p)).map fun i => .bin k b (10 * p + 2 + i)
def dataWord (s : State) (k b p : Nat) : Option (List Byte) :=
  let r := (dataLeaves s k b p).map (seen s)
  if r.all complete then some (r.map fun x => BitVec.ofNat 8 (tokenOf x)) else none

def reqLeaves (k b p : Nat) : List Leaf := [.bin k b (10 * p), .bin k b (10 * p + 1)]

/-- `BIN_READ`: a read request presents its word on the port's output lanes, and is acknowledged (R90). -/
def execBinRead (k : Fin 64) (b : Fin 64) (p : Fin 2) (s : State) : Host.Outcome State Fault Refusal :=
  .next <| binStep s k b fun s =>
    match ramRequest s k b p with
    | some (a, false) =>
      if ramPort s k b p && outsIdle s k b p then
        let w := binLanes s k b p
        let r := binRead s k b (a * w) w
        let q := presentWord r.1 k b p r.2
        let a := ackLeaf q.1 (.bin k b (10 * p))
        let c := ackLeaf a.1 (.bin k b (10 * p + 1))
        settle c.1 (q.2.map Move.shown ++ (a.2 ++ c.2).map Move.freed)
      else s
    | _ => s

/-- `BIN_WRITE`: a write request stores one word, and the request and the data are acknowledged together (R90). -/
def execBinWrite (k : Fin 64) (b : Fin 64) (p : Fin 2) (s : State) : Host.Outcome State Fault Refusal :=
  .next <| binStep s k b fun s =>
    match ramRequest s k b p, dataWord s k b p with
    | some (a, true), some w =>
      if ramPort s k b p then
        takeAll (binWrite s k b (a * binLanes s k b p) w) (reqLeaves k b p ++ dataLeaves s k b p)
      else s
    | _, _ => s

/-! ### FIFO (R92) -/

/-- `FIFO_WRITE`: a word is taken when its lanes are complete and the FIFO is not full. -/
def execFifoWrite (k : Fin 64) (b : Fin 64) (s : State) : Host.Outcome State Fault Refusal :=
  .next <| binStep s k b fun s =>
    let x := s.bin (binNo k b)
    match dataWord s k b 0 with
    | some w =>
      if binMode s k b = 2 ∧ x.count < fifoCap s k b then
        let s := binWrite s k b ((x.rd + x.count) % fifoCap s k b * binLanes s k b 0) w
        let s := binNotice (s.modBin (binNo k b) fun x => { x with count := x.count + 1 }) k b
        settleShown (fifoPresent (takeAll s (dataLeaves s k b 0)) k b)
      else s
    | none => s

/-- `FIFO_READ`: the word presented leaves once every used output lane has acknowledged it, and the next is presented. -/
def execFifoRead (k : Fin 64) (b : Fin 64) (s : State) : Host.Outcome State Fault Refusal :=
  .next <| binStep s k b fun s =>
    let x := s.bin (binNo k b)
    if binMode s k b = 2 ∧ x.shown ∧ outsIdle s k b 1 then
      let cap := fifoCap s k b
      settleShown (fifoPresent (binNotice (s.modBin (binNo k b) fun x =>
        { x with count := x.count - 1, rd := (x.rd + 1) % cap, shown := false }) k b) k b)
    else s

/-! ### Priority FIFO: writing (R93) -/

/-- Payload granules, of the width of a word, that no item holds, lowest first (log entry 13). -/
def freeCells (s : State) (k b : Nat) : List Nat :=
  let x := s.bin (binNo k b)
  (List.range (14336 / binLanes s k b 0)).filter fun c => !x.items.any fun i => i.cells.contains c

/-- The lowest-numbered free index entry. -/
def freeHandle (x : BinSt) : Option Nat := (List.range 1024).find? fun h => !x.items.any fun i => i.handle == h

/-- The header pair is taken: the item gets its handle and its space, when both are free. An uncorrectable index word
found now leaves the pair acknowledged and not applied (R103, log entry 13). -/
def itemHeader (s : State) (k : Fin 64) (b : Nat) : State :=
  let lo := seen s (.bin k b 0)
  let hi := seen s (.bin k b 1)
  let x := s.bin (binNo k b)
  if x.idxErr || !(complete lo && complete hi) then s
  else
    let len := tokenOf hi + 1
    let cells := (freeCells s k b).take len
    match freeHandle x with
    | none => s
    | some h =>
      if cells.length < len then s
      else
        let s := indexRead s k b
        if (s.bin (binNo k b)).idxErr then takeAll s (reqLeaves k b 0)
        else
          let it : PItem := { handle := h, prio := BitVec.ofNat 4 (tokenOf lo), len := len, arrival := x.arrivals,
                              cells := cells }
          let s := s.modBin (binNo k b) fun x =>
            { x with items := x.items ++ [it], writing := some h, arrivals := x.arrivals + 1 }
          takeAll (binNotice s k b) (reqLeaves k b 0)

/-- The next word of the item being written is taken; the item is readable with its last word. -/
def itemWord (s : State) (k : Fin 64) (b h : Nat) : State :=
  match dataWord s k b 0, itemOfHandle (s.bin (binNo k b)) h with
  | some w, some it =>
    let s := binWrite s k b (2048 + binLanes s k b 0 * it.cells.getD it.taken 0) w
    let s := s.modBin (binNo k b) fun x =>
      { x with items := x.items.map fun i => if i.handle == h then { i with taken := i.taken + 1 } else i,
               writing := if it.taken + 1 = it.len then none else some h }
    takeAll s (dataLeaves s k b 0)
  | _, _ => s

/-- `ITEM_WRITE`: the header pair of an item, or the next word of the one being written (R93). -/
def execItemWrite (k : Fin 64) (b : Fin 64) (s : State) : Host.Outcome State Fault Refusal :=
  .next <| binStep s k b fun s =>
    if binMode s k b ≠ 3 then s
    else match (s.bin (binNo k b)).writing with
    | none => itemHeader s k b
    | some h => itemWord s k b h

/-! ### Priority FIFO: reading (R94, R95) -/

/-- The next item (R94): readable and not read-held, lowest priority value, then first header pair. -/
def nextItem (x : BinSt) : Option PItem :=
  (x.items.filter fun i => i.taken == i.len && !i.held).foldl (fun a i =>
    match a with
    | none => some i
    | some j => if i.prio < j.prio ∨ (i.prio = j.prio ∧ i.arrival < j.arrival) then some i else some j) none

/-- `ITEM_SELECT`: after the item before, and any command that R98 puts first, the next item becomes read-held and is
presented. -/
def execItemSelect (k : Fin 64) (b : Fin 64) (s : State) : Host.Outcome State Fault Refusal :=
  .next <| binStep s k b fun s =>
    let x := s.bin (binNo k b)
    if binMode s k b ≠ 3 ∨ x.cur.isSome ∨ x.idxErr ∨ x.cmdFirst then s
    else match nextItem x with
    | none => s
    | some it =>
      let s := indexRead s k b
      if (s.bin (binNo k b)).idxErr then s
      else
        let s := s.modBin (binNo k b) fun x =>
          { x with seq := x.seq + 1, cur := some { handle := it.handle },
                   items := x.items.map fun i =>
                     if i.handle == it.handle then { i with held := true, readseq := x.seq + 1 } else i }
        let a := headerPresent s k b
        let c := wordPresent a.1 k b
        settle c.1 ((a.2 ++ c.2).map Move.shown)

/-! ### Priority FIFO: commands (R96 to R99) -/

/-- An item's payload and index entry are freed. -/
def freeItems (x : BinSt) (p : PItem → Bool) : BinSt := { x with items := x.items.filter fun i => !p i }

/-- A command counted as misuse (R97). -/
def misuse (x : BinSt) : BinSt := { x with misuse := satAdd x.misuse 1 }

def release (x : BinSt) (h : Nat) : BinSt :=
  match itemOfHandle x h with
  | some i => if i.held then freeItems x fun j => j.handle == h else misuse x
  | none => misuse x

def releaseThrough (x : BinSt) (m : Fin 4) : BinSt :=
  match x.marks[m] with
  | none => misuse x
  | some at_ =>
    { freeItems x (fun i => i.held && decide (i.readseq ≤ at_)) with
      marks := x.marks.map fun k => match k with | some a => if a ≤ at_ then none else some a | none => none }

def saveMark (x : BinSt) (m : Fin 4) : BinSt := { x with marks := vset x.marks m (some x.seq) }

def rewind (x : BinSt) (m : Fin 4) : BinSt :=
  match x.marks[m] with
  | none => misuse x
  | some at_ =>
    { x with items := x.items.map fun i => if i.held && decide (at_ < i.readseq) then { i with held := false } else i,
             marks := x.marks.map fun k => match k with | some a => if at_ < a then none else some a | none => none }

def clearMark (x : BinSt) (m : Fin 4) : BinSt :=
  match x.marks[m] with
  | none => misuse x
  | some _ => { x with marks := vset x.marks m none }

/-- A command of the operations `ops` is applied, and acknowledged, when no item is being presented (R98); after an
uncorrectable index word it is acknowledged and not applied (R103). -/
def binCommand (s : State) (k : Fin 64) (b : Nat) (ops : Nat → Bool) (f : Nat → Fin 4 → BinSt → BinSt) : State :=
  let x := s.bin (binNo k b)
  let lo := tokenOf (seen s (.bin k b 10))
  let hi := tokenOf (seen s (.bin k b 11))
  if binMode s k b ≠ 3 ∨ !cmdComplete s k b ∨ x.cur.isSome ∨ !ops (hi / 16) then s
  else
    let s := if x.idxErr then s else indexRead s k b
    let s :=
      if (s.bin (binNo k b)).idxErr then s
      else binNotice (s.modBin (binNo k b) (f (lo + 256 * (hi % 4)) ⟨hi / 4 % 4, Nat.mod_lt _ (by decide)⟩)) k b
    takeAll (s.modBin (binNo k b) fun x => { x with cmdFirst := false }) (reqLeaves k b 1)

/-- `RELEASE`: frees a read-held item by its handle. A command whose operation Table 4-4 does not list is counted as
misuse here (R97, log entry 13). -/
def execRelease (k : Fin 64) (b : Fin 64) (s : State) : Host.Outcome State Fault Refusal :=
  let hi := tokenOf (seen s (.bin k b 11))
  .next <| binStep s k b fun s =>
    binCommand s k b (fun op => op == 1 || op == 0 || decide (5 < op)) fun h _ x =>
      if hi / 16 = 1 then release x h else misuse x

/-- `RELEASE_THROUGH_MARK`. -/
def execReleaseThroughMark (k : Fin 64) (b : Fin 64) (s : State) : Host.Outcome State Fault Refusal :=
  .next <| binStep s k b fun s => binCommand s k b (· == 2) fun _ m x => releaseThrough x m

/-- `SAVE_MARK`. -/
def execSaveMark (k : Fin 64) (b : Fin 64) (s : State) : Host.Outcome State Fault Refusal :=
  .next <| binStep s k b fun s => binCommand s k b (· == 3) fun _ m x => saveMark x m

/-- `REWIND`. -/
def execRewind (k : Fin 64) (b : Fin 64) (s : State) : Host.Outcome State Fault Refusal :=
  .next <| binStep s k b fun s => binCommand s k b (· == 4) fun _ m x => rewind x m

/-- `CLEAR_MARK`. -/
def execClearMark (k : Fin 64) (b : Fin 64) (s : State) : Host.Outcome State Fault Refusal :=
  .next <| binStep s k b fun s => binCommand s k b (· == 5) fun _ m x => clearMark x m

/-! ### Reset (R109, R110) -/

/-- The channels that the bins of a paddock drive. -/
def binChan (k x : Nat) : Bool := decide (393216 + 1024 * k ≤ x) && decide (x < 393216 + 1024 * (k + 1))

/-- A bin with no item, no mark, no word and nothing presented; its notice and counts kept. That the reset or pour which
ends an index error leaves the flipped bits of the index words is the model's choice (R103, log entry 100). -/
def binEmptied (x : BinSt) : BinSt :=
  { x with count := 0, rd := 0, shown := false, items := [], writing := none, cur := none, cmdFirst := false,
           marks := Vector.replicate 4 none, seq := 0, arrivals := 0, idxErr := false, fault := false }

/-- A user global reset (R110): accesses not yet performed are aborted, FIFO and priority FIFO bins are emptied, RAM
contents stay; the level falls (R100). -/
def binsUserReset (s : State) (k : Nat) : State :=
  let s := { s with fab.chans := tdrop (binChan k) s.fab.chans }
  (usedBins s k).foldl (fun s b => binNotice (s.modBin (binNo k b) binEmptied) k b) s

/-- The notices of bins that a new pattern leaves unused are disabled (R100, R101). -/
def unusedNotices (s : State) (k : Nat) : State :=
  (s.fab.bins.filterMap fun e => if e.1 / 64 = k ∧ !binUsed s k (e.1 % 64) then some (e.1 % 64) else none).foldl
    (fun s b => binNotice s k b) s

/-- RESET asserted for a pour (R31, R375): nothing is presented, and each bin's notice sees its level fall to 0 (R100). -/
def binsHold (s : State) (k : Nat) : State :=
  let s := { s with fab.chans := tdrop (binChan k) s.fab.chans }
  ((s.fab.bins.filter fun e => e.1 / 64 == k).map fun e => e.1 % 64).foldl
    (fun s b => binNotice (s.modBin (binNo k b) binEmptied) k b) s

/-- The notices of a paddock's bins tested at once, after a change of its configuration (R100). -/
def testNotices (s : State) (k : Nat) : State := (usedBins s k).foldl (fun s b => binNotice s k b) (unusedNotices s k)

/-- RESET released after a pour (R109): the initial words of FIFO bins. -/
def binsInitial (s : State) (k : Nat) : State :=
  let s := unusedNotices s k
  (usedBins s k).foldl (fun s b =>
    let n := if binMode s k b = 2 then binInit s k b else 0
    binNotice (s.modBin (binNo k b) fun x => { binEmptied x with count := n }) k b) s

end Sys2Proof.Machine
end

