-- ==== Sys2Proof/Machine/CmdCore.lean ====
section
/-! DEFINITION. Machine/CmdCore.lean: how the command processor begins, checks, refuses and completes a host command
(13_commands.md, R344 to R354), the semaphore check (R326), long-running commands and fences (R349 to R351). -/

namespace Sys2Proof.Machine

open Sys2Proof

/-- A refusal: its status, detail code and reply data; `dma` when a host buffer transfer failed (R318). -/
structure Deny where
  st : Status := .badParam
  detail : Nat := 0
  data : List Byte := []
  dma : Bool := false
  deriving DecidableEq, Repr

/-- BAD_PARAM with a detail code (R347). -/
def badParam (d : Nat) : Deny := { st := .badParam, detail := d }

/-- A resource refusal: class, state code, index (R346). -/
def denyRes (st : Status) (cls code idx : Nat) : Deny := { st := st, detail := cls * 256 + code, data := leBytes 4 (idx % 2 ^ 24) }

/-- A refusal with the device as the resource. -/
def denyDev (st : Status) (s : State) : Deny := denyRes st 0 (devCode s.dev.state) 0

/-- A resource that the semaphore check looks at (R325). -/
inductive Res where
  | pdk (k : Nat) | link (n : Nat) | enc (n : Nat) | gen (n : Nat) | flows (lo hi : Nat)
  /-- a semaphore itself: the target of a bind -/
  | sem (n : Nat)
  deriving DecidableEq, Repr

/-- What the header says of an opcode (Table 13-6). -/
structure CmdSpec where
  opcode : Nat
  /-- false: not in the table -/
  known : Bool := true
  states : List DevState
  /-- class and count of the target; none: no target -/
  target : Option (Nat × Nat) := none
  size : Cmd → Bool
  isLong : Cmd → State → Bool := fun _ _ => false
  /-- 0: no host buffer -/
  buffer : Bool := false
  life : Cmd → State → Bool := fun _ _ => true
  touches : Cmd → State → List Res := fun _ _ => []
  /-- parameter encodings and ranges (step 8 of R347) -/
  params : Cmd → State → Option Deny := fun _ _ => none

def stAll : List DevState := [.halter, .pouring, .service, .doze, .shuttingDown, .recovery]
def stHPSDR : List DevState := [.halter, .pouring, .service, .doze, .recovery]
def stHPSR : List DevState := [.halter, .pouring, .service, .recovery]
def stHPS : List DevState := [.halter, .pouring, .service]
def stHSDR : List DevState := [.halter, .service, .doze, .recovery]
def stHSR : List DevState := [.halter, .service, .recovery]
def stHR : List DevState := [.halter, .recovery]
def stS : List DevState := [.service]

/-- The states in which commands are served at all (R333). -/
def served (s : State) : Bool := stAll.contains s.dev.state && !s.dev.heldInReset

/-- The states in which a long-running opcode is legal (Table 13-6). -/
def longStates (opcode : Nat) : List DevState :=
  match opcode with
  | 0x0100 => stHR
  | 0x0101 | 0x0102 | 0x0103 | 0x0402 | 0x0403 => stS
  | 0x0106 | 0x0107 => stHSR
  | 0x0200 | 0x0201 | 0x0203 | 0x0204 | 0x0603 => stHPSR
  | 0x0400 | 0x0500 | 0x0502 => stHPS
  | 0x0803 | 0x0804 => stHR
  | 0x0901 => .shuttingDown :: stHPSDR
  | _ => stHPSDR

/-- The port of a command. -/
def portOf : CmdSrc → Option (Fin 2)
  | .ring p _ => some p
  | .mailbox p => some p
  | .sideband => none

/-- The losses of a command's port so far (R337). -/
def epochOf (s : State) (src : CmdSrc) : Nat :=
  match portOf src with
  | some p => s.hosts.port[p].epoch
  | none => 0

/-! ### Semaphores and bindings (R325, R326) -/

/-- Port `p` owns semaphore `n`. -/
def ownsSem (s : State) (p : Fin 2) (n : Nat) : Bool := (vget ({} : Sem) s.hosts.sem n).owner == some p

/-- The semaphores to which a resource is bound. -/
def boundSems (b : Bindings) : Res → List Nat
  | .pdk k => (vget none b.pdk k).toList
  | .link n => (vget none b.link n).toList
  | .enc n => (vget none b.enc n).toList
  | .gen n => (vget none b.gen n).toList
  | .sem n => [n]
  | .flows lo hi => (b.flows.filter fun r => r.1 ≤ hi && lo ≤ r.2.1).map fun r => r.2.2

/-- The first bound semaphore of the resources that the port does not own. -/
def firstNotHeld (s : State) (p : Fin 2) (rs : List Res) : Option Nat :=
  (rs.flatMap (boundSems s.hosts.bind)).find? fun n => !ownsSem s p n

/-- The semaphore check of R326: the number of the semaphore that is not held. -/
def semCheck (s : State) (c : Cmd) (rs : List Res) : Option Nat :=
  match portOf c.src with
  | none => none
  | some p =>
    if c.sem.toNat < 64 && !ownsSem s p c.sem.toNat then some c.sem.toNat else firstNotHeld s p rs

/-! ### Beginning (R349, R350) -/

/-- The commands of a job's port. -/
def sameSrcPort (a b : CmdSrc) : Bool := (portOf a).isSome && portOf a == portOf b

/-- The job stands for a long-running command, not for one that only has its reply still to give. -/
def isLongJob (j : Job) : Bool :=
  match j.kind with
  | .setState | .memWait _ | .imageWait _ => false
  | _ => true

/-- The long-running commands in progress (R349). -/
def longJobs (s : State) : List Job := s.cmdp.jobs.filter isLongJob

/-- R349, R350: the command may begin now, `rest` being the commands that wait before it. -/
def mayBegin (s : State) (c : Cmd) (long : Bool) (rest : List Cmd) : Bool :=
  !(c.fence && s.cmdp.jobs.any fun j => sameSrcPort j.src c.src) &&
  !(s.cmdp.jobs.any fun j => j.fence && sameSrcPort j.src c.src) &&
  !(rest.any fun h => h.src == c.src || (sameSrcPort h.src c.src && (h.fence || c.fence))) &&
  !(long && decide (32 ≤ (longJobs s).length))

/-- A reply to a command. -/
def replyTo (c : Cmd) (s : State) (st : Status) (detail : Nat) (data : List Byte) : State :=
  sendReply s c.src (epochOf s c.src) c.reply c.opcode c.tag st detail data

/-- The reply DONE with its data. -/
def doneWith (c : Cmd) (s : State) (data : List Byte) : State := replyTo c s .done 0 data

/-- The reply of a refusal: no side effects beside it (R344). -/
def refuse (c : Cmd) (s : State) (d : Deny) : State :=
  let s := match d.dma, portOf c.src with
    | true, some p => hpErr s p hpDma
    | _, _ => s
  replyTo c s d.st d.detail d.data

/-- Checks 1 to 8 of R347, in their order. -/
def checkCmd (sp : CmdSpec) (c : Cmd) (s : State) : Option Deny :=
  if c.hdr = 1 then some { st := .check, detail := 1 }
  else if c.hdr ≠ 0 then some (badParam 1)
  else if !sp.known then some { st := .badOpcode }
  else if !sp.size c then some (badParam 2)
  else if (match sp.target with
      | some (k, _) => c.tclass.toNat != k
      | none => c.tclass.toNat != 0 || c.tindex.toNat != 0) then some (badParam 2)
  else if !sp.life c s then some { st := .lifecycle }
  else if !sp.states.contains s.dev.state then some (denyDev .stateRefused s)
  else match semCheck s c (sp.touches c s) with
  | some n => some { st := .semNotHeld, detail := n }
  | none =>
    if decide (64 ≤ c.sem.toNat) && c.sem.toNat != 0xFFFF then some (badParam 4)
    else if (match sp.target with
      | some (_, n) => decide (n ≤ c.tindex.toNat)
      | none => false) then some (badParam 4)
    else if !sp.buffer && c.hlen.toNat != 0 then some (badParam 4)
    else sp.params c s

/-- A command begins (R347): counted, checked, and then carried out by its body or refused. -/
def beginCmd (sp : CmdSpec) (body : Cmd → State → Except Deny State) (c : Cmd) (s : State) : State :=
  let s := match c.src with
    | .ring p _ => s.modPort p fun h => { h with cntCmd := h.cntCmd + 1 }
    | .mailbox p => s.modPort p fun h => { h with cntCmd := h.cntCmd + 1, mbxState := 1, mbxAcc := false }
    | .sideband => s
  match checkCmd sp c s with
  | some d => refuse c s d
  | none =>
    match body c s with
    | .error d => refuse c s d
    | .ok t => t

/-- A command that reaches the command processor: not served outside HALTER to SHUTTING_DOWN (R333); held while R349 or
R350 makes it wait; else it begins. -/
def runCmd (sp : CmdSpec) (body : Cmd → State → Except Deny State) (c : Cmd) (s : State) : State :=
  let c := { c with opcode := BitVec.ofNat 16 sp.opcode }
  if !served s then s
  else if mayBegin s c (c.hdr == 0 && sp.isLong c s) s.cmdp.held then beginCmd sp body c s
  else { s with cmdp.held := s.cmdp.held ++ [c] }

/-! ### Long-running commands (R349) -/

/-- The command becomes long-running: it replies ACCEPTED with `data`, and a job stands for it. -/
def startJob (c : Cmd) (s : State) (kind : JobKind) (data : List Byte) : State :=
  let j : Job := { id := s.cmdp.nextId, src := c.src, opcode := c.opcode, tag := c.tag, reply := c.reply, fence := c.fence,
                   epoch := epochOf s c.src, hbuf := c.hbuf, hlen := c.hlen, kind := kind }
  replyTo c { s with cmdp.jobs := s.cmdp.jobs ++ [j], cmdp.nextId := s.cmdp.nextId + 1 } .accepted 0 data

/-- The job with an identifier. -/
def findJob (s : State) (id : Nat) : Option Job := s.cmdp.jobs.find? fun j => j.id == id

/-- The first job whose work `p` names. -/
def jobWhere (s : State) (p : JobKind → Bool) : Option Job := s.cmdp.jobs.find? fun j => p j.kind

def isBist : JobKind → Bool
  | .bist .. => true
  | _ => false

/-- The tests that a mask selects: bit 8 selects the shutdown set, bits 0 to 7 and the caster self-test. -/
def testsOf (mask : Nat) : List Nat := if mask.testBit 8 then List.range 9 else bitsOf 8 mask

/-- An unfinished `BIST_RUN` runs test `t`, and so changes the blocks that it tests (R351). -/
def bistChanges (s : State) (t : Nat) : Bool :=
  s.cmdp.jobs.any fun j => match j.kind with
    | .bist mask _ => (testsOf mask.toNat).contains t
    | _ => false

/-- The state of a job's work changed. -/
def setJobKind (s : State) (id : Nat) (k : JobKind) : State :=
  { s with cmdp.jobs := s.cmdp.jobs.map fun j => if j.id == id then { j with kind := k } else j }

/-- A job gives its final reply and ends. -/
def finishJob (s : State) (id : Nat) (st : Status) (detail : Nat) (data : List Byte) : State :=
  match findJob s id with
  | none => s
  | some j =>
    sendReply { s with cmdp.jobs := s.cmdp.jobs.filter fun j => j.id != id } j.src j.epoch j.reply j.opcode j.tag st detail
      data

/-! ### Host buffers (R352) -/

/-- The input of a command that needs `need` bytes of its host buffer. -/
def inBuf (c : Cmd) (need : Nat) : Except Deny (List Byte) :=
  if c.hlen.toNat < need then .error (badParam 5)
  else match c.buf with
  | none => .error { st := .aborted, dma := true }
  | some l => .ok (padTo c.hlen.toNat l)

/-- Output of `data`: inline, or to the host buffer and announced by its byte count. -/
def outBuf (s : State) (src : CmdSrc) (hbuf : BitVec 64) (hlen : BitVec 32) (data : List Byte) :
    Except Deny (State × List Byte) :=
  if hlen.toNat = 0 then if data.length ≤ 4080 then .ok (s, data) else .error (badParam 5)
  else if hlen.toNat < data.length then .error (denyDev .noSpace s)
  else match portOf src with
  | some p => .ok (hostOut s p [(hbuf.toNat, data)], leBytes 4 data.length)
  | none => .ok (s, data)

/-- The host buffer in step 8 of R347: an input buffer that holds what the command needs, or output that fits the reply. -/
def inputFits (c : Cmd) (need : Nat) : Option Deny := if c.hlen.toNat < need then some (badParam 5) else none
def inlineFits (c : Cmd) (need : Nat) : Option Deny := if c.hlen.toNat = 0 ∧ 4080 < need then some (badParam 5) else none

/-- A command that completes at once with output `data`. -/
def doneOut (c : Cmd) (s : State) (data : List Byte) : Except Deny State :=
  match outBuf s c.src c.hbuf c.hlen data with
  | .error d => .error d
  | .ok (s, l) => .ok (doneWith c s l)

/-- A job that completes with output `data`. A port lost since it began makes its buffer transfer end ABORTED (R337). -/
def finishOut (s : State) (id : Nat) (detail : Nat) (data : List Byte) : State :=
  match findJob s id with
  | none => s
  | some j =>
    if j.hlen.toNat ≠ 0 ∧ epochOf s j.src ≠ j.epoch then finishJob s id .aborted 0 []
    else match outBuf s j.src j.hbuf j.hlen data with
    | .error d => finishJob s id d.st d.detail d.data
    | .ok (s, l) => finishJob s id .done detail l

/-! ### Parameter helpers -/

/-- Parameter bytes `[lo, lo + len)` as a number. -/
def par (c : Cmd) (lo len : Nat) : Nat := leAt c.params lo len

/-- Every byte of `[lo, lo + len)` is 0. -/
def resZero (c : Cmd) (lo len : Nat) : Bool := ((c.params.drop lo).take len).all (· == 0)

/-- The first check that fails: reserved fields first, with `DETAIL` 3, then values, with `DETAIL` 4 (R347). -/
def paramChecks (reserved values : Bool) : Option Deny :=
  if !reserved then some (badParam 3) else if !values then some (badParam 4) else none

/-- P equals `n`. -/
def sizeIs (n : Nat) (c : Cmd) : Bool := c.params.length == n

/-- A field that takes its default when written as 0 (R354). -/
def orDefault (v d : Nat) : Nat := if v = 0 then d else v

end Sys2Proof.Machine
end

