-- ==== Sys2Proof/Machine/DdrOps.lean ====
section
/-! DEFINITION. Machine/DdrOps.lean: the DDR5 address map, the region map with its rights, ECC, block reads and writes,
result regions and the shrink rule (11_ddr5.md, R293 to R301 and R308). -/

namespace Sys2Proof.Machine

open Sys2Proof

/-! ### Codes -/

/-- `MEM_STATUS.STATE` (Table 11-8). -/
def chCode : ChState → Nat
  | .absent => 0 | .training => 1 | .active => 2 | .recal => 3 | .failedTrain => 4 | .retired => 5 | .excluded => 6
  | .selfRefresh => 7

/-- Region kinds as `MEM_MAP` codes them (Table 13-13). -/
def kindCode : RegionKind → Nat
  | .pixel => 1 | .spill => 2 | .trace => 3 | .caster => 4 | .result => 5 | .user => 6

def kindOf : Nat → Option RegionKind
  | 1 => some .pixel | 2 => some .spill | 3 => some .trace | 4 => some .caster | 5 => some .result | 6 => some .user
  | _ => none

/-- `MEM_DENY_ADDR_HI[10:8]` (Table 18-9). -/
def userCode : MemUser → Nat
  | .caster => 0 | .host 0 => 1 | .host 1 => 2 | .memCmd => 3 | .collector => 4 | .sched => 5 | .trace => 6 | .store => 7

/-! ### Capacity (R293, Table 11-1) -/

/-- Component density in Gbit. -/
def densityGbit : Nat → Nat
  | 0 => 16 | 1 => 24 | _ => 32

/-- Capacity of a channel in GiB. -/
def capGiB (d : MemDesc) : Nat :=
  (if d.ranks2 then 2 else 1) * 2 * (if d.x16 then 2 else 4) * densityGbit d.density / 8

/-- A descriptor within Table 11-1. -/
def descOk (d : MemDesc) : Bool :=
  decide (d.density ≤ 2) && decide (1 ≤ d.speed) && decide (d.speed ≤ 5) && (!d.ranks2 || decide (d.speed ≤ 4))
    && decide (capGiB d ≤ 32)

/-! ### Address map (R298) -/

/-- First address of a die. -/
def dieBase (d : Nat) : Nat := d * 2 ^ 37

/-- The die of an address below 2^38. -/
def dieOf (a : Nat) : Option (Fin 2) :=
  if a < 2 ^ 37 then some 0 else if a < 2 ^ 38 then some 1 else none

/-- The die of a channel. -/
def dieOfChan (c : Fin 8) : Fin 2 := ⟨c.val / 4, by omega⟩

/-- D: bytes populated on a die. -/
def populated (s : State) (d : Fin 2) : Nat :=
  match s.ddr.desc[d] with
  | some m => s.ddr.active[d].length * capGiB m * 2 ^ 30
  | none => 0

/-- The channel of an address and the address within it; none where the offset is not populated. -/
def mapAddr (s : State) (a : Nat) : Option (Nat × Nat) :=
  match dieOf a with
  | none => none
  | some d =>
    let o := a - dieBase d.val
    if o < populated s d then
      let act := s.ddr.active[d]
      let g := o / 1024
      some (act.getD (g % act.length) 0, g / act.length * 1024 + o % 1024)
    else none

/-- Key of a byte in the store: channels do not share keys. -/
def physKey (ch loc : Nat) : Nat := ch * 2 ^ 35 + loc

def physOf (s : State) (a : Nat) : Option Nat := (mapAddr s a).map fun x => physKey x.1 x.2

/-- What a byte reads as that nothing has written since training left its channel's contents undefined (R304): a free value
of that training (log entry 21). -/
def fillByte (s : State) (k : Nat) : Byte :=
  match (vget ({} : Channel) s.ddr.chan (k / 2 ^ 35)).fill with
  | 0 => 0
  | n => Config.dramByte n k

/-- One byte of device memory as it stands; none where no byte exists. -/
def ddrByte (s : State) (a : Nat) : Option Byte := (physOf s a).map fun k => tget (fillByte s k) s.ddr.bytes k

/-- An access as the blocks it touches: address and length within each 64-byte block. -/
def blockPieces : Nat → Nat → Nat → List (Nat × Nat)
  | 0, _, _ => []
  | f + 1, a, len =>
    if len = 0 then [] else (a, min (64 - a % 64) len) :: blockPieces f (a + min (64 - a % 64) len) (len - min (64 - a % 64) len)

def blocksOf (a len : Nat) : List (Nat × Nat) := blockPieces (len / 64 + 2) a len

/-! ### Rights (R299, Table 11-3) -/

/-- The region that holds an address. -/
def regionAt (s : State) (a : Nat) : Option Region :=
  s.ddr.map.find? fun r => decide (r.base ≤ a) && decide (a < r.base + r.len)

/-- The users that read the general regions. -/
def generalUser : MemUser → Bool
  | .caster | .host _ | .memCmd => true
  | _ => false

def mayRead (u : MemUser) : RegionKind → Bool
  | .pixel | .trace | .caster | .user => generalUser u
  | .result => generalUser u || u == .collector
  | .spill => u == .sched

/-- `off` and `len`: the bytes written, from the region's base. Any writer may write the control page of a result
region. -/
def mayWrite (u : MemUser) (off len : Nat) : RegionKind → Bool
  | .pixel => u == .store
  | .spill => u == .sched
  | .trace => u == .trace
  | .caster | .user => generalUser u
  | .result => u == .collector || decide (off + len ≤ 4096)

/-- An access of one piece is permitted. -/
def pieceOk (s : State) (u : MemUser) (write : Bool) (a len : Nat) : Bool :=
  (mapAddr s a).isSome &&
  match regionAt s a with
  | none => false
  | some r => if write then mayWrite u (a - r.base) len r.kind else mayRead u r.kind

/-- The address of the first piece of an access that is not permitted. -/
def firstDenied (s : State) (u : MemUser) (write : Bool) (a len : Nat) : Option Nat :=
  ((blocksOf a len).find? fun x => !pieceOk s u write x.1 x.2).map Prod.fst

def modChanN (s : State) (c : Nat) (f : Channel → Channel) : State := { s with ddr.chan := vmodN s.ddr.chan c f }

/-- The channel in whose registers a denial is recorded: that of the address, else the lowest of its die (R299). -/
def denyChan (s : State) (a : Nat) : Option Nat :=
  match mapAddr s a with
  | some (c, _) => some c
  | none => (dieOf a).map fun d => 4 * d.val

/-- A denied access counted and recorded. -/
def recordDeny (s : State) (u : MemUser) (a : Nat) : State :=
  match denyChan s a with
  | none => s
  | some c => modChanN s c fun h =>
    { h with cntDeny := satAdd h.cntDeny 1, err := h.err ||| BitVec.twoPow 32 29,
             denyAddr := if h.err.getLsbD 29 then h.denyAddr else BitVec.ofNat 40 a,
             denyReq := if h.err.getLsbD 29 then h.denyReq else BitVec.ofNat 3 (userCode u) }

/-! ### ECC, block reads and writes (R295) -/

/-- The flipped bits of the beat that holds key `k`. -/
def beatFlips (s : State) (k : Nat) : List Nat := tget [] s.ddr.bad (k / 4)

/-- The 16 beats of the block of a key. -/
def blockBeats (k : Nat) : List Nat := (List.range 16).map fun i => k / 64 * 16 + i

/-- A block holds a beat that SECDED cannot correct: two flipped bits or more (log entry 10). -/
def blockBad (s : State) (k : Nat) : Bool := (blockBeats k).any fun b => decide (2 ≤ (tget [] s.ddr.bad b).length)

/-- Beats of a block that a read corrects. -/
def blockFixes (s : State) (k : Nat) : Nat := ((blockBeats k).filter fun b => (tget [] s.ddr.bad b).length == 1).length

/-- A block read counted: the blocks read, the beats corrected by channel and subchannel, an uncorrectable block with
its address while `UE` is clear. -/
def countRead (s : State) (c loc a : Nat) : State :=
  let k := physKey c loc
  let fixes := blockFixes s k
  let bad := blockBad s k
  modChanN s c fun h =>
    { h with powerDown := false, cntRd := h.cntRd + 1, cntCorr := satAdd h.cntCorr fixes,
             corrSc := vmodN h.corrSc (loc / 64 % 2) fun v => satAdd v fixes,
             cntUncorr := if bad then satAdd h.cntUncorr 1 else h.cntUncorr,
             ueAddr := if bad && !h.err.getLsbD 31 then BitVec.ofNat 40 (a / 64 * 64) else h.ueAddr,
             err := if bad then h.err ||| BitVec.twoPow 32 31 else h.err }

/-- The longest wait of a request at a channel (`MEM_WAITMAX`): how long one waits, the spec leaves open (log entry 3). -/
def noteWait (s : State) (c : Nat) : State :=
  let (v, s) := s.drawNat
  modChanN s c fun h => { h with waitMax := max h.waitMax (v % 2 ^ 16) }

/-- One piece read: its bytes (zeros for an uncorrectable block), and whether the block was uncorrectable. -/
def readPiece (s : State) (a len : Nat) : State × List Byte × Bool :=
  match mapAddr s a with
  | none => (s, List.replicate len 0, true)
  | some (c, loc) =>
    let k := physKey c loc
    let bad := blockBad s k
    (noteWait (countRead s c loc a) c, if bad then List.replicate len 0 else readFilled (fillByte s) s.ddr.bytes k len, bad)

/-- Pieces read in order. -/
def readPieces (s : State) : List (Nat × Nat) → State × List Byte × Bool
  | [] => (s, [], false)
  | (a, len) :: r =>
    let (s1, l1, b1) := readPiece s a len
    let (s2, l2, b2) := readPieces s1 r
    (s2, l1 ++ l2, b1 || b2)

/-- All four bytes of beat `b` are enabled. -/
def coveredEnabled (k : Nat) (l : List (Option Byte)) (b : Nat) : Bool :=
  decide (k ≤ 4 * b) && ((l.drop (4 * b - k)).take 4).length == 4 && ((l.drop (4 * b - k)).take 4).all Option.isSome

/-- One piece written under byte enables (R317): a block in part is a read-modify-write, a beat covered whole loses its
error. -/
def writePiece (s : State) (a : Nat) (l : List (Option Byte)) : State :=
  match mapAddr s a with
  | none => s
  | some (c, loc) =>
    let k := physKey c loc
    let s := { s with ddr.bytes := writeEnabled (fillByte s) s.ddr.bytes k l, ddr.bad := tdrop (coveredEnabled k l) s.ddr.bad }
    noteWait (modChanN s c fun h =>
      { h with powerDown := false, cntWr := h.cntWr + 1,
               cntRmw := if l.length < 64 || l.any Option.isNone then h.cntRmw + 1 else h.cntRmw }) c

/-! ### Requests in their classes (R302, Table 11-5)

A request whose channel serves is served at once, after the waiting requests that go before it: those of a lower class
number, and those of its own, which are older. A write whose channel does not serve waits in its queue; a read that finds
its channel so is not made yet (R307). Host accesses through the aperture wait for `MEMORY_ACCESS`. -/

/-- Whole blocks written in order. -/
def writePieces (s : State) : List (Nat × Nat) → List Byte → State
  | [], _ => s
  | (a, len) :: r, l => writePieces (writePiece s a ((l.take len).map some)) r (l.drop len)

/-- The class of a user's requests (Table 11-5). -/
def classOf : MemUser → Nat
  | .store => 2
  | .sched | .collector => 3
  | .caster | .host _ | .memCmd => 4
  | .trace => 5

/-- The channels that an access reaches. -/
def channelsOf (s : State) (a len : Nat) : List Nat := ((blocksOf a len).filterMap fun x => (mapAddr s x.1).map Prod.fst).eraseDups

/-- The channel of an address serves requests (R307: it waits while its channel trains or recalibrates). -/
def addrServes (s : State) (a : Nat) : Bool :=
  match mapAddr s a with
  | some (c, _) => (vget ({} : Channel) s.ddr.chan c).state == .active
  | none => true

/-- Every channel that an access reaches serves. -/
def memReady (s : State) (a len : Nat) : Bool := (blocksOf a len).all fun x => addrServes s x.1

/-- A request of class 4 for a waiting job at each channel that its access reaches and `p` picks. -/
def placeJob (s : State) (id a len : Nat) (p : Nat → Bool) : State :=
  ((channelsOf s a len).filter p).foldl (fun s n =>
    match (blocksOf a len).find? fun x => (mapAddr s x.1).map Prod.fst == some n with
    | some x => modChanN s n fun h => { h with reqs := h.reqs ++ [{ cls := 4, addr := x.1, len := x.2, job := some id }] }
    | none => s) s

/-- The bytes that a `MEM_WRITE` writes, inline or in its host buffer. -/
def memWriteData (c : Cmd) : Except Deny (List Byte) :=
  (if c.hlen.toNat = 0 then .ok (c.params.drop 16) else inBuf c (par c 8 4)).map fun l => l.take (par c 8 4)

/-- Whether a request of the job waits at a channel. -/
def jobWaits (s : State) (id : Nat) : Bool := s.ddr.chan.toList.any fun h => h.reqs.any fun r => r.job == some id

/-- What a `MEM_READ` or `MEM_WRITE` that waited does and replies, once every channel that it reaches has served it. -/
def memWaited (s : State) (c : Cmd) : State × Status × Nat × List Byte :=
  let a := par c 0 8
  let len := par c 8 4
  let write := c.opcode.toNat == 0x0602
  match firstDenied s .memCmd write a len, write, memWriteData c with
  | some x, _, _ => (recordDeny s .memCmd x, .badParam, 4, [])
  | none, false, _ =>
    let (t, l, bad) := readPieces s (blocksOf a len)
    (t, .done, b2n bad, l)
  | none, true, .ok l => (writePieces s (blocksOf a len) l, .done, 0, [])
  | none, true, .error e => (s, e.st, e.detail, e.data)

/-- A channel has served its part of a waiting command's access. With the last part a `MEM_READ` or `MEM_WRITE` is carried out,
and a command with an image goes on. -/
def serveJob (s : State) (id : Nat) : State :=
  if jobWaits s id then s
  else match (findJob s id).map Job.kind with
  | some (.memWait c) =>
    if c.opcode.toNat = 0x0601 ∨ c.opcode.toNat = 0x0602 then
      if memReady s (par c 0 8) (par c 8 4) then
        let (t, st, d, l) := memWaited s c
        finishJob t id st d l
      else placeJob s id (par c 0 8) (par c 8 4) fun n => (vget ({} : Channel) s.ddr.chan n).state != .active
    else setJobKind s id (.imageWait c)
  | _ => s

/-- A waiting request served, under the map as it now is (R299, R308). -/
def serveReq (s : State) (r : MemReq) : State :=
  match r.job with
  | some id => serveJob s id
  | none =>
  match firstDenied s r.user r.write r.addr (if r.write then r.data.length else r.len), r.write, r.user with
  | some x, false, .host p => (recordDeny s r.user x).emit (.apertureData p r.addr (List.replicate r.len 0xFF) false)
  | some x, _, _ => recordDeny s r.user x
  | none, true, _ => writePiece s r.addr r.data
  | none, false, .host p =>
    let (t, l, bad) := readPieces s (blocksOf r.addr r.len)
    t.emit (.apertureData p r.addr l bad)
  | none, false, _ => s

/-- The waiting requests that go before one of class `cls` that comes now, in their order. -/
def aheadOf (l : List MemReq) (cls : Nat) : List MemReq := (List.range (cls + 1)).flatMap fun k => l.filter fun r => r.cls == k

/-- They are served, where the channel serves. -/
def serveAhead (s : State) (cls c : Nat) : State :=
  let h := vget ({} : Channel) s.ddr.chan c
  if h.state = .active then
    (aheadOf h.reqs cls).foldl serveReq (modChanN s c fun h => { h with reqs := h.reqs.filter fun r => decide (cls < r.cls) })
  else s

/-- What goes before an access of user `u` is served. -/
def goAhead (s : State) (u : MemUser) (a len : Nat) : State :=
  (channelsOf s a len).foldl (fun s c => serveAhead s (classOf u) c) s

/-- A request joins its channel's queue; one whose address has no channel is denied at once. -/
def placeReq (s : State) (r : MemReq) : State :=
  match mapAddr s r.addr with
  | some (c, _) => modChanN s c fun h => { h with reqs := h.reqs ++ [r] }
  | none => serveReq s r

/-- A command whose access reaches a channel that trains or recalibrates waits (R307): a request of class 4 stands at each
channel that it reaches, in the order and with the ageing of R302, and its reply comes when the last is served. -/
def memHold (c : Cmd) (s : State) (a len : Nat) : State :=
  let id := s.cmdp.nextId
  let j : Job := { id := id, src := c.src, opcode := c.opcode, tag := c.tag, reply := c.reply, fence := c.fence,
                   epoch := epochOf s c.src, hbuf := c.hbuf, hlen := c.hlen, kind := .memWait c }
  placeJob { s with cmdp.jobs := s.cmdp.jobs ++ [j], cmdp.nextId := id + 1 } id a len fun _ => true

/-- One piece written, or its request left with a channel that does not serve. -/
def postPiece (s : State) (u : MemUser) (a : Nat) (l : List Byte) : State :=
  if addrServes s a then writePiece s a (l.map some)
  else placeReq s { cls := classOf u, user := u, write := true, addr := a, data := l.map some }

def postPieces (s : State) (u : MemUser) : List (Nat × Nat) → List Byte → State
  | [], _ => s
  | (a, len) :: r, l => postPieces (postPiece s u a (l.take len)) u r (l.drop len)

/-- A read without a check of rights. -/
def ddrFetch (s : State) (u : MemUser) (a len : Nat) : State × List Byte × Bool := readPieces (goAhead s u a len) (blocksOf a len)

/-- A write without a check of rights. -/
def ddrStore (s : State) (u : MemUser) (a : Nat) (l : List Byte) : State :=
  postPieces (goAhead s u a l.length) u (blocksOf a l.length) l

/-- A read under R299: none when it is denied, which is recorded; else its bytes, with uncorrectable blocks as zeros,
and whether there was one. -/
def memRead (s : State) (u : MemUser) (a len : Nat) : State × Option (List Byte × Bool) :=
  match firstDenied s u false a len with
  | some x => (recordDeny s u x, none)
  | none =>
    let (t, l, bad) := ddrFetch s u a len
    (t, some (l, bad))

/-- A write under R299: false when it is denied, which is recorded. -/
def memWrite (s : State) (u : MemUser) (a : Nat) (l : List Byte) : State × Bool :=
  match firstDenied s u true a l.length with
  | some x => (recordDeny s u x, false)
  | none => (ddrStore s u a l, true)

/-! ### Regions -/

def regionOf (s : State) (k : RegionKind) (i : Nat) : Option Region := s.ddr.map.find? fun r => r.kind == k && r.index == i

/-- The region of a kind that has one instance per die. -/
def regionOnDie (s : State) (k : RegionKind) (d : Fin 2) : Option Region :=
  s.ddr.map.find? fun r => r.kind == k && dieOf r.base == some d

/-- K of a result region (R301). -/
def resultK (r : Region) : Nat := (r.len - 4096) / 64

/-- R301: a region created by the map: both indices 0, and K. -/
def createResult (s : State) (r : Region) : State :=
  let s := ddrStore s .collector r.base (leBytes 4 0 ++ leBytes 4 0 ++ leBytes 4 (resultK r))
  { s with ddr.results := tput {} s.ddr.results r.index {} }

/-- The release index read (R301): taken when the difference stays within K, else ignored and counted once (log
entry 96). -/
def readRelease (s : State) (i : Nat) : State :=
  match regionOf s .result i with
  | none => s
  | some r =>
    if !memReady s (r.base + 4) 4 then s
    else
    let (s, l, bad) := ddrFetch s .collector (r.base + 4) 4
    if bad then s
    else
      let v := BitVec.ofNat 32 (leNat l)
      let x := tget {} s.ddr.results i
      if v = x.r then s
      else if (x.w - v).toNat ≤ resultK r then
        { s with ddr.results := tput {} s.ddr.results i { x with r := v, bad := none } }
      else if x.bad = some v then s
      else
        let s := { s with ddr.results := tput {} s.ddr.results i { x with bad := some v } }
        match denyChan s r.base with
        | none => s
        | some c => modChanN s c fun h => { h with cntDeny := satAdd h.cntDeny 1 }

/-- The region has a free record. -/
def resultFree (s : State) (r : Region) : Bool :=
  let x := tget {} s.ddr.results r.index
  decide ((x.w - x.r).toNat < resultK r)

/-- A result for region `i`: its record is written whole and then the write index; none while the region has no free
record or does not exist, or while a channel that either reaches does not serve, so that no index precedes its record. -/
def resultPut (s : State) (i : Nat) (item : Item) : State × Bool :=
  match regionOf s .result i with
  | none => (s, false)
  | some r =>
    let s := if resultFree s r then s else readRelease s i
    let x := tget {} s.ddr.results i
    let a := r.base + 4096 + 64 * (x.w.toNat % resultK r)
    if resultFree s r && memReady s a 64 && memReady s r.base 4 then
      let s := ddrStore s .collector a (itemBytes item)
      let s := ddrStore s .collector r.base (leBytes 4 (x.w + 1).toNat)
      ({ s with ddr.results := tput {} s.ddr.results i { x with w := x.w + 1 } }, true)
    else (s, false)

/-! ### The map and the shrink rule (R300, R308) -/

def regionEnd (r : Region) : Nat := r.base + r.len

/-- The largest power of two, from 2^28 down to 2^12, that is at most `len` and keeps the alignment of `base`. -/
def traceLen (base len : Nat) : Option Nat :=
  ((List.range 17).map fun i => 2 ^ (28 - i)).find? fun n => decide (n ≤ len) && base % n == 0

/-- One region after its die's populated size has changed (R308, steps 1 to 4). -/
def clipRegion (d : Nat) (pop : Nat) (r : Region) : Option Region :=
  let o := r.base - dieBase d
  if pop ≤ o then none
  else
    let len := min (o + r.len) pop / 4096 * 4096 - o
    if len = 0 then none
    else match r.kind with
    | .trace => (traceLen r.base len).map fun n => { r with len := n }
    | .result => if len < 8192 then none else some { r with len := len }
    | _ => some { r with len := len }

def clipMap (s : State) (m : List Region) : List Region :=
  m.filterMap fun r =>
    match dieOf r.base with
    | none => none
    | some d => clipRegion d.val (populated s d) r

/-- The pixel store ring of a group lies wholly in the pixel store region of its die (R250, R308). -/
def ringInRegion (s : State) (st : Store) : Bool :=
  s.ddr.map.any fun r => r.kind == .pixel && decide (r.base ≤ st.base) && decide (st.base + st.len ≤ regionEnd r)

/-- Step 5 of R308: rings that no longer lie wholly in their region are disabled. -/
def dropRings (s : State) : State :=
  { s with cxp.groups := vmapI s.cxp.groups fun _ g =>
      if g.store.on && !ringInRegion s g.store then { g with store := { g.store with on := false } } else g }

/-- The shrink rule for a die after its active list has changed: the result regions of the die are written anew. -/
def shrinkDie (s : State) (d : Fin 2) : State :=
  let m := clipMap s s.ddr.map
  let s := dropRings { s with ddr.map := m }
  (m.filter fun r => r.kind == .result && dieOf r.base == some d).foldl createResult s

/-- A new map in force (R300): a result region whose index, base and length are the same is kept, every other is
created. -/
def applyMap (s : State) (m : List Region) : State :=
  let old := s.ddr.map
  (m.filter fun r => r.kind == .result && !old.contains r).foldl createResult { s with ddr.map := m }

/-- The map of a start without a stored one (R300). -/
def defaultMap (s : State) : List Region :=
  ([0, 1] : List (Fin 2)).filterMap fun d =>
    let n := populated s d / 2 / 4096 * 4096
    if n = 0 then none else some { kind := .pixel, base := dieBase d.val, len := n }

/-- The contents of a channel become undefined, as training leaves them (R304). -/
def wipeChannel (s : State) (c : Nat) : State :=
  modChanN { s with free := s.free + 1, ddr.bytes := tdrop (fun k => k / 2 ^ 35 == c) s.ddr.bytes,
                    ddr.bad := tdrop (fun k => k / 2 ^ 33 == c) s.ddr.bad } c
    fun h => { h with fill := s.free + 1, kept := false }

/-- The requests that wait at a die's channels go on under its new map (R308). -/
def reroute (s : State) (d : Fin 2) : State :=
  let cs := (List.range 8).filter fun c => c / 4 == d.val
  let l := cs.flatMap fun c => (vget ({} : Channel) s.ddr.chan c).reqs
  l.foldl placeReq (cs.foldl (fun s c => modChanN s c fun h => { h with reqs := [] }) s)

/-! ### Quiet dies (R307) -/

/-- Region `r` lies on die `d`. -/
def onDie (d : Fin 2) (r : Region) : Bool := dieOf r.base == some d

/-- A pixel store ring on the die is enabled. -/
def ringOnDie (s : State) (d : Fin 2) : Bool :=
  s.cxp.groups.toList.any fun g => g.store.on && dieOf g.store.base == some d

/-- The trace is enabled to a region on the die. -/
def traceOnDie (s : State) (d : Fin 2) : Bool :=
  s.trc.en && s.trc.dest == 0 && s.ddr.map.any fun r => r.kind == .trace && onDie d r

/-- The die holds spill pages in use. -/
def spillOnDie (s : State) (d : Fin 2) : Bool :=
  !s.sch.pages.isEmpty && s.ddr.map.any fun r => r.kind == .spill && onDie d r

/-- A collector of the loaded graph names a result region. -/
def regionNamed (s : State) (i : Nat) : Bool := s.sch.graph.collectors.any fun c => c.kind == 3 && c.index == i

/-- Records of a result region that its consumer has not released: the release index as memory holds it now, unless it is
one that R301 ignores. -/
def unreleased (s : State) (r : Region) : Bool :=
  let x := tget {} s.ddr.results r.index
  let v := BitVec.ofNat 32 (leNat (readPieces s (blocksOf (r.base + 4) 4)).2.1)
  if (x.w - v).toNat ≤ resultK r then x.w != v else x.w != x.r

/-- The first result region of the die that holds unreleased records or that the graph names. -/
def resultOnDie (s : State) (d : Fin 2) : Option Region :=
  s.ddr.map.find? fun r => r.kind == .result && onDie d r && (unreleased s r || regionNamed s r.index)

/-- The first thing that keeps a die from being quiet, as the index of resource class 0x0C (Table 13-5); `force` looks
past the pixel stores and the trace. -/
def notQuiet (s : State) (d : Fin 2) (force : Bool) : Option Nat :=
  if spillOnDie s d then some (256 * 2)
  else if !force && traceOnDie s d then some (256 * 3)
  else if !force && ringOnDie s d then some 256
  else (resultOnDie s d).map fun r => 256 * 5 + r.index

/-! ### Views -/

/-- Slot of a channel in its die's active list, and whether it is there. -/
def slotOf (l : List Nat) (c : Nat) : Nat := (l.findIdx? (· == c)).getD 0

/-- `MEM_STATUS` (Table 11-8). -/
def memStatus (s : State) (c : Fin 8) : BitVec 32 :=
  let h := s.ddr.chan[c]
  let d := dieOfChan c
  let m := s.ddr.desc[d].getD {}
  let have_ := s.ddr.desc[d].isSome && m.present.getLsbD (c.val % 4)
  BitVec.ofNat 32 (chCode h.state * 2 ^ 29 + b2n h.persist * 2 ^ 28
    + (if have_ then m.speed * 2 ^ 25 + b2n m.ranks2 * 2 ^ 24 + b2n m.x16 * 2 ^ 23 + m.density * 2 ^ 21 else 0)
    + s.ddr.active[d].length * 2 ^ 18 + slotOf s.ddr.active[d] c.val * 2 ^ 16 + populated s d / 2 ^ 30 * 2 ^ 8)

/-- The hottest valid sensor of a fabric die, in 1/16 °C (R304; Table 18-6 gives the sensors of each die). -/
def hottest (s : State) (d : Fin 2) : Int :=
  (((List.range 16).map fun i => vget ({} : Sensor) s.pins.sensors (16 * d.val + i)).filter fun x => x.valid && !x.failed).foldl
    (fun m x => if m < x.temp then x.temp else m) (-640)

end Sys2Proof.Machine
end

