-- ==== Sys2Proof/Machine/Item.lean ====
section
/-! DEFINITION. Machine/Item.lean: the fields of an item (Table 7-5), the results of R158, result rings (R334 to R336)
and trace records (R219 to R222). -/

namespace Sys2Proof.Machine

open Sys2Proof

/-! ### Item fields (Table 7-5) -/

def itFlow (i : Item) : Nat := fld i 0 20
def itOp (i : Item) : Nat := fld i 20 12
def itSeq (i : Item) : Nat := fld i 32 32
def itPos (i : Item) : Nat := fld i 64 64
/-- Traffic class: 0 D, 1 H. -/
def itClass (i : Item) : Nat := fld i 128 1
def itPtr (i : Item) : Bool := i.getLsbD 129
def itOrigin (i : Item) : Nat := fld i 144 16
/-- The pointer form: caster address and length. -/
def itAddr (i : Item) : Nat := fld i 192 40
def itLen (i : Item) : Nat := fld i 240 14

def setOp (i : Item) (op : Nat) : Item := setFld i 20 12 op
def setSeq (i : Item) (q : Nat) : Item := setFld i 32 32 q
def setFaulted (i : Item) (b : Bool) : Item := setFld i 130 1 (b2n b)

/-- R158: the payload of `v` and every other field of the current item. -/
def resultItem (cur : Item) (v : Item) : Item :=
  BitVec.ofNat 512 (cur.toNat % 2 ^ 192 + v.toNat / 2 ^ 192 * 2 ^ 192)

/-- Reserved bits and encodings, which `FLOW_SUBMIT` refuses (R7, R177, R183): an `ORIGIN_KIND` from 3 is reserved. -/
def itReserved (i : Item) : Bool :=
  fld i 132 12 != 0 || decide (3 ≤ fld i 156 4) || (itPtr i && (fld i 232 8 != 0 || fld i 254 2 != 0))

/-! ### Result rings (R334 to R336) -/

/-- A window-placed ring's bytes in the port's windows: window `r`, offset `off`. -/
def windowKey (r : Fin 16) (off : Nat) : Nat := r.val * 2 ^ 23 + off

/-- The lap word of write index `i` (Table 12-6). -/
def lapWord (n i : Nat) (notReady : Bool) : Nat := (i / n + 1) % 2 ^ 31 + b2n notReady * 2 ^ 31

/-- Bytes written to a result ring: to its window, or to host memory. -/
def ringWrite (s : State) (p : Fin 2) (r : Fin 16) (off : Nat) (l : List Byte) : State :=
  let h := s.ring p (rrOf r)
  if h.place then s.modPort p fun h => { h with windows := writeBytes h.windows (windowKey r off) l }
  else hostOut s p [(h.base.toNat + off, l)]

/-- Slot `i` of a result ring: 4 KiB of control page, then 128 bytes for each slot. -/
def slotOff (n i : Nat) : Nat := 4096 + 128 * (i % n)

/-- A result for ring `r` of port `p`; false while the ring accepts nothing. -/
def ringResult (s : State) (p : Fin 2) (r : Fin 16) (item : Item) : State × Bool :=
  let h := s.ring p (rrOf r)
  let n := ringN h
  match h.state with
  | .active =>
    if (h.dev - h.host).toNat < n then
      let i := h.dev.toNat
      let s := ringWrite s p r (slotOff n i) (itemBytes item)
      let s := ringWrite s p r (slotOff n i + 68) (leBytes 4 s.dev.yard)
      let s := ringWrite s p r (slotOff n i + 64) (leBytes 4 (lapWord n i false))
      let s := ringWrite s p r 0 (leBytes 4 (i + 1))
      (ringMessage (s.modRing p (rrOf r) fun h => { h with dev := h.dev + 1 }) p (rrOf r), true)
    else (s, false)
  | .discard => (s.modRing p (rrOf r) fun h => { h with drop := satAdd h.drop 1 }, true)
  | _ => (s, false)

/-! ### Trace records (R219 to R223) -/

/-- `EXEC` of an executor (Table 8-5). -/
def execCode : Option Executor → Nat
  | some (.caster c) => c
  | some (.port n) => 256 + n
  | none => 1023

/-- Trace-out pins of a record's kind (Table 17-3). -/
def tracePins (s : State) (kind : Nat) : List Out :=
  ((List.finRange 96).filter fun g =>
    let p : Gpio := s.pins.gpio[g]
    p.actFunc == 0xC && !p.switching && p.sel.toNat % 16 == kind).map fun g => .tracePulse g.val

/-- The trace-out pins of a kind pulse (R432). -/
def tracePulse (s : State) (kind : Nat) : State := { s with out := s.out ++ tracePins s kind }

/-- A record in the trace buffer, or dropped where the buffer is full; the record that follows such a gap has `LOST` (R219,
R223). The muster match (R226) sees it either way. -/
def traceProduce (s : State) (kind : Nat) (r : BitVec 128) : State :=
  let s := if s.trc.buf.length < 4096 then
      { s with trc := { s.trc with buf := s.trc.buf ++ [if s.trc.gap then r ||| BitVec.twoPow 128 62 else r], gap := false } }
    else { s with trc := { s.trc with drop := s.trc.drop + 1, dropped := true, gap := true } }
  if s.trc.armed && s.trc.matchKind.toNat == kind then musterRequest { s with trc.armed := false } 3 else s

/-- The 16 bytes of Table 8-5. -/
def traceWord (s : State) (kind exec op flow seq : Nat) (flag : Bool) : BitVec 128 :=
  BitVec.ofNat 128 (s.dev.yard % 2 ^ 48 + (kind + exec * 2 ^ 4 + b2n flag * 2 ^ 15) * 2 ^ 48
    + (flow % 2 ^ 20 + op % 2 ^ 12 * 2 ^ 20) * 2 ^ 64 + seq % 2 ^ 32 * 2 ^ 96)

/-- A record of the cycle in progress, or produced at once outside one. -/
def traceAdd (s : State) (kind : Nat) (r : BitVec 128) : State :=
  match s.trc.cycle with
  | some l => { s with trc.cycle := some (l ++ [(kind, r)]) }
  | none => traceProduce (tracePulse s kind) kind r

/-- A place among the records of one cycle: after those whose kind is not greater; an affinity-miss record (10) stands with
its dispatch record (2), which it follows (R222). -/
def traceInsert (e : Nat × BitVec 128) : List (Nat × BitVec 128) → List (Nat × BitVec 128)
  | [] => [e]
  | x :: l =>
    let key (k : Nat) : Nat := if k = 10 then 2 else k
    if key e.1 < key x.1 then e :: x :: l else x :: traceInsert e l

/-- A scheduler cycle begins: its records are held until it ends. -/
def traceBegin (s : State) : State := { s with trc.cycle := some [], trc.cycleAt := s.cool.inserted }

/-- It ends: its records are produced in ascending order of kind (R222), and a kind with a record pulses its pins once
(R432). -/
def traceEnd (s : State) : State :=
  let l := (s.trc.cycle.getD []).foldl (fun l e => traceInsert e l) []
  let s := ((List.range 16).filter fun k => l.any fun e => e.1 == k).foldl tracePulse { s with trc.cycle := none }
  l.foldl (fun s e => traceProduce s e.1 e.2) s

/-- What `g` does is one scheduler cycle, or part of the one in progress. -/
def traceCycle (g : State → State) (s : State) : State :=
  if s.trc.cycle.isSome then g s else traceEnd (g (traceBegin s))

/-- The cycle in progress ends, and the next begins. -/
def traceNext (s : State) : State := if s.trc.cycle.isSome then traceBegin (traceEnd s) else s

/-- An event that passes the filter of R221 produces a record. -/
def traceEvent (s : State) (kind exec op flow seq : Nat) (flag : Bool) : State :=
  if s.trc.en && s.trc.mask.getLsbD kind && decide (s.trc.flowLo ≤ flow) && decide (flow ≤ s.trc.flowHi)
      && (match s.trc.opFilter with | none => true | some o => o == op) then
    traceAdd s kind (traceWord s kind exec op flow seq flag)
  else s

/-- A record about an item. -/
def traceItem (s : State) (kind exec : Nat) (i : Item) (flag : Bool) : State :=
  traceEvent s kind exec (itOp i) (itFlow i) (itSeq i) flag

/-- An epoch record (R220): yard time [63:48] in bytes 12 and 13. -/
def traceEpochRecord (s : State) : State :=
  if s.trc.en then
    traceProduce (tracePulse { s with trc.epoch := BitVec.ofNat 16 (s.dev.yard / 2 ^ 48) } 0) 0
      (traceWord s 0 1023 0 0 (s.dev.yard / 2 ^ 48 % 2 ^ 16) false)
  else s

end Sys2Proof.Machine
end

