-- ==== Sys2Proof/Machine/SchedOps.lean ====
section
/-! DEFINITION. Machine/SchedOps.lean: the flow scheduler's shared operations: the pool and its notices, admission and
spill, tick domains and cooling, delivery to collectors, the reorder stage, returns (07_flow_scheduler.md,
08_cooling_lists_and_trace.md). -/

namespace Sys2Proof.Machine

open Sys2Proof

/-! ### The graph -/

/-- An operation of the loaded graph; class 0 where the graph has none. -/
def opRec (s : State) (op : Nat) : Op := s.sch.graph.ops.getD op {}

/-- The caster mask of a class 1 operation. -/
def opMask (s : State) (o : Op) : BitVec 256 := s.sch.graph.masks.getD o.mask 0

/-! ### Pool and notices (R187, R191) -/

def poolSize : Nat := 262144

/-- Entries neither in use nor reserved (R195). -/
def poolFree (s : State) : Nat := poolSize - (s.sch.used + s.sch.reserved)

/-- The pool notice at the present level; its condition rises with `LIVE` (R319). -/
def poolNotify (s : State) : State :=
  let old := s.sch.poolNotice.live
  let n := noticeHere s.sch.poolNotice s.sch.params.poolWmh s.sch.params.poolWml s.sch.used
  let s := { s with sch.poolNotice := n }
  if !old && n.live then raiseEvent s 9 else s

def poolAdd (s : State) (n : Nat) : State := poolNotify { s with sch.used := s.sch.used + n }
def poolSub (s : State) (n : Nat) : State := poolNotify { s with sch.used := s.sch.used - n }

/-- The spill notice: its level is the number of pages in use. -/
def spillNotify (s : State) : State :=
  let old := s.sch.spillNotice.live
  let n := noticeHere s.sch.spillNotice s.sch.params.spillWmh s.sch.params.spillWml s.sch.pages.length
  let s := { s with sch.spillNotice := n }
  if !old && n.live then raiseEvent s 9 else s

def State.modCnt (s : State) (f : SchCounters → SchCounters) : State := { s with sch.cnt := f s.sch.cnt }

/-- Items and records discarded. -/
def schDiscard (s : State) (n : Nat) : State := s.modCnt fun c => { c with discard := c.discard + BitVec.ofNat 32 n }

/-! ### Spill pages (R190) -/

/-- The spill region; without one no page is ever free (R300). -/
def spillRegion (s : State) : Option Region := s.ddr.map.find? fun r => r.kind == .spill

/-- The lowest free page of the region (log entry 31). -/
def freePage (s : State) : Option Nat :=
  match spillRegion s with
  | none => none
  | some r => (List.range (r.len / 4096)).find? fun p => !s.sch.pages.contains p

/-- The tail page of a flow has room and is not being refilled (R190). -/
def tailRoom (s : State) (f : Nat) : Bool :=
  match (s.flow f).spill.getLast? with
  | some p => decide (p.used < 64) && !(s.sch.refilling == some f && (s.flow f).spill.length == 1)
  | none => false

/-- An item can be written to the spill part now. -/
def spillRoom (s : State) (f : Nat) : Bool := tailRoom s f || (freePage s).isSome

/-- The spill part is empty, with nothing waiting behind it. -/
def spillEmpty (f : Flow) : Bool := f.spill.isEmpty && f.tail.isEmpty

/-- An item written to the tail of the spill part, taking a new page where the tail page is full. -/
def spillWrite (s : State) (f : Nat) (i : Item) : State :=
  let s := if tailRoom s f then s
    else match freePage s with
    | some p => spillNotify (({ s with sch.pages := s.sch.pages ++ [p] } : State).modFlow f fun x =>
        { x with spill := x.spill ++ [{ page := p, used := 0 }] })
    | none => s
  match (s.flow f).spill.getLast?, spillRegion s with
  | some p, some r =>
    let s := ddrStore s .sched (r.base + 4096 * p.page + 64 * p.used) (itemBytes i)
    (s.modFlow f fun x => { x with spill := x.spill.dropLast ++ [{ p with used := p.used + 1 }] }).modCnt fun c =>
      { c with spill := c.spill + 1 }
  | _, _ => s

/-! ### The dispatch head (R193, R194) -/

/-- The oldest returned item, which is the head before everything else (R199). -/
def backHead (f : Flow) : Option OutItem := f.out.find? fun o => o.back

/-- A returned item that heads its flow keeps the patience time it has gained (R199), whatever heads the flow next. -/
def keepPatience (f : Flow) (cycle : Nat) : Flow :=
  match backHead f with
  | some b => { f with out := f.out.map fun o => if o.id == b.id then { o with patience := cycle - f.headAt } else o }
  | none => f

/-- Patience counts from now for a new head; a returned item keeps what it has (R194, R202). -/
def newHead (f : Flow) (cycle : Nat) : Flow :=
  { f with headAt := match backHead f with | some o => cycle - o.patience | none => cycle }

/-- An item at the end of the pool part. -/
def poolAppend (s : State) (f : Nat) (i : Item) : State :=
  s.modFlow f fun x =>
    let y := { x with pool := x.pool ++ [i] }
    if x.pool.isEmpty && (backHead x).isNone then newHead y s.sch.cycle else y

/-- Items that wait at the tail move on: into the pool part once the spill part is empty, else into a page that is free
(R189). -/
def settleTail : Nat → Nat → State → State
  | 0, _, s => s
  | k + 1, f, s =>
    let x := s.flow f
    match x.tail with
    | [] => s
    | i :: r =>
      if x.spill.isEmpty then settleTail k f (poolAppend (s.modFlow f fun x => { x with tail := r }) f i)
      else if spillRoom s f then
        settleTail k f (traceItem (poolSub (spillWrite (s.modFlow f fun x => { x with tail := r }) f i) 1) 5 1023 i false)
      else s

def settleTails (s : State) : State :=
  s.sch.flows.foldl (fun s e => settleTail e.2.tail.length e.1 s) s

/-- A spill page freed. -/
def freeSpillPage (s : State) (p : Nat) : State := spillNotify { s with sch.pages := s.sch.pages.erase p }

/-! ### Admission from a source (R179, R181, R188) -/

/-- A source of items. -/
inductive ItemSrc where
  | ring (p : Fin 2) (n : Fin 4) | mailbox (p : Fin 2) | port (n : Nat)
  deriving DecidableEq, Repr

/-- `ORIGIN_KIND` and `ORIGIN_IDX` (Table 7-5). -/
def originOf : ItemSrc → Nat
  | .ring p n => p.val * 4096 + n.val
  | .mailbox p => p.val * 4096 + 4
  | .port n => 2 * 4096 + n

/-- `EXEC` of a source (Table 8-5). -/
def srcExec : ItemSrc → Nat
  | .ring p n => 768 + 4 * p.val + n.val
  | .mailbox p => 776 + p.val
  | .port n => 256 + n

/-- The sequence number an item takes at its admission. -/
def nextSeq (f : Flow) (i : Item) : Nat :=
  if f.keep then itSeq i else if f.fresh then f.last.toNat else (f.last + 1).toNat

/-- R181: the source's number went backwards. -/
def seqBack (f : Flow) (i : Item) : Bool := f.keep && decide (2 ^ 31 ≤ (BitVec.ofNat 32 (itSeq i) - f.last).toNat)

/-- The item as admitted (R179). -/
def stampItem (f : Flow) (src : ItemSrc) (cls : Nat) (i : Item) : Item :=
  let i := setFaulted (setFld i 128 1 cls) false
  let i := setFld i 131 1 (b2n (seqBack f i))
  setSeq (setFld i 144 16 (originOf src)) (nextSeq f i)

/-- The flow and the counters after an admission. -/
def countAdmit (s : State) (f : Nat) (i : Item) (cls : Nat) : State :=
  let back := seqBack (s.flow f) i
  let seq := BitVec.ofNat 32 (nextSeq (s.flow f) i)
  (s.modFlow f fun x => { x with last := seq, fresh := false, order := x.order || back }).modCnt fun c =>
    { c with enq := c.enq + 1, order := if back then c.order + 1 else c.order,
             admH := if cls = 1 then c.admH + 1 else c.admH, admD := if cls = 1 then c.admD else c.admD + 1 }

/-- What admission does with an item (R188). -/
inductive Admit where
  | pool | spill | hold (noPage : Bool)
  deriving DecidableEq, Repr

def admitHow (s : State) (f cls : Nat) : Admit :=
  let x := s.flow f
  if cls = 1 then
    if s.sch.used < s.sch.params.hLimit && spillEmpty x then .pool else .hold false
  else if s.sch.used < s.sch.params.spillHigh && spillEmpty x then .pool
  else if x.tail.isEmpty && spillRoom s f then .spill else .hold true

/-- An item admitted, unless it is held back. -/
def enterItem (s : State) (src : ItemSrc) (cls : Nat) (i : Item) : State × Bool :=
  let f := itFlow i
  let it := stampItem (s.flow f) src cls i
  match admitHow s f cls with
  | .hold _ => (s, false)
  | .pool => (traceItem (poolAppend (poolAdd (countAdmit s f i cls) 1) f it) 1 (srcExec src) it false, true)
  | .spill =>
    let s := traceItem (spillWrite (countAdmit s f i cls) f it) 1 (srcExec src) it false
    (traceItem s 5 (srcExec src) it false, true)

/-- A hold on a source begins (R188). -/
def holdBegins (s : State) (src : ItemSrc) (cls : Nat) (i : Item) : State :=
  let x := s.flow (itFlow i)
  let flag := match admitHow s (itFlow i) cls with | .hold b => b | _ => false
  let s := s.modCnt fun c => { c with bp := c.bp + 1 }
  traceEvent s 9 (srcExec src) (itOp i) (itFlow i) (nextSeq x i) flag

/-- Re-entry under R189: the item holds a pool entry already. -/
def reenter (s : State) (f : Nat) (i : Item) : State :=
  let x := s.flow f
  if spillEmpty x then poolAppend s f i
  else if x.tail.isEmpty && spillRoom s f then traceItem (poolSub (spillWrite s f i) 1) 5 1023 i false
  else s.modFlow f fun x => { x with tail := x.tail ++ [i] }

/-! ### Tick domains and cooling (R208 to R217) -/

/-- The tick value of a domain. -/
def tickValue (s : State) (d : Nat) : Int :=
  if d = 0 then ((s.dev.yard / (8 * s.cool.period) : Nat) : Int)
  else if d ≤ 8 then (vget ({} : Encoder) s.trig.enc (d - 1)).pos.toInt
  else
    let x := vget ({} : Domain) s.cool.domains d
    let g := vget ({} : Gen) s.trig.gen x.gen
    match x.src with
    | 1 => (g.lineCnt.toInt)
    | 2 => sInt 64 (g.wraps.toNat * 2 ^ 32 + g.lastSeq.toNat)
    | 3 => sInt 64 (vget 0 s.cool.ticks x.tick)
    | _ => 0

/-- Entries in use (R216, R227). -/
def coolLevel (s : State) : Nat := s.cool.entries.length + s.cool.dueQ.length

/-- The base of a due value (R211, R212). -/
def coolBase (s : State) (p : Profile) (i : Item) : Int :=
  let v := tickValue s p.domain
  match p.base with
  | 1 => sInt 64 (itPos i)
  | 2 => v - 2 ^ 31 + (((itSeq i : Int) - (v - 2 ^ 31)) % 2 ^ 32)
  | _ => v

def coolDue (s : State) (p : Profile) (i : Item) : Int := min (2 ^ 63 - 1) (coolBase s p i + p.delay)

/-- Insertion by due value, equal values in the order of insertion. -/
def coolInsertSorted (e : CoolEntry) : List CoolEntry → List CoolEntry
  | [] => [e]
  | x :: l => if e.due < x.due then e :: x :: l else x :: coolInsertSorted e l

/-- The entries of a domain that its present tick value makes due join those that wait their turn (R214, R215). -/
def evalDomain (s : State) (d : Nat) : State :=
  let v := tickValue s d
  let due := s.cool.entries.filter fun e => e.domain == d && decide (e.due ≤ v)
  if due.isEmpty then s
  else { s with cool.entries := s.cool.entries.filter fun e => !(e.domain == d && decide (e.due ≤ v)),
                cool.dueQ := s.cool.dueQ ++ due.foldl (fun l e => coolInsertSorted e l) [] }

/-- Every domain evaluated, in ascending order. -/
def evalDomains (s : State) : State := (List.range 16).foldl evalDomain s

/-- The states in which entries fall due (R218). -/
def coolState : DevState → Bool
  | .halter | .pouring | .service | .doze | .shuttingDown => true
  | _ => false

/-- A tick value has changed: what it makes due joins those that wait, and stays due whatever the tick value does
afterwards (R214, R215). -/
def tickDue (s : State) : State := if coolState s.dev.state && !s.cool.entries.isEmpty then evalDomains s else s

/-- A PASS item enters the cooling list of profile `p`; none when no entry is free (R217). A scheduler cycle makes one
insertion: a second one is made in the next cycle (R216). -/
def coolInsert (s : State) (p : Nat) (i : Item) : Option State :=
  if 262144 ≤ coolLevel s then none
  else
    let pr := vget ({} : Profile) s.cool.profiles p
    let s := if s.trc.cycleAt = s.cool.inserted then s else traceNext s
    let e : CoolEntry := { domain := pr.domain, profile := p, due := coolDue s pr i, order := s.cool.inserted, item := i }
    let s := { s with cool.entries := s.cool.entries ++ [e], cool.inserted := s.cool.inserted + 1,
                      cool.cntInsert := s.cool.cntInsert + 1 }
    let s := { s with cool.high := max s.cool.high (coolLevel s) }
    some (evalDomain (traceItem s 7 (1007 + p) i false) pr.domain)

/-! ### Delivery (R201) -/

/-- A port takes a record on `DEL_DATA` now: its paddock is LIVE, takes deliveries, and each of its eight crossing lanes
of 16 entries has room for eight tokens (R445). -/
def delReady (s : State) (n : Nat) : Bool :=
  let d := pdkAt s (n / 8)
  d.state == .live && d.deliver && (vget ({} : OpPort) s.sch.ports n).del.toList.all fun l => decide (l.length ≤ 8)

/-- A record on `DEL_DATA`: byte 8i + k is token i of lane k (R184). -/
def delRecord (s : State) (n : Nat) (i : Item) : State :=
  let l := itemBytes i
  let s := { s with sch.ports := vmodN s.sch.ports n fun x =>
    { x with delivered := x.delivered + 1,
             del := vmapI x.del fun k q => q ++ (List.range 8).map fun t => byteAt l (8 * t + k) } }
  (List.range 8).foldl (fun s k => settleShown (delPresent s n k)) s

/-- A result delivered to a collector, or false where it cannot accept it. -/
def deliver (s : State) (coll : Nat) (i : Item) : State × Bool :=
  match s.sch.graph.collectors[coll]? with
  | none => (s, false)
  | some c =>
    match c.kind with
    | 1 =>
      let (t, ok) := ringResult s (Fin.ofNat 2 c.hport) (Fin.ofNat 16 c.ring) i
      (if ok then t.modCnt fun c => { c with delHost := c.delHost + 1 } else t, ok)
    | 2 => if delReady s c.index then ((delRecord s c.index i).modCnt fun c => { c with delPort := c.delPort + 1 }, true)
           else (s, false)
    | 3 =>
      let (t, ok) := resultPut s c.index i
      (if ok then t.modCnt fun c => { c with delDdr := c.delDdr + 1 } else t, ok)
    | _ => (s, false)

/-! ### The reorder stage (R197, R199, R203) -/

/-- A flow holds an item somewhere. -/
def flowHolds (s : State) (f : Nat) : Bool :=
  let x := s.flow f
  !x.pool.isEmpty || !x.spill.isEmpty || !x.tail.isEmpty || !x.out.isEmpty ||
  (s.cool.entries ++ s.cool.dueQ).any fun e => itFlow e.item == f

/-- A DRAINING flow that holds nothing becomes CLOSED (R203). -/
def closeIfEmpty (s : State) (f : Nat) : State :=
  if (s.flow f).state == .draining && !flowHolds s f then s.modFlow f fun _ => {} else s

/-- The head of the reorder stage changed. -/
def modFirstOut (s : State) (f : Nat) (g : OutItem → OutItem) : State :=
  s.modFlow f fun x => { x with out := match x.out with | [] => [] | o :: r => g o :: r }

/-- The release of a flow is held at its present result. -/
def holdRelease (s : State) (f : Nat) : State := s.modFlow f fun x => { x with held := true }

/-- The result at the head of the reorder stage leaves it. -/
def popResult (s : State) (f : Nat) : State :=
  (modFirstOut s f fun o => { o with results := o.results.drop 1 }).modFlow f fun x => { x with held := false }

/-- A PASS result enters: its cooling list, or its flow's queue; none when it is held (R197, R217). -/
def enterPass (s : State) (f : Nat) (o : OutItem) (e : Nat) (i : Item) : Option State :=
  let x := s.flow f
  if x.state == .draining && x.discard then some (poolSub (schDiscard s 1) 1)
  else
    let p := vget 0 (opRec s (itOp o.item)).cool e
    let s1 := s.modCnt fun c => { c with pass := c.pass + 1 }
    if p = 0 then some (reenter (traceItem s1 1 (execCode o.exec) i true) f i) else coolInsert s1 p i

/-- The last step of a release: entries freed and counted. The reorder stage releases one item a cycle (R201). -/
def freeOut (s : State) (f : Nat) (o : OutItem) : State :=
  let full := decide (256 ≤ (s.flow f).out.length)
  let s := s.modFlow f fun x =>
    let y := { x with out := x.out.drop 1, held := false }
    if full && (backHead y).isNone then newHead y s.sch.cycle else y
  let s := poolSub { s with sch.reserved := s.sch.reserved - o.reserved } 1
  let s := s.modCnt fun c => { c with rel := c.rel + 1, faulted := if o.faulted then c.faulted + 1 else c.faulted }
  traceNext (closeIfEmpty (traceItem s 4 (execCode o.exec) o.item o.faulted) f)

/-- One step of a flow's release; none when there is nothing to release now. -/
def releaseOne (s : State) (f : Nat) : Option State :=
  let x := s.flow f
  match x.out with
  | [] => none
  | o :: _ =>
    if !o.done then none
    else match o.results with
    | .emit i :: _ =>
      let (t, ok) := deliver s (if o.direct then (opRec s (itOp o.item)).target else x.coll) i
      if !ok then none
      else
        let t := popResult t f
        let t := t.modCnt fun c => { c with emit := c.emit + 1 }
        some (if o.direct then t else poolSub t 1)
    | .pass e i :: _ => (enterPass s f o e i).map fun t => popResult t f
    | [] =>
      if o.faulted then
        let (t, ok) := deliver s x.coll (setFaulted o.item true)
        if ok then some (freeOut t f o) else none
      else some (freeOut s f o)

/-- The head has completed and its release can go no further now: it is held. -/
def releaseHeld (s : State) (f : Nat) : State :=
  let x := s.flow f
  match x.out with
  | [] => s
  | o :: _ =>
    if !o.done || x.held then s
    else
      let s := holdRelease s f
      match o.results with
      | .pass _ _ :: _ => { s with cool.cntWait := s.cool.cntWait + 1 }
      | _ => s

/-- Release goes on until the head has not completed or is held. -/
def releaseLoop : Nat → Nat → State → State
  | 0, _, s => s
  | k + 1, f, s =>
    match releaseOne s f with
    | some t => releaseLoop k f t
    | none => releaseHeld s f

/-- Steps that a flow's outstanding items can take at most. -/
def releaseFuel (x : Flow) : Nat := x.out.foldl (fun n o => n + o.results.length + 1) 1

/-- Release of a flow; none outside SERVICE (R204). -/
def releaseFlow (s : State) (f : Nat) : State :=
  if s.dev.state == .service then traceCycle (releaseLoop (releaseFuel (s.flow f)) f) s else s

/-! ### Results, completions and returns (R196, R199, R202) -/

/-- An outstanding item changed. -/
def modOut (s : State) (f oid : Nat) (g : OutItem → OutItem) : State :=
  s.modFlow f fun x => { x with out := x.out.map fun o => if o.id == oid then g o else o }

def findOut (s : State) (f oid : Nat) : Option OutItem := (s.flow f).out.find? fun o => o.id == oid

/-- A result joins its item, in a pool entry of the item's reservation. -/
def addResult (s : State) (f oid : Nat) (r : Result) : State :=
  match findOut s f oid with
  | none => s
  | some _ =>
    poolAdd { (modOut s f oid fun o => { o with results := o.results ++ [r], reserved := o.reserved - 1 }) with
      sch.reserved := s.sch.reserved - 1 } 1

/-- An item completes; its flow is released as far as it goes. -/
def completeItem (s : State) (f oid : Nat) : State :=
  match findOut s f oid with
  | none => s
  | some o =>
    let s := (modOut s f oid fun o => { o with done := true }).modCnt fun c => { c with comp := c.comp + 1 }
    traceCycle (fun s => releaseFlow (traceItem s 3 (execCode o.exec) o.item false) f) s

/-- An item returns from its executor (R199): its results are discarded; a marked item that faults again completes as a
faulted completion, any other becomes its flow's dispatch head. -/
def returnItem (s : State) (f oid : Nat) (charged : Bool) : State :=
  match findOut s f oid with
  | none => s
  | some o =>
    let s := poolSub { s with sch.reserved := s.sch.reserved - o.reserved } o.results.length
    if charged && o.marked then
      let s := modOut s f oid fun o => { o with results := [], reserved := 0, done := true, faulted := true }
      traceCycle (fun s => releaseFlow (traceItem s 3 (execCode o.exec) o.item true) f) s
    else
      let s := s.modCnt fun c => { c with ret := c.ret + 1 }
      let s := modOut (s.modFlow f fun x => keepPatience x s.sch.cycle) f oid fun o =>
        { o with results := [], reserved := 0, marked := o.marked || charged, back := true, exec := none }
      s.modFlow f fun x => newHead x s.sch.cycle

end Sys2Proof.Machine
end

