-- ==== Sys2Proof/Machine/Operands.lean ====
section
/-! DEFINITION. Machine/Operands.lean: the operand forms of a caster's instruction word (Table 6-3) and its registers (R140,
R144, R145); the commands' own operands are read in CmdCore.lean. -/

namespace Sys2Proof.Machine

open Sys2Proof

/-! ### The instruction word (Table 6-3) -/

def wOp (w : BitVec 64) : Nat := fld w 56 8
def wD (w : BitVec 64) : Nat := fld w 51 5
def wA (w : BitVec 64) : Nat := fld w 46 5
def wB (w : BitVec 64) : Nat := fld w 41 5
def wK (w : BitVec 64) : Nat := fld w 38 3
def wAcc (w : BitVec 64) : Nat := fld w 36 2
def wSrc (w : BitVec 64) : Nat := fld w 34 2
def wSg (w : BitVec 64) : Bool := w.getLsbD 33
def wImm (w : BitVec 64) : Nat := fld w 0 32

/-! ### Registers: s0 reads 0, k0 reads all ones, writes to either are discarded (Table 6-1, R145) -/

def sGet (h : Caster) (i : Nat) : BitVec 32 := if i = 0 then 0 else vget 0 h.sreg i
def sSet (h : Caster) (i : Nat) (x : BitVec 32) : Caster := if i = 0 then h else { h with sreg := vmodN h.sreg i fun _ => x }
def kGet (h : Caster) (i : Nat) : BitVec 64 := if i = 0 then BitVec.allOnes 64 else vget 0 h.k i
def kSet (h : Caster) (i : Nat) (x : BitVec 64) : Caster := if i = 0 then h else { h with k := vmodN h.k i fun _ => x }
def vGet (h : Caster) (i : Nat) : BitVec 512 := vget 0 h.v i
def vSet (h : Caster) (i : Nat) (x : BitVec 512) : Caster := { h with v := vmodN h.v i fun _ => x }
def aGet (h : Caster) (i : Nat) : BitVec 2048 := vget 0 h.acc i
def aSet (h : Caster) (i : Nat) (x : BitVec 2048) : Caster := { h with acc := vmodN h.acc i fun _ => x }

/-- Lane `i` of a vector register, and of an accumulator. -/
def lane8 (v : BitVec 512) (i : Nat) : Nat := fld v (8 * i) 8
def lane32 (a : BitVec 2048) (i : Nat) : Nat := fld a (32 * i) 32

/-- 64 lanes of `base` values each, lane 0 least significant. -/
def packLanes (base : Nat) (f : Nat → Nat) : Nat := (List.range 64).foldr (fun i n => f i % base + base * n) 0

/-- Lanes written where the mask is 1, unchanged elsewhere (R145). -/
def vWrite (h : Caster) (d : Nat) (m : BitVec 64) (f : Nat → Nat) : Caster :=
  vSet h d (BitVec.ofNat 512 (packLanes 256 fun i => if m.getLsbD i then f i else lane8 (vGet h d) i))

def aWrite (h : Caster) (d : Nat) (m : BitVec 64) (f : Nat → Nat) : Caster :=
  aSet h d (BitVec.ofNat 2048 (packLanes (2 ^ 32) fun i => if m.getLsbD i then f i else lane32 (aGet h d) i))

/-- A lane as a number, signed when `SG` is set. -/
def laneInt (sg : Bool) (x : Nat) : Int := if sg then sInt 8 x else x
def wordInt (sg : Bool) (x : Nat) : Int := if sg then sInt 32 x else x

/-- sat8: -128 to 127 when signed, else 0 to 255. -/
def sat8 (sg : Bool) (x : Int) : Nat := uNat 8 (if sg then max (-128) (min 127 x) else max 0 (min 255 x))

/-- The second operands that `SRC` selects (R145). -/
def opB8 (h : Caster) (w : BitVec 64) (i : Nat) : Nat :=
  match wSrc w with
  | 0 => lane8 (vGet h (wB w)) i
  | 1 => (sGet h (wB w)).toNat % 256
  | _ => wImm w % 256

def opB32 (h : Caster) (w : BitVec 64) : BitVec 32 :=
  match wSrc w with
  | 2 => BitVec.ofNat 32 (wImm w)
  | _ => sGet h (wB w)

end Sys2Proof.Machine
end

