-- ==== Sys2Proof/Machine/CasterOps.lean ====
section
/-! DEFINITION. Machine/CasterOps.lean: a caster's local memory with the checks of R142, R143 and R147, how an instruction
issues, waits and faults (R146, R162). -/

namespace Sys2Proof.Machine

open Sys2Proof

/-! ### Issue -/

/-- The word at the pc; a word that no kernel load wrote reads 0, which is `NOP` (log entry 26). -/
def casterWord (h : Caster) : BitVec 64 := tget 0 h.store h.pc.toNat

/-- The caster clocks run: not in SHUTTING_DOWN, where the casters are idle, nor where they have no power (Table 15-5), nor in
DOZE, where each stops where it stands (R171). -/
def casterRuns (s : State) (c : Fin 256) : Bool :=
  powered s && !s.cast[c].dozeStopped

/-- The caster may issue now. -/
def mayIssue (s : State) (c : Fin 256) : Bool :=
  let h := s.cast[c]
  casterRuns s c && (h.mode == .running || h.mode == .inTake || h.mode == .waiting) && !h.clockStopped

/-- A caster fault is taken (R162): issue stops, the kind, the pc and a TRAP's code are recorded, event 10 is raised. -/
def takeFault (s : State) (c : Fin 256) (kind code : Nat) : State :=
  raiseEvent (s.modCast c fun h =>
    { h with mode := .faulted, clockStopped := false, fault := BitVec.ofNat 8 kind, faultPc := h.pc.zeroExtend 16,
             faults := satAdd h.faults 1, trapCode := if kind = 5 then BitVec.ofNat 16 code else h.trapCode }) 10

/-- The instruction of opcode `op` issues when it stands at the pc: its word is fetched through the error code (R143), and
`f` carries it out. -/
def issue (op : Nat) (c : Fin 256) (s : State) (f : BitVec 64 → State → State) : Host.Outcome State Fault Refusal :=
  let h := s.cast[c]
  .next (if mayIssue s c && wOp (casterWord h) == op then
    match tget ([] : List Nat) h.storeBad h.pc.toNat with
    | [] => f (casterWord h) s
    | [_] => f (casterWord h) (s.modCast c fun h => { h with eccCorr := satAdd h.eccCorr 1 })
    | _ => takeFault s c 6 0
  else s)

/-- The instruction completes: `g` is its effect on the registers, and it costs `n` cycles of `BUSY`. -/
def complete1 (s : State) (c : Fin 256) (n : Nat) (g : Caster → Caster) : State :=
  s.modCast c fun h => let x := g h; { x with pc := x.pc + 1, mode := .running, cycles := x.cycles + n }

/-- The instruction waits at issue. -/
def waitHere (s : State) (c : Fin 256) (m : CasterMode) : State := s.modCast c fun h => { h with mode := m }

/-! ### Local memory (R141 to R143, R147) -/

/-- The slot that holds the current item. -/
def curSlot (h : Caster) : Option (Fin 2) :=
  if h.slots[0].state = .current then some 0 else if h.slots[1].state = .current then some 1 else none

/-- Window base of a slot (Table 6-2). -/
def winBase (n : Fin 2) : Nat := 0x1C000 + 0x2000 * n.val

/-- `n` bytes at `x` leave the areas that an instruction may reach; a DMA reaches no window. -/
def ladleBreach (h : Caster) (dma : Bool) (x n : Nat) : Bool :=
  decide (0x1C000 < x + n) &&
  match curSlot h with
  | some i => dma || !(decide (winBase i ≤ max x 0x1C000) && decide (x + n ≤ winBase i + 0x2000))
  | none => true

/-- The fault of an access: `n` bytes at each of `xs`, `base` to be a multiple of `align`; 0 for none. One kind is
recorded, in the order ADDR, LADLE, ALIGN (R162). -/
def accessFault (h : Caster) (dma : Bool) (xs : List Nat) (n base align : Nat) : Nat :=
  if xs.any fun x => decide (0x20000 < x + n) then 1
  else if xs.any fun x => ladleBreach h dma x n then 3
  else if base % align ≠ 0 then 2 else 0

/-- sA + IMM, wrapping at 32 bits (R142). -/
def memAddr (h : Caster) (w : BitVec 64) : Nat := ((sGet h (wA w)).toNat + wImm w) % 2 ^ 32

/-- Words touched by `n` bytes at `a`. -/
def wordsOf (a n : Nat) : List Nat := (List.range ((a + n + 7) / 8 - a / 8)).map fun i => a / 8 + i

def wordFlips (h : Caster) (wd : Nat) : List Nat := tget [] h.memBad wd

/-- A word of the list is uncorrectable; how many are corrected. -/
def anyBad (h : Caster) (l : List Nat) : Bool := l.any fun wd => decide (2 ≤ (wordFlips h wd).length)
def anyFixed (h : Caster) (l : List Nat) : Nat := (l.filter fun wd => (wordFlips h wd).length == 1).length

def countFixed (h : Caster) (n : Nat) : Caster := { h with eccCorr := satAdd h.eccCorr n }

/-- The bytes of one word written where enabled; a word covered whole loses its error, one covered in part is merged with
what stands there, corrected (R143). -/
def wordStore (h : Caster) (wd : Nat) (l : List (Option Byte)) : Caster :=
  if l.all Option.isNone then h
  else
    let fixed := !(l.length == 8 && l.all Option.isSome) && (wordFlips h wd).length == 1
    { (if fixed then countFixed h 1 else h) with
      mem := writeEnabled (fun _ => 0) h.mem (8 * wd) l, memBad := tput [] h.memBad wd [] }

def wordStores (h : Caster) (wd : Nat) : Nat → List (Option Byte) → Caster
  | 0, _ => h
  | k + 1, l => wordStores (wordStore h wd (l.take 8)) (wd + 1) k (l.drop 8)

/-- A chunk of a store covers its word in part, and the word is uncorrectable. -/
def mergeBad (h : Caster) (wd : Nat) : Nat → List (Option Byte) → Bool
  | 0, _ => false
  | k + 1, l =>
    let x := l.take 8
    (x.any Option.isSome && !(x.length == 8 && x.all Option.isSome) && decide (2 ≤ (wordFlips h wd).length))
      || mergeBad h (wd + 1) k (l.drop 8)

/-- Bytes stored at `a` where enabled; none when a merge finds an uncorrectable word. -/
def localStore (h : Caster) (a : Nat) (l : List (Option Byte)) : Option Caster :=
  let x := List.replicate (a % 8) none ++ l
  let n := (x.length + 7) / 8
  if mergeBad h (a / 8) n x then none else some (wordStores h (a / 8) n x)

/-- Whole words stored, as by a DMA block or a window pull. -/
def localFill (h : Caster) (a : Nat) (l : List Byte) : Caster :=
  { h with mem := writeBytes h.mem a l,
           memBad := tdrop (fun wd => decide (a / 8 ≤ wd) && decide (8 * wd + 8 ≤ a + l.length)) h.memBad }

/-- A load of `n` bytes: `g` puts them into registers. A corrected read counts and leaves the stored word as it is, so each
access counts again and a second upset makes the word uncorrectable: the model's choice (R143, log entry 108). -/
def loadOp (op n cyc : Nat) (c : Fin 256) (s : State) (g : Caster → BitVec 64 → List Byte → Caster) :
    Host.Outcome State Fault Refusal :=
  issue op c s fun w s =>
    let h := s.cast[c]
    let a := memAddr h w
    match accessFault h false [a] n a n with
    | 0 =>
      if anyBad h (wordsOf a n) then takeFault s c 6 0
      else complete1 s c cyc fun h => g (countFixed h (anyFixed h (wordsOf a n))) w (readBytes h.mem a n)
    | k => takeFault s c k 0

/-- A store of `n` bytes, given with their enables. -/
def storeOp (op n cyc : Nat) (c : Fin 256) (s : State) (g : Caster → BitVec 64 → List (Option Byte)) :
    Host.Outcome State Fault Refusal :=
  issue op c s fun w s =>
    let h := s.cast[c]
    let a := memAddr h w
    match accessFault h false [a] n a n with
    | 0 =>
      match localStore h a (g h w) with
      | none => takeFault s c 6 0
      | some x => complete1 s c cyc fun _ => x
    | k => takeFault s c k 0

/-! ### Instruction forms -/

/-- sD = g(sA, b32). -/
def scalarOp (op : Nat) (c : Fin 256) (s : State) (g : Bool → BitVec 32 → BitVec 32 → BitVec 32) :
    Host.Outcome State Fault Refusal :=
  issue op c s fun w s => complete1 s c 1 fun h => sSet h (wD w) (g (wSg w) (sGet h (wA w)) (opB32 h w))

/-- pc = IMM[10:0] when the condition holds: three cycles when taken (R146). -/
def branchOp (op : Nat) (c : Fin 256) (s : State) (g : Bool → BitVec 32 → BitVec 32 → Bool) :
    Host.Outcome State Fault Refusal :=
  issue op c s fun w s =>
    let h := s.cast[c]
    if g (wSg w) (sGet h (wA w)) (sGet h (wB w)) then
      s.modCast c fun h => { h with pc := BitVec.ofNat 11 (wImm w), mode := .running, cycles := h.cycles + 3 }
    else complete1 s c 1 id

/-- vD lane = g(vA lane, b8 lane) where kK is 1; the lanes are given as they stand. -/
def vectorOp (op : Nat) (c : Fin 256) (s : State) (g : Bool → Nat → Nat → Nat) : Host.Outcome State Fault Refusal :=
  issue op c s fun w s => complete1 s c 1 fun h =>
    vWrite h (wD w) (kGet h (wK w)) fun i => g (wSg w) (lane8 (vGet h (wA w)) i) (opB8 h w i)

/-- kD bit = g(vA lane, b8 lane) AND kK bit. -/
def compareOp (op : Nat) (c : Fin 256) (s : State) (g : Bool → Nat → Nat → Bool) : Host.Outcome State Fault Refusal :=
  issue op c s fun w s => complete1 s c 1 fun h =>
    kSet h (wD w) (BitVec.ofNat 64 (packLanes 2 fun i =>
      b2n ((kGet h (wK w)).getLsbD i && g (wSg w) (lane8 (vGet h (wA w)) i) (opB8 h w i))))

/-- An instruction on registers alone. -/
def registerOp (op : Nat) (c : Fin 256) (s : State) (g : BitVec 64 → Caster → Caster) : Host.Outcome State Fault Refusal :=
  issue op c s fun w s => complete1 s c 1 fun h => g w h

/-- Lane numbers that a mask sets. -/
def setLanes (m : BitVec 64) : List Nat := (List.range 64).filter fun i => m.getLsbD i

/-! ### Clearing and waiting -/

/-- Registers, pc and tags as after power-on reset (R140, R150). -/
def clearRegs (h : Caster) : Caster :=
  { h with v := Vector.replicate 32 0, sreg := Vector.replicate 16 0, acc := Vector.replicate 4 0,
           k := Vector.replicate 8 0, pc := 0, tags := Vector.replicate 8 {} }

/-- Local memory and instruction store cleared. -/
def clearMems (h : Caster) : Caster := { h with mem := [], memBad := [], store := [], storeBad := [] }

/-- The oldest placed item that is not yet current (R157). -/
def oldestSlot (h : Caster) : Option (Fin 2) :=
  let w (i : Fin 2) : Bool := h.slots[i].state == .filling || h.slots[i].state == .ready
  if w 0 && (!w 1 || decide (h.slots[0].order < h.slots[1].order)) then some 0 else if w 1 then some 1 else none

def anyBusy (h : Caster) : Bool := h.tags.toList.any fun t => t.busy.isSome

/-- A completion waits in the output half. -/
def completionWaits (h : Caster) : Bool := h.outHalf.any fun e => e.kind == .completion

/-- Results that wait in the output half. -/
def resultsWaiting (h : Caster) : Nat := (h.outHalf.filter fun e => e.kind != .completion).length

/-- The wait at the pc still stands: `TAKE`, `DWAIT` or `DONE` (R139). -/
def waitStands (h : Caster) : Bool :=
  let w := casterWord h
  if wOp w = 0x80 then
    match oldestSlot h with
    | some i => h.slots[i].state != .ready
    | none => true
  else if wOp w = 0x72 then (bitsOf 8 (wImm w % 256)).any fun t => (vget ({} : Tag) h.tags t).busy.isSome
  else if wOp w = 0x83 then anyBusy h || completionWaits h
  else false

/-- A stopped clock restarts at the event that ends the wait (R139). -/
def wakeCaster (s : State) (c : Fin 256) : State :=
  s.modCast c fun h => if h.clockStopped && !waitStands h then { h with clockStopped := false } else h

/-- The items of a caster's ladle return (R163, R166, R167); the results of the current item still in the output half are
discarded. -/
def returnLadle (s : State) (c : Fin 256) (charged : Bool) : State :=
  let h := s.cast[c]
  let cur := curSlot h
  let s := s.modCast c fun h =>
    { h with slots := vmapI h.slots fun _ x => { x with state := .empty },
             outHalf := match cur with
               | some i => h.outHalf.filter fun e => e.oid != h.slots[i].oid
               | none => h.outHalf }
  let s := if s.cast[c].outHalf.isEmpty then { s with sch.waited := tdrop (fun x => x == c.val) s.sch.waited } else s
  let ret (s : State) (i : Fin 2) : State :=
    if h.slots[i].state == .empty then s
    else returnItem s (itFlow h.slots[i].item) h.slots[i].oid (charged && cur == some i)
  match cur with
  | some 1 => ret (ret s 1) 0
  | _ => ret (ret s 0) 1

end Sys2Proof.Machine
end

