-- ==== Sys2Proof/Machine/CasterIsa.lean ====
section
/-! DEFINITION. Machine/CasterIsa.lean: the caster's instructions, each as Table 6-5 states (R148), and the work-item
instructions (R157 to R161). -/

namespace Sys2Proof.Machine

open Sys2Proof

/-! ### No-op and scalar arithmetic -/

def execNop (c : Fin 256) (s : State) : Host.Outcome State Fault Refusal := issue 0x00 c s fun _ s => complete1 s c 1 id

def execSli (c : Fin 256) (s : State) : Host.Outcome State Fault Refusal :=
  registerOp 0x01 c s fun w h => sSet h (wD w) (BitVec.ofNat 32 (wImm w))

def execSadd (c : Fin 256) (s : State) : Host.Outcome State Fault Refusal := scalarOp 0x02 c s fun _ a b => a + b
def execSsub (c : Fin 256) (s : State) : Host.Outcome State Fault Refusal := scalarOp 0x03 c s fun _ a b => a - b
def execSmul (c : Fin 256) (s : State) : Host.Outcome State Fault Refusal := scalarOp 0x04 c s fun _ a b => a * b
def execSand (c : Fin 256) (s : State) : Host.Outcome State Fault Refusal := scalarOp 0x05 c s fun _ a b => a &&& b
def execSor (c : Fin 256) (s : State) : Host.Outcome State Fault Refusal := scalarOp 0x06 c s fun _ a b => a ||| b
def execSxor (c : Fin 256) (s : State) : Host.Outcome State Fault Refusal := scalarOp 0x07 c s fun _ a b => a ^^^ b

/-- sD = sA << (b32 mod 32). -/
def execSshl (c : Fin 256) (s : State) : Host.Outcome State Fault Refusal :=
  scalarOp 0x08 c s fun _ a b => a <<< (b.toNat % 32)

/-- sD = sA >> (b32 mod 32), arithmetic when `SG`. -/
def execSshr (c : Fin 256) (s : State) : Host.Outcome State Fault Refusal :=
  scalarOp 0x09 c s fun sg a b => if sg then a.sshiftRight (b.toNat % 32) else a >>> (b.toNat % 32)

/-! ### Branches -/

def execBeq (c : Fin 256) (s : State) : Host.Outcome State Fault Refusal := branchOp 0x10 c s fun _ a b => a == b
def execBne (c : Fin 256) (s : State) : Host.Outcome State Fault Refusal := branchOp 0x11 c s fun _ a b => a != b
def execBlt (c : Fin 256) (s : State) : Host.Outcome State Fault Refusal :=
  branchOp 0x12 c s fun sg a b => if sg then a.slt b else a.ult b
def execBge (c : Fin 256) (s : State) : Host.Outcome State Fault Refusal :=
  branchOp 0x13 c s fun sg a b => if sg then !a.slt b else !a.ult b
def execJmp (c : Fin 256) (s : State) : Host.Outcome State Fault Refusal := branchOp 0x14 c s fun _ _ _ => true

/-! ### Loads and stores -/

/-- vD = 64 bytes at sA + IMM, lanes of kK. -/
def execVld (c : Fin 256) (s : State) : Host.Outcome State Fault Refusal :=
  loadOp 0x20 64 1 c s fun h w l => vWrite h (wD w) (kGet h (wK w)) fun i => (byteAt l i).toNat

/-- Lanes of vD set in kK to 64 bytes at sA + IMM. -/
def execVst (c : Fin 256) (s : State) : Host.Outcome State Fault Refusal :=
  storeOp 0x21 64 1 c s fun h w => (List.range 64).map fun i =>
    if (kGet h (wK w)).getLsbD i then some (BitVec.ofNat 8 (lane8 (vGet h (wD w)) i)) else none

def execSld (c : Fin 256) (s : State) : Host.Outcome State Fault Refusal :=
  loadOp 0x22 4 1 c s fun h w l => sSet h (wD w) (BitVec.ofNat 32 (leNat l))

def execSst (c : Fin 256) (s : State) : Host.Outcome State Fault Refusal :=
  storeOp 0x23 4 1 c s fun h w => (leBytes 4 (sGet h (wD w)).toNat).map some

/-- aACC = 256 bytes at sA + IMM, lanes of kK. -/
def execAld (c : Fin 256) (s : State) : Host.Outcome State Fault Refusal :=
  loadOp 0x24 256 4 c s fun h w l => aWrite h (wAcc w) (kGet h (wK w)) fun i => leAt l (4 * i) 4

def execAst (c : Fin 256) (s : State) : Host.Outcome State Fault Refusal :=
  storeOp 0x25 256 4 c s fun h w => (leBytes 256 (aGet h (wAcc w)).toNat).map some

/-! ### Vector arithmetic and logic -/

def execVadd (c : Fin 256) (s : State) : Host.Outcome State Fault Refusal := vectorOp 0x30 c s fun _ a b => (a + b) % 256
def execVsub (c : Fin 256) (s : State) : Host.Outcome State Fault Refusal := vectorOp 0x31 c s fun _ a b => (a + 256 - b) % 256
def execVaddsat (c : Fin 256) (s : State) : Host.Outcome State Fault Refusal :=
  vectorOp 0x32 c s fun sg a b => sat8 sg (laneInt sg a + laneInt sg b)
def execVsubsat (c : Fin 256) (s : State) : Host.Outcome State Fault Refusal :=
  vectorOp 0x33 c s fun sg a b => sat8 sg (laneInt sg a - laneInt sg b)
def execVmin (c : Fin 256) (s : State) : Host.Outcome State Fault Refusal :=
  vectorOp 0x34 c s fun sg a b => if laneInt sg a ≤ laneInt sg b then a else b
def execVmax (c : Fin 256) (s : State) : Host.Outcome State Fault Refusal :=
  vectorOp 0x35 c s fun sg a b => if laneInt sg a ≤ laneInt sg b then b else a
def execVabsd (c : Fin 256) (s : State) : Host.Outcome State Fault Refusal :=
  vectorOp 0x36 c s fun sg a b => (laneInt sg a - laneInt sg b).natAbs
def execVand (c : Fin 256) (s : State) : Host.Outcome State Fault Refusal := vectorOp 0x37 c s fun _ a b => a &&& b
def execVor (c : Fin 256) (s : State) : Host.Outcome State Fault Refusal := vectorOp 0x38 c s fun _ a b => a ||| b
def execVxor (c : Fin 256) (s : State) : Host.Outcome State Fault Refusal := vectorOp 0x39 c s fun _ a b => a ^^^ b
def execVshl (c : Fin 256) (s : State) : Host.Outcome State Fault Refusal :=
  vectorOp 0x3A c s fun _ a b => a * 2 ^ (b % 8) % 256
def execVshr (c : Fin 256) (s : State) : Host.Outcome State Fault Refusal :=
  vectorOp 0x3B c s fun sg a b => uNat 8 (laneInt sg a / 2 ^ (b % 8))

/-- vD lane = vA lane where kK is 1, else b8 lane; all lanes written. -/
def execVsel (c : Fin 256) (s : State) : Host.Outcome State Fault Refusal :=
  registerOp 0x3C c s fun w h => vWrite h (wD w) (BitVec.allOnes 64) fun i =>
    if (kGet h (wK w)).getLsbD i then lane8 (vGet h (wA w)) i else opB8 h w i

def execVmov (c : Fin 256) (s : State) : Host.Outcome State Fault Refusal := vectorOp 0x3D c s fun _ _ b => b

/-! ### Compares and lane masks -/

def execVceq (c : Fin 256) (s : State) : Host.Outcome State Fault Refusal := compareOp 0x40 c s fun _ a b => a == b
def execVcne (c : Fin 256) (s : State) : Host.Outcome State Fault Refusal := compareOp 0x41 c s fun _ a b => a != b
def execVclt (c : Fin 256) (s : State) : Host.Outcome State Fault Refusal :=
  compareOp 0x42 c s fun sg a b => decide (laneInt sg a < laneInt sg b)
def execVcge (c : Fin 256) (s : State) : Host.Outcome State Fault Refusal :=
  compareOp 0x43 c s fun sg a b => decide (laneInt sg b ≤ laneInt sg a)

def execKand (c : Fin 256) (s : State) : Host.Outcome State Fault Refusal :=
  registerOp 0x46 c s fun w h => kSet h (wD w) (kGet h (wA w) &&& kGet h (wB w))
def execKor (c : Fin 256) (s : State) : Host.Outcome State Fault Refusal :=
  registerOp 0x47 c s fun w h => kSet h (wD w) (kGet h (wA w) ||| kGet h (wB w))
def execKnot (c : Fin 256) (s : State) : Host.Outcome State Fault Refusal :=
  registerOp 0x48 c s fun w h => kSet h (wD w) (~~~ kGet h (wA w))

/-- sD = kA[31:0]; s(D+1) = kA[63:32]. -/
def execKget (c : Fin 256) (s : State) : Host.Outcome State Fault Refusal :=
  registerOp 0x49 c s fun w h =>
    let x := kGet h (wA w)
    sSet (sSet h (wD w) (BitVec.ofNat 32 (fld x 0 32))) (wD w + 1) (BitVec.ofNat 32 (fld x 32 32))

/-- kD = s(A+1) : sA. -/
def execKset (c : Fin 256) (s : State) : Host.Outcome State Fault Refusal :=
  registerOp 0x4A c s fun w h =>
    kSet h (wD w) (BitVec.ofNat 64 ((sGet h (wA w + 1)).toNat * 2 ^ 32 + (sGet h (wA w)).toNat))

def execKcnt (c : Fin 256) (s : State) : Host.Outcome State Fault Refusal :=
  registerOp 0x4B c s fun w h => sSet h (wD w) (BitVec.ofNat 32 (setLanes (kGet h (wA w))).length)

/-! ### Multiply-accumulate -/

def execVmac (c : Fin 256) (s : State) : Host.Outcome State Fault Refusal :=
  registerOp 0x50 c s fun w h => aWrite h (wAcc w) (kGet h (wK w)) fun i =>
    uNat 32 (lane32 (aGet h (wAcc w)) i + laneInt (wSg w) (lane8 (vGet h (wA w)) i) * laneInt (wSg w) (opB8 h w i))

def execVmul (c : Fin 256) (s : State) : Host.Outcome State Fault Refusal :=
  registerOp 0x51 c s fun w h => aWrite h (wAcc w) (kGet h (wK w)) fun i =>
    uNat 32 (laneInt (wSg w) (lane8 (vGet h (wA w)) i) * laneInt (wSg w) (opB8 h w i))

def execAclr (c : Fin 256) (s : State) : Host.Outcome State Fault Refusal :=
  registerOp 0x52 c s fun w h => aWrite h (wAcc w) (kGet h (wK w)) fun _ => 0

/-- vD lane = sat8((aACC lane + r) >> n), n = IMM[4:0], r = 2^(n-1) for n > 0, else 0. -/
def execAext (c : Fin 256) (s : State) : Host.Outcome State Fault Refusal :=
  registerOp 0x53 c s fun w h =>
    let n := wImm w % 32
    let r : Int := if n = 0 then 0 else 2 ^ (n - 1)
    vWrite h (wD w) (kGet h (wK w)) fun i => sat8 (wSg w) ((wordInt (wSg w) (lane32 (aGet h (wAcc w)) i) + r) / 2 ^ n)

/-! ### Reductions -/

def execVrsum (c : Fin 256) (s : State) : Host.Outcome State Fault Refusal :=
  registerOp 0x58 c s fun w h =>
    sSet h (wD w) (BitVec.ofInt 32 (((setLanes (kGet h (wK w))).map fun i => laneInt (wSg w) (lane8 (vGet h (wA w)) i)).foldl (· + ·) 0))

/-- The least (or greatest) lane of a list with its number, the lowest number holding it. -/
def bestLane (less : Int → Int → Bool) (f : Nat → Int) : List Nat → Option (Int × Nat)
  | [] => none
  | i :: l =>
    match bestLane less f l with
    | some (x, j) => if less x (f i) then some (x, j) else some (f i, i)
    | none => some (f i, i)

/-- A VRMIN or VRMAX: with no lane set, 255 or 127 and lane 64. -/
def rankOp (w : BitVec 64) (less : Int → Int → Bool) (h : Caster) : Caster :=
  let r := (bestLane less (fun i => laneInt (wSg w) (lane8 (vGet h (wA w)) i)) (setLanes (kGet h (wK w)))).getD
    (if wSg w then 127 else 255, 64)
  sSet (sSet h (wD w) (BitVec.ofInt 32 r.1)) (wD w + 1) (BitVec.ofNat 32 r.2)

def execVrmin (c : Fin 256) (s : State) : Host.Outcome State Fault Refusal :=
  registerOp 0x59 c s fun w h => rankOp w (fun a b => decide (a < b)) h
def execVrmax (c : Fin 256) (s : State) : Host.Outcome State Fault Refusal :=
  registerOp 0x5A c s fun w h => rankOp w (fun a b => decide (b < a)) h

def execArsum (c : Fin 256) (s : State) : Host.Outcome State Fault Refusal :=
  registerOp 0x5B c s fun w h =>
    sSet h (wD w) (BitVec.ofInt 32 (((setLanes (kGet h (wK w))).map fun i => wordInt (wSg w) (lane32 (aGet h (wAcc w)) i)).foldl (· + ·) 0))

/-! ### Permutes, table lookup, histogram -/

def execVperm (c : Fin 256) (s : State) : Host.Outcome State Fault Refusal :=
  registerOp 0x60 c s fun w h => vWrite h (wD w) (kGet h (wK w)) fun i =>
    lane8 (vGet h (wA w)) (lane8 (vGet h (wB w)) i % 64)

def execVrot (c : Fin 256) (s : State) : Host.Outcome State Fault Refusal :=
  registerOp 0x61 c s fun w h => vWrite h (wD w) (kGet h (wK w)) fun i =>
    lane8 (vGet h (wA w)) ((i + (opB32 h w).toNat % 64) % 64)

/-- sD = vA lanes n to n + 3. -/
def execVgets (c : Fin 256) (s : State) : Host.Outcome State Fault Refusal :=
  registerOp 0x62 c s fun w h => sSet h (wD w) (BitVec.ofNat 32 (fld (vGet h (wA w)) (8 * (wImm w % 64)) 32))

/-- vD lanes n to n + 3 = sA. -/
def execVsets (c : Fin 256) (s : State) : Host.Outcome State Fault Refusal :=
  registerOp 0x63 c s fun w h => vSet h (wD w) (setFld (vGet h (wD w)) (8 * (wImm w % 64)) 32 (sGet h (wA w)).toNat)

/-- vD lane i = byte at sA + IMM + 64 × (vB lane i mod 64) + i. -/
def execVlut (c : Fin 256) (s : State) : Host.Outcome State Fault Refusal :=
  issue 0x64 c s fun w s =>
    let h := s.cast[c]
    let a := memAddr h w
    let at_ (i : Nat) : Nat := a + 64 * (lane8 (vGet h (wB w)) i % 64) + i
    let xs := (List.range 64).map at_
    let wds := (xs.map (· / 8)).eraseDups
    match accessFault h false xs 1 a 64 with
    | 0 =>
      if anyBad h wds then takeFault s c 6 0
      else complete1 s c 1 fun h =>
        vWrite (countFixed h (anyFixed h wds)) (wD w) (kGet h (wK w)) fun i => (tget 0 h.mem (at_ i)).toNat
    | k => takeFault s c k 0

/-- For each lane i set in kK, the 32-bit word at sA + IMM + 4 × (vB lane i) counts one. -/
def execVhist (c : Fin 256) (s : State) : Host.Outcome State Fault Refusal :=
  issue 0x65 c s fun w s =>
    let h := s.cast[c]
    let a := memAddr h w
    let xs := (setLanes (kGet h (wK w))).map fun i => a + 4 * lane8 (vGet h (wB w)) i
    let wds := (xs.map (· / 8)).eraseDups
    match accessFault h false xs 4 a 64 with
    | 0 =>
      if anyBad h wds then takeFault s c 6 0
      else complete1 s c 8 fun h =>
        let h := countFixed h (anyFixed h wds)
        { h with memBad := tdrop (fun wd => wds.contains wd) h.memBad,
                 mem := xs.foldl (fun m x => writeBytes m x (leBytes 4 (leNat (readBytes m x 4) + 1))) h.mem }
    | k => takeFault s c k 0

/-! ### Work items (R157 to R161) -/

/-- `TAKE`: the oldest placed item, when its slot is READY. -/
def execTake (c : Fin 256) (s : State) : Host.Outcome State Fault Refusal :=
  issue 0x80 c s fun w s =>
    let h := s.cast[c]
    if (curSlot h).isSome then takeFault s c 4 0
    else match oldestSlot h with
    | none => waitHere s c .inTake
    | some i =>
      let x := h.slots[i]
      if x.state != .ready then waitHere s c .inTake
      else complete1 s c 1 fun h =>
        let h := { h with slots := vmod h.slots i fun x => { x with state := .current }, sent := 0 }
        let h := vSet h (wD w) x.item
        sSet (sSet h (wA w) (BitVec.ofNat 32 (winBase i))) (wA w + 1)
          (BitVec.ofNat 32 (x.winLen % 2 ^ 14 + b2n x.winErr * 2 ^ 31))

/-- A result of the current item enters the output half, or waits for room (R158, R159, R161). -/
def sendResult (s : State) (c : Fin 256) (w : BitVec 64) (kind : OutKind) (op : Nat) (i : Fin 2) : State :=
  let h := s.cast[c]
  if 4 ≤ resultsWaiting h then waitHere s c .waiting
  else complete1 s c 1 fun h =>
    let x := h.slots[i]
    let item := setOp (resultItem x.item (vGet h (wA w))) op
    { h with sent := h.sent + 1,
             outHalf := h.outHalf ++ [{ kind := kind, flow := itFlow x.item, oid := x.oid, item := item }] }

/-- `EMIT`. -/
def execEmit (c : Fin 256) (s : State) : Host.Outcome State Fault Refusal :=
  issue 0x81 c s fun w s =>
    let h := s.cast[c]
    match curSlot h with
    | none => takeFault s c 4 0
    | some i => if 16 ≤ h.sent then takeFault s c 4 0 else sendResult s c w .emit (itOp h.slots[i].item) i

/-- `PASS` along edge IMM[2:0]. -/
def execPass (c : Fin 256) (s : State) : Host.Outcome State Fault Refusal :=
  issue 0x82 c s fun w s =>
    let h := s.cast[c]
    match curSlot h with
    | none => takeFault s c 4 0
    | some i =>
      let e := wImm w % 8
      match vget none (opRec s (itOp h.slots[i].item)).edges e with
      | none => takeFault s c 4 0
      | some op => if 16 ≤ h.sent then takeFault s c 4 0 else sendResult s c w (.pass e) op i

/-- `DONE`: waits for busy tags and for the completion place; then the completion enters and the slot is EMPTY. -/
def execDone (c : Fin 256) (s : State) : Host.Outcome State Fault Refusal :=
  issue 0x83 c s fun _ s =>
    let h := s.cast[c]
    match curSlot h with
    | none => takeFault s c 4 0
    | some i =>
      if anyBusy h || completionWaits h then waitHere s c .waiting
      else complete1 s c 1 fun h =>
        let x := h.slots[i]
        { h with items := h.items + 1, slots := vmod h.slots i fun x => { x with state := .empty },
                 outHalf := h.outHalf ++ [{ kind := .completion, flow := itFlow x.item, oid := x.oid, item := x.item }] }

/-- `TRAP` with code IMM[15:0]. -/
def execTrap (c : Fin 256) (s : State) : Host.Outcome State Fault Refusal :=
  issue 0x8F c s fun w s => takeFault s c 5 (wImm w % 2 ^ 16)

/-! ### Waits and DMA (R149, R150) -/

/-- The caster address in s(B+1)[7:0] : sB. -/
def extAddr (h : Caster) (w : BitVec 64) : Nat := (sGet h (wB w + 1)).toNat % 256 * 2 ^ 32 + (sGet h (wB w)).toNat

/-- `DPULL` and `DPUSH`: a busy tag makes the transfer wait at issue. -/
def dmaOp (op : Nat) (push : Bool) (c : Fin 256) (s : State) : Host.Outcome State Fault Refusal :=
  issue op c s fun w s =>
    let h := s.cast[c]
    let len := wImm w % 2 ^ 17
    let loc := (sGet h (wA w)).toNat
    let ext := extAddr h w
    match accessFault h true [loc] len loc 64 with
    | 0 =>
      if ext % 64 ≠ 0 then takeFault s c 2 0
      else if (vget ({} : Tag) h.tags (wD w % 8)).busy.isSome then waitHere s c .waiting
      else complete1 s c 1 fun h =>
        { h with tags := vmodN h.tags (wD w % 8) fun _ =>
            { busy := some { push := push, ext := ext, loc := loc, len := len } } }
    | k => takeFault s c k 0

def execDpull (c : Fin 256) (s : State) : Host.Outcome State Fault Refusal := dmaOp 0x70 false c s
def execDpush (c : Fin 256) (s : State) : Host.Outcome State Fault Refusal := dmaOp 0x71 true c s

/-- `DWAIT`: until no tag set in IMM[7:0] is busy. -/
def execDwait (c : Fin 256) (s : State) : Host.Outcome State Fault Refusal :=
  issue 0x72 c s fun w s =>
    if (bitsOf 8 (wImm w % 256)).any fun t => (vget ({} : Tag) s.cast[c].tags t).busy.isSome then waitHere s c .waiting
    else complete1 s c 1 id

/-- `DTEST`: sD[7:0] = done tags; sD[15:8] = tags done with error. -/
def execDtest (c : Fin 256) (s : State) : Host.Outcome State Fault Refusal :=
  registerOp 0x73 c s fun w h =>
    let m (p : Tag → Bool) : Nat := maskOf ((List.range 8).filter fun t => p (vget ({} : Tag) h.tags t))
    sSet h (wD w) (BitVec.ofNat 32 (m (fun t => t.done) + 256 * m fun t => t.done && t.err))

/-- `WAITC`: a stall of IMM[15:0] cycles. -/
def execWaitc (c : Fin 256) (s : State) : Host.Outcome State Fault Refusal :=
  issue 0x78 c s fun w s =>
    (complete1 s c (wImm w % 2 ^ 16) fun h => { h with waitc := wImm w % 2 ^ 16 }).modCast c fun h => { h with mode := .inWaitc }

end Sys2Proof.Machine
end

