-- ==== Sys2Proof/Machine/Crc.lean ====
section
/-! DEFINITION. Machine/Crc.lean: CRC-32C (R164, R173, R342; the polynomial is the standard's, log entry 12). -/

namespace Sys2Proof.Machine

open Sys2Proof

/-- One bit of the reflected CRC-32C. -/
def crcBit (c : Nat) : Nat := if c % 2 = 1 then (c / 2) ^^^ 0x82F63B78 else c / 2

def crcBits : Nat → Nat → Nat
  | 0, c => c
  | k + 1, c => crcBits k (crcBit c)

def crcByte (c : Nat) (b : Byte) : Nat := crcBits 8 (c ^^^ b.toNat)

/-- The register after a list of bytes; the match has it evaluated byte by byte. -/
def crcList : List Byte → Nat → Nat
  | [], c => c
  | b :: r, c =>
    match crcByte c b with
    | 0 => crcList r 0
    | n + 1 => crcList r (n + 1)

/-- CRC-32C of a list of bytes. -/
def crc32c (l : List Byte) : Nat := crcList l 0xFFFFFFFF ^^^ 0xFFFFFFFF

/-- One bit of the SMBus CRC-8, most significant first (the standard's x^8 + x^2 + x + 1). -/
def pecBit (c : Nat) : Nat := if 128 ≤ c then (2 * c % 256) ^^^ 0x07 else 2 * c

/-- The Packet Error Code of a transaction's bytes, addresses and all (R338). -/
def smbusPec (l : List Byte) : Byte :=
  BitVec.ofNat 8 (l.foldl (fun c b => pecBit (pecBit (pecBit (pecBit (pecBit (pecBit (pecBit (pecBit (c ^^^ b.toNat))))))))) 0)

/-- The CRC of an image whose CRC field stands in bytes 28 to 31, that field taken as 0. -/
def imageCrc (l : List Byte) : Nat := crc32c (l.take 28 ++ List.replicate 4 0 ++ l.drop 32)

/-- An image that is `len` bytes long as its header says, with a CRC that matches. -/
def imageOk (l : List Byte) (len : Nat) : Bool := l.length == len && leAt l 28 4 == imageCrc l

end Sys2Proof.Machine
end

