-- ==== Sys2Proof/Machine/KernelImage.lean ====
section
/-! DEFINITION. Machine/KernelImage.lean: kernel images and the checks of R165 (Table 6-10, Table 6-5). -/

namespace Sys2Proof.Machine

open Sys2Proof

/-- A register class (Table 6-3), or a DMA tag. -/
inductive RegCls where
  | v | s | k | tag
  deriving DecidableEq, Repr

/-- The second operand of an instruction: none, vector (b8) or scalar (b32). -/
inductive Opnd where
  | none | b8 | b32
  deriving DecidableEq, Repr

/-- The fields that an instruction uses (R144); a pair register is at most 14. -/
structure Form where
  d : Option RegCls := none
  a : Option RegCls := none
  b : Option RegCls := none
  src : Opnd := .none
  k : Bool := false
  acc : Bool := false
  sg : Bool := false
  imm : Bool := false
  pair : List Nat := []        -- fields (0 D, 1 A, 2 B) that name a pair
  deriving DecidableEq, Repr

def scalarForm (sg : Bool) : Form := { d := some .s, a := some .s, src := .b32, sg := sg }
def vectorForm (sg : Bool) : Form := { d := some .v, a := some .v, src := .b8, k := true, sg := sg }
def compareForm (sg : Bool) : Form := { d := some .k, a := some .v, src := .b8, k := true, sg := sg }
def branchForm (sg : Bool) : Form := { a := some .s, b := some .s, imm := true, sg := sg }

/-- The form of each opcode of Table 6-5; none for an undefined opcode. -/
def formOf : Nat → Option Form
  | 0x00 => some {}
  | 0x01 => some { d := some .s, imm := true }
  | 0x02 | 0x03 | 0x04 | 0x05 | 0x06 | 0x07 | 0x08 => some (scalarForm false)
  | 0x09 => some (scalarForm true)
  | 0x10 | 0x11 => some (branchForm false)
  | 0x12 | 0x13 => some (branchForm true)
  | 0x14 => some { imm := true }
  | 0x20 | 0x21 => some { d := some .v, a := some .s, k := true, imm := true }
  | 0x22 | 0x23 => some { d := some .s, a := some .s, imm := true }
  | 0x24 => some { acc := true, a := some .s, k := true, imm := true }
  | 0x25 => some { acc := true, a := some .s, imm := true }
  | 0x30 | 0x31 | 0x37 | 0x38 | 0x39 | 0x3A | 0x3C => some (vectorForm false)
  | 0x32 | 0x33 | 0x34 | 0x35 | 0x36 | 0x3B => some (vectorForm true)
  | 0x3D => some { d := some .v, src := .b8, k := true }
  | 0x40 | 0x41 => some (compareForm false)
  | 0x42 | 0x43 => some (compareForm true)
  | 0x46 | 0x47 => some { d := some .k, a := some .k, b := some .k }
  | 0x48 => some { d := some .k, a := some .k }
  | 0x49 => some { d := some .s, a := some .k, pair := [0] }
  | 0x4A => some { d := some .k, a := some .s, pair := [1] }
  | 0x4B => some { d := some .s, a := some .k }
  | 0x50 | 0x51 => some { acc := true, a := some .v, src := .b8, k := true, sg := true }
  | 0x52 => some { acc := true, k := true }
  | 0x53 => some { d := some .v, acc := true, imm := true, k := true, sg := true }
  | 0x58 => some { d := some .s, a := some .v, k := true, sg := true }
  | 0x59 | 0x5A => some { d := some .s, a := some .v, k := true, sg := true, pair := [0] }
  | 0x5B => some { d := some .s, acc := true, k := true, sg := true }
  | 0x60 => some { d := some .v, a := some .v, b := some .v, k := true }
  | 0x61 => some { d := some .v, a := some .v, src := .b32, k := true }
  | 0x62 => some { d := some .s, a := some .v, imm := true }
  | 0x63 => some { d := some .v, a := some .s, imm := true }
  | 0x64 => some { d := some .v, a := some .s, b := some .v, imm := true, k := true }
  | 0x65 => some { a := some .s, b := some .v, imm := true, k := true }
  | 0x70 | 0x71 => some { d := some .tag, a := some .s, b := some .s, imm := true, pair := [2] }
  | 0x72 => some { imm := true }
  | 0x73 => some { d := some .s }
  | 0x78 => some { imm := true }
  | 0x80 => some { d := some .v, a := some .s, pair := [1] }
  | 0x81 => some { a := some .v }
  | 0x82 => some { a := some .v, imm := true }
  | 0x83 => some {}
  | 0x8F => some { imm := true }
  | _ => none

/-- A register number lies in its class; a field that is not used is 0. -/
def regOk (c : Option RegCls) (x : Nat) : Bool :=
  match c with
  | none => x == 0
  | some .v => decide (x < 32)
  | some .s => decide (x < 16)
  | some .k | some .tag => decide (x < 8)

/-- `SRC` is not reserved, and the fields B and IMM are as it makes them (R145). -/
def srcOk (f : Form) (src b imm : Nat) : Bool :=
  match f.src, src with
  | .none, 0 => regOk f.b b && (f.imm || imm == 0)
  | .b8, 0 => regOk (some .v) b && imm == 0
  | .b8, 1 => regOk (some .s) b && imm == 0
  | .b8, 2 => b == 0
  | .b32, 0 => regOk (some .s) b && imm == 0
  | .b32, 2 => b == 0
  | _, _ => false

/-- A pair register is at most 14. -/
def pairOk (f : Form) (d a b : Nat) : Bool :=
  (!f.pair.contains 0 || decide (d ≤ 14)) && (!f.pair.contains 1 || decide (a ≤ 14)) && (!f.pair.contains 2 || decide (b ≤ 14))

/-- The values of IMM and A that R165 refuses by opcode. -/
def immOk (op a imm icount : Nat) : Bool :=
  if 0x10 ≤ op ∧ op ≤ 0x14 then decide (imm % 2048 < icount)
  else if op = 0x62 ∨ op = 0x63 then decide (imm % 64 ≤ 60)
  else if op = 0x70 ∨ op = 0x71 then
    imm % 2 ^ 17 != 0 && imm % 2 ^ 17 % 64 == 0 && decide (imm % 2 ^ 17 ≤ 65536)
  else if op = 0x78 then imm % 2 ^ 16 != 0
  else if op = 0x80 then a != 0
  else true

/-- An instruction that R165 does not refuse. -/
def wordOk (icount : Nat) (w : BitVec 64) : Bool :=
  match formOf (fld w 56 8) with
  | none => false
  | some f =>
    let d := fld w 51 5
    let a := fld w 46 5
    let b := fld w 41 5
    let imm := fld w 0 32
    regOk f.d d && regOk f.a a && srcOk f (fld w 34 2) b imm && pairOk f d a b
      && (f.k || fld w 38 3 == 0) && (f.acc || fld w 36 2 == 0) && (f.sg || fld w 33 1 == 0) && fld w 32 1 == 0
      && immOk (fld w 56 8) a imm icount

/-- A segment lies in the general area, on multiples of 64 (Table 6-10). -/
def segOk (x : Nat × Nat) : Bool := x.1 % 64 == 0 && x.2 % 64 == 0 && decide (x.1 + x.2 ≤ 0x1C000)

/-- No two segments overlap. -/
def segsApart : List (Nat × Nat) → Bool
  | [] => true
  | x :: r => (r.all fun y => decide (x.1 + x.2 ≤ y.1) || decide (y.1 + y.2 ≤ x.1) || x.2 == 0 || y.2 == 0) && segsApart r

/-- What a load takes from an image. -/
structure Kernel where
  id : BitVec 16 := 0
  prog : List (BitVec 64) := []
  segs : List (Nat × List Byte) := []
  deriving DecidableEq, Repr

/-- The segments' bytes, in table order. -/
def segData : List (Nat × Nat) → List Byte → List (Nat × List Byte)
  | [], _ => []
  | (a, n) :: r, l => (a, l.take n) :: segData r (l.drop n)

/-- The kernel of an image that passes every check of R165. -/
def kernelOf (l : List Byte) : Option Kernel :=
  let icount := leAt l 4 2
  let n := leAt l 6 1
  let table := (List.range n).map fun i => (leAt l (32 + 8 * i) 4, leAt l (36 + 8 * i) 4)
  let code := 32 + 8 * n
  let data := code + 8 * icount
  let words := (List.range icount).map fun i => BitVec.ofNat 64 (leAt l (code + 8 * i) 8)
  if leAt l 0 2 = 1 ∧ leAt l 2 2 ≠ 0 ∧ 1 ≤ icount ∧ icount ≤ 2048 ∧ n ≤ 15 ∧ leAt l 7 1 = 0 ∧ leAt l 12 16 = 0
      ∧ leAt l 8 4 = data + (table.map Prod.snd).sum ∧ imageOk l (leAt l 8 4) = true
      ∧ table.all segOk = true ∧ segsApart table = true ∧ words.all (wordOk icount) = true then
    some { id := BitVec.ofNat 16 (leAt l 2 2), prog := words, segs := segData table (l.drop data) }
  else none

end Sys2Proof.Machine
end

