-- ==== Sys2Proof/Machine/CasterRows.lean ====
section
/-! DEFINITION. Machine/CasterRows.lean: DMA and window pulls (R149 to R156), clock stop and restart (R139, R163), kernel
loads, retirement and status (R164 to R169). -/

namespace Sys2Proof.Machine

open Sys2Proof

/-! ### External addresses (R149, R151) -/

/-- Where a range of caster addresses lies. -/
inductive ExtSpan where
  | ddr | bins (off : Nat) | invalid
  deriving DecidableEq, Repr

def extSpan (a len : Nat) : ExtSpan :=
  if a + len ≤ 2 ^ 38 then .ddr
  else if 2 ^ 39 ≤ a ∧ a + len ≤ 2 ^ 39 + 2 ^ 20 then .bins (a - 2 ^ 39)
  else .invalid

/-- The bins of a range are in single-port or dual-port RAM mode and their paddock is LIVE. -/
def binSpanOk (s : State) (k off len : Nat) : Bool :=
  (pdkAt s k).state == .live &&
  (List.range ((off + len - 1) / 16384 + 1 - off / 16384)).all fun i =>
    binUsed s k (off / 16384 + i) && decide (binMode s k (off / 16384 + i) < 2)

/-- Array words read through the error code: whether all were correctable. -/
def arrayReads (s : State) (k : Nat) : List Nat → State × Bool
  | [] => (s, true)
  | wd :: r =>
    let (s1, ok1) := arrayRead s k (wd / 2048) (wd % 2048)
    let (s2, ok2) := arrayReads s1 k r
    (s2, ok1 && ok2)

/-- A block of a range in the bins of paddock `k`; none where a word is uncorrectable. -/
def binBlockRead (s : State) (k off len : Nat) : State × Option (List Byte) :=
  let (t, ok) := arrayReads s k (wordsOf off len)
  (t, if ok then some (readBytes t.fab.binMem (binByte k 0 off) len) else none)

/-- Whole words written to the bins of paddock `k`. -/
def binBlockWrite (s : State) (k off : Nat) : Nat → List Byte → State
  | 0, _ => s
  | n + 1, l => binBlockWrite (binWrite s k (off / 16384) (off % 16384) (l.take 8)) k (off + 8) n (l.drop 8)

/-- The paddock beside a caster (R11). -/
def castPdk (c : Fin 256) : Nat := c.val / 4

/-- One 64-byte block that a window pull reads; none where its address is invalid or denied or it is uncorrectable. -/
def extBlock (s : State) (c : Fin 256) (a : Nat) : State × Option (List Byte) :=
  match extSpan a 64 with
  | .ddr =>
    match memRead s .caster a 64 with
    | (t, some (l, false)) => (t, some l)
    | (t, _) => (t, none)
  | .bins off => if binSpanOk s (castPdk c) off 64 then binBlockRead s (castPdk c) off 64 else (s, none)
  | .invalid => (s, none)

/-- Consecutive blocks; a block that cannot be read gives zeros and the error. -/
def extBlocks (s : State) (c : Fin 256) (a : Nat) : Nat → State × List Byte × Bool
  | 0 => (s, [], false)
  | n + 1 =>
    let (s1, r) := extBlock s c a
    let (s2, l, e) := extBlocks s1 c (a + 64) n
    (s2, (r.getD (List.replicate 64 0)) ++ l, r.isNone || e)

/-- The channels that a range reaches serve requests (R307). -/
def extReady (s : State) (c : Fin 256) (a len : Nat) : Bool :=
  match extSpan a len with
  | .ddr => memReady s a len
  | .bins _ => !cutHeld s (castPdk c)
  | _ => true

/-! ### DMA (R150 to R152) -/

/-- The bytes of a local word as they stand, flipped bits and all. -/
def rawWord (h : Caster) (wd : Nat) : List Byte :=
  leBytes 8 (leNat (readBytes h.mem (8 * wd) 8) ^^^ maskOf ((wordFlips h wd).filter fun i => decide (i < 64)))

/-- What a push reads from local memory; an uncorrectable word goes out as it stands (log entry 27). -/
def localRead (h : Caster) (a n : Nat) : List Byte :=
  (wordsOf a n).flatMap fun wd => if anyBad h [wd] then rawWord h wd else readBytes h.mem (8 * wd) 8

/-- The tag's state after a transfer: done, with error; nothing on a caster that faulted (R162). -/
def tagDone (s : State) (c : Fin 256) (t : Fin 8) (err : Bool) : State :=
  wakeCaster (s.modCast c fun h =>
    if h.mode == .faulted then { h with tags := vset h.tags t {}, dmaErr := if err then satAdd h.dmaErr 1 else h.dmaErr }
    else { h with tags := vset h.tags t { busy := none, done := true, err := err },
                  dmaErr := if err then satAdd h.dmaErr 1 else h.dmaErr }) c

/-- A pull moved whole. -/
def dmaPull (s : State) (c : Fin 256) (d : Dma) : State × Bool :=
  let fill (s : State) (l : List Byte) : State := s.modCast c fun h => localFill h d.loc l
  match extSpan d.ext d.len with
  | .ddr =>
    match memRead s .caster d.ext d.len with
    | (t, some (l, bad)) => (fill t l, bad)
    | (t, none) => (t, true)
  | .bins off =>
    if binSpanOk s (castPdk c) off d.len then
      let (t, l, bad) := extBlocks s c d.ext (d.len / 64)
      (fill t l, bad)
    else (s, true)
  | .invalid => (s, true)

/-- A push moved whole. -/
def dmaPush (s : State) (c : Fin 256) (d : Dma) : State × Bool :=
  let h := s.cast[c]
  let wds := wordsOf d.loc d.len
  let l := localRead h d.loc d.len
  let seen (s : State) : State :=
    let s := s.modCast c fun h => countFixed h (anyFixed h wds)
    if anyBad h wds && h.mode != .faulted then takeFault s c 6 0 else s
  match extSpan d.ext d.len with
  | .ddr =>
    match memWrite s .caster d.ext l with
    | (t, true) => (seen t, false)
    | (t, false) => (t, true)
  | .bins off =>
    if binSpanOk s (castPdk c) off d.len then (seen (binBlockWrite s (castPdk c) off (d.len / 8) l), false) else (s, true)
  | .invalid => (s, true)

/-- `DMA_COMPLETE`: the transfer of tag `t` has moved its data, or none under R151. -/
def execDmaComplete (c : Fin 256) (t : Fin 8) (s : State) : Host.Outcome State Fault Refusal :=
  .next (match s.cast[c].tags[t].busy with
  | none => s
  | some d =>
    if extReady s c d.ext d.len then
      let (s, err) := if d.push then dmaPush s c d else dmaPull s c d
      tagDone s c t err
    else s)

/-- `WINDOW_PULL_COMPLETE` (R155, R156): the window's blocks, with zeros from its length to the end of the last block. -/
def execWindowPullComplete (c : Fin 256) (n : Fin 2) (s : State) : Host.Outcome State Fault Refusal :=
  let x := s.cast[c].slots[n]
  let blocks := (x.winLen + 63) / 64
  .next (if x.state == .filling && extReady s c x.winSrc (64 * blocks) then
    let (s, l, bad) := extBlocks s c x.winSrc blocks
    wakeCaster (s.modCast c fun h =>
      { localFill h (winBase n) (padTo (64 * blocks) (l.take x.winLen)) with
        slots := vmod h.slots n fun x => { x with state := .ready, winErr := bad } }) c
  else s)

/-! ### Waiting, restart (R139, R148, R163) -/

/-- `WAITC_EXPIRY`. -/
def execWaitcExpiry (c : Fin 256) (s : State) : Host.Outcome State Fault Refusal :=
  .next (if s.cast[c].mode == .inWaitc && casterRuns s c then
    s.modCast c fun h => { h with mode := .running, waitc := 0 } else s)

/-- `CLOCK_STOP`: a caster that waits in `TAKE`, `DWAIT` or `DONE` stops its own clock. -/
def execClockStop (c : Fin 256) (s : State) : Host.Outcome State Fault Refusal :=
  let h := s.cast[c]
  .next (if (h.mode == .inTake || h.mode == .waiting) && casterRuns s c && waitStands h then
    s.modCast c fun h => { h with clockStopped := true } else s)

/-- `CASTER_RESTART`: once the DMA of a faulted caster has finished, its items return and it restarts or halts. -/
def execCasterRestart (c : Fin 256) (s : State) : Host.Outcome State Fault Refusal :=
  let h := s.cast[c]
  .next (if h.mode == .faulted && !anyBusy h && casterRuns s c then
    (returnLadle s c true).modCast c fun h =>
      { clearRegs h with mode := if h.fault = 6 then .halted else .running, clockStopped := false, sent := 0, waitc := 0 }
  else s)

/-! ### States of a caster -/

/-- `STATE` of Table 6-11. -/
def casterCode (h : Caster) : Nat :=
  match h.mode with
  | .excluded => 7
  | .retired => 6
  | .halted => 5
  | m =>
    if h.dozeStopped then 8
    else match m with
    | .idle => 0
    | .inTake => 1
    | .waiting | .faulted => 3
    | .loading => match h.drain with | some (.retire _ _) => 3 | _ => 4
    | _ => 2

/-- Retired or excluded: no target of a load or a retirement. -/
def casterGone (s : State) (c : Nat) : Bool :=
  match vget CasterMode.idle (s.cast.map fun h => h.mode) c with
  | .retired | .excluded => true
  | _ => false

def denyCaster (st : Status) (s : State) (c : Nat) : Deny := denyRes st 2 (casterCode (vget ({} : Caster) s.cast c)) c

/-- The ladle has drained: the switch or the retirement of a caster can take place. -/
def drained (h : Caster) : Bool :=
  h.slots[0].state == .empty && h.slots[1].state == .empty && !anyBusy h && h.mode != .faulted

def drainJob : DrainFor → Nat
  | .kernel j => j
  | .retire j _ => j

/-- The casters that still drain for a job. -/
def drainingFor (s : State) (job : Nat) : List Nat :=
  (List.range 256).filter fun c =>
    match (vget ({} : Caster) s.cast c).drain with | some d => drainJob d == job | none => false

/-- Those casters of a list that drain for another command (R351). -/
def drainBusy (s : State) (l : List Nat) : Option Nat :=
  l.find? fun c => bistChanges s 8 || (vget ({} : Caster) s.cast c).drain.isSome

/-- Dispatch to the casters of a job resumes: they keep what they hold. -/
def undrain (s : State) (job : Nat) : State :=
  { s with cast := s.cast.map fun h =>
      match h.drain with
      | some d => if drainJob d = job then { h with drain := none, place := true } else h
      | none => h }

/-- Casters that the scheduler places nothing more into until they have drained. -/
def startDrain (s : State) (l : List Nat) (d : DrainFor) : State :=
  { s with cast := vmapI s.cast fun c h => if l.contains c then { h with drain := some d, place := false } else h }

/-- The ladles of a list of casters are emptied at once, without a fault charge; they issue nothing more. -/
def forceOut (s : State) (l : List Nat) : State :=
  l.foldl (fun s c =>
    let c : Fin 256 := Fin.ofNat 256 c
    if s.cast[c].mode == .faulted then s
    else (returnLadle s c false).modCast c fun h =>
      { h with mode := if h.mode == .halted || h.mode == .idle then h.mode else .loading, clockStopped := false }) s

/-! ### Completion of loads and retirements -/

def kernelReply (loaded skipped late : Nat) : List Byte := leBytes 2 loaded ++ leBytes 2 skipped ++ leBytes 2 late ++ leBytes 2 0

/-- The command completes when no caster drains for it any more. -/
def casterJobDone (s : State) (job : Nat) : State :=
  if (drainingFor s job).isEmpty then
    match findJob s job with
    | some j =>
      match j.kind with
      | .kernelLoad _ _ _ _ _ loaded skipped late => finishJob s job .done 0 (kernelReply loaded skipped late)
      | .casterRetire _ _ _ => finishJob s job .done 0 []
      | _ => s
    | none => s
  else s

/-- The instruction store of a loaded program. -/
def storeOf : Nat → List (BitVec 64) → Tab (BitVec 64)
  | _, [] => []
  | n, w :: r => if w = 0 then storeOf (n + 1) r else (n, w) :: storeOf (n + 1) r

/-- The new kernel in a caster (R166, step 3). -/
def switchKernel (h : Caster) (id : BitVec 16) (prog : List (BitVec 64)) (segs : List (Nat × List Byte)) : Caster :=
  let h := clearRegs (clearMems h)
  { h with store := storeOf 0 prog, mem := segs.foldl (fun m x => writeBytes m x.1 x.2) [], kernel := id,
           mode := .running, clockStopped := false, sent := 0, waitc := 0, drain := none, place := true }

/-- `KERNEL_LOAD_SWITCH`. -/
def execKernelLoadSwitch (c : Fin 256) (s : State) : Host.Outcome State Fault Refusal :=
  .next (match s.cast[c].drain with
  | some (.kernel job) =>
    match findJob s job with
    | some j =>
      match j.kind with
      | .kernelLoad m f id prog segs loaded skipped late =>
        if drained s.cast[c] then
          casterJobDone (setJobKind (s.modCast c fun h => switchKernel h id prog segs) job
            (.kernelLoad m f id prog segs (loaded + 1) skipped late)) job
        else s
      | _ => s
    | none => s
  | _ => s)

/-- A caster retired (R167). -/
def retireCaster (h : Caster) : Caster :=
  { clearRegs (clearMems h) with kernel := 0, mode := .retired, clockStopped := false, sent := 0, waitc := 0,
                                 drain := none, place := true }

/-- The retired-block list with a caster recorded as retired persistently. -/
def bookRetired (s : State) (c : Nat) : State :=
  bookEnter { s with cast := vmodN s.cast c fun h => { h with persist := true } } [{ block := .caster c, byCommand := true }]

/-- `CASTER_RETIRED`. -/
def execCasterRetired (c : Fin 256) (s : State) : Host.Outcome State Fault Refusal :=
  .next (match s.cast[c].drain with
  | some (.retire job persistent) =>
    if drained s.cast[c] then
      let s := s.modCast c retireCaster
      casterJobDone (if persistent then bookRetired s c.val else s) job
    else s
  | _ => s)

/-- The limit of a load or a retirement expires: forced, the items return and the work goes on; else the casters that
have not drained keep what they hold and the command ends `TIMEOUT`. -/
def casterLimit (s : State) (j : Job) : State :=
  let late := drainingFor s j.id
  match j.kind with
  | .kernelLoad m force id prog segs loaded skipped n =>
    if force then forceOut (setJobKind s j.id (.kernelLoad m force id prog segs loaded skipped (n + late.length))) late
    else finishJob (undrain s j.id) j.id .timeout 0 (kernelReply loaded skipped late.length)
  | .casterRetire _ force _ => if force then s else finishJob (undrain s j.id) j.id .timeout 0 []
  | _ => s

/-! ### Images from a host buffer or DDR5 -/

/-- An image in DDR5 lies in one caster data or user region, which is populated. -/
def imageRegion (s : State) (a len : Nat) : Bool :=
  match regionAt s a with
  | some r => (r.kind == .caster || r.kind == .user) && decide (a + len ≤ r.base + r.len) && (firstDenied s .memCmd false a len).isNone
  | none => false

/-- `len` bytes of a command's image, from its host buffer or, with `ddr`, from address `a`. -/
def imageBytes (c : Cmd) (s : State) (ddr : Bool) (a len : Nat) : Except Deny (State × List Byte) :=
  if ddr then
    if imageRegion s a len then
      let (t, l, _) := ddrFetch s .memCmd a len
      .ok (t, l)
    else .error (badParam 4)
  else match inBuf c len with
  | .ok l => .ok (s, l.take len)
  | .error d => .error d

/-- The image lies where it may, and a channel that holds it does not serve: the command waits (R307). -/
def imageHeld (s : State) (ddr : Bool) (a len : Nat) : Bool := ddr && imageRegion s a len && !memReady s a len

/-! ### KERNEL_LOAD (R165, R166) -/

/-- The caster mask of bytes 0 to 31. -/
def castMask (c : Cmd) : List Nat := bitsOf 256 (par c 0 32)

def kernelLoadSpec : CmdSpec where
  opcode := 0x0500
  states := stHPS
  size := sizeIs 48
  isLong := fun _ _ => true
  buffer := true
  params := fun c _ => paramChecks (par c 32 1 < 4 && resZero c 33 3) (par c 0 32 != 0)

/-- The image lies in DDR5. -/
def kernelInDdr (c : Cmd) : Bool := (BitVec.ofNat 8 (par c 32 1)).getLsbD 1

/-- `KERNEL_LOAD` once its image can be read; `len`: the image's bytes. -/
def kernelLoadFrom (c : Cmd) (s : State) (len : Nat) : Except Deny State := do
  let force := par c 32 1 % 2 == 1
  let (s, l) ← imageBytes c s (kernelInDdr c) (par c 40 8) len
  match kernelOf l with
  | none => .error { st := .check }
  | some k =>
    let all := castMask c
    let targets := all.filter fun x => !casterGone s x
    match targets, drainBusy s targets with
    | [], _ => .error (denyCaster .retired s (all.headD 0))
    | _, some x => .error (denyCaster .busy s x)
    | _, none =>
      let job := s.cmdp.nextId
      .ok (startDrain (startJob c s (.kernelLoad (BitVec.ofNat 256 (maskOf targets)) force k.id k.prog k.segs 0
        (all.length - targets.length) 0) []) targets (.kernel job))

def kernelLoadBody (c : Cmd) (s : State) : Except Deny State :=
  let a := par c 40 8
  if imageHeld s (kernelInDdr c) a 32 then .ok (memHold c s a 32)
  else match imageBytes c s (kernelInDdr c) a 32 with
  | .error d => .error d
  | .ok (_, head) =>
    let len := max 32 (leAt head 8 4)
    if imageHeld s (kernelInDdr c) a len then .ok (memHold c s a len) else kernelLoadFrom c s len

/-- `KERNEL_LOAD`. -/
def execKernelLoad (c : Cmd) (s : State) : Host.Outcome State Fault Refusal := .next (runCmd kernelLoadSpec kernelLoadBody c s)

/-! ### CASTER_STATUS (R169) -/

def curFlow (h : Caster) : Nat :=
  match curSlot h with
  | some i => itFlow h.slots[i].item + 2 ^ 31
  | none => 0

def curSeq (h : Caster) : Nat :=
  match curSlot h with
  | some i => itSeq h.slots[i].item
  | none => 0

/-- The record of Table 6-11. -/
def statusRecord (h : Caster) : List Byte :=
  leBytes 1 (casterCode h) ++ leBytes 1 h.fault.toNat ++ leBytes 2 h.kernel.toNat ++ leBytes 2 h.faultPc.toNat
    ++ leBytes 2 h.faults.toNat ++ leBytes 4 h.items.toNat ++ leBytes 4 (h.cycles / 1024) ++ leBytes 4 (curFlow h)
    ++ leBytes 4 (curSeq h) ++ leBytes 2 h.dmaErr.toNat ++ leBytes 2 h.eccCorr.toNat ++ leBytes 2 h.trapCode.toNat
    ++ leBytes 2 0

def casterStatusSpec : CmdSpec where
  opcode := 0x0501
  states := stAll
  size := sizeIs 32
  buffer := true

def casterStatusBody (c : Cmd) (s : State) : Except Deny State :=
  doneOut c s ((castMask c).flatMap fun x => statusRecord (vget ({} : Caster) s.cast x))

/-- `CASTER_STATUS`. -/
def execCasterStatus (c : Cmd) (s : State) : Host.Outcome State Fault Refusal := .next (runCmd casterStatusSpec casterStatusBody c s)

/-! ### CASTER_RETIRE (R167) -/

def casterRetireSpec : CmdSpec where
  opcode := 0x0502
  states := stHPS
  size := sizeIs 40
  isLong := fun _ _ => true
  params := fun c _ => paramChecks (par c 33 1 < 4 && resZero c 34 2) (par c 0 32 != 0 && decide (par c 32 1 ≤ 1))

/-- A caster that no restore brings back: excluded, or retired persistently, even once a passed test has taken its entry from
the list (R167). -/
def keptRetired (s : State) (c : Nat) : Bool :=
  let h := vget ({} : Caster) s.cast c
  h.mode == .excluded || h.persist

/-- Casters retired by command return to IDLE. -/
def unretire (s : State) (l : List Nat) : State :=
  { s with cast := vmapI s.cast fun x h => if l.contains x && h.mode == .retired then { h with mode := .idle } else h }

def restoreCasters (c : Cmd) (s : State) (all : List Nat) : Except Deny State :=
  match all.find? (keptRetired s), drainBusy s all with
  | some x, _ => .error (denyCaster .retired s x)
  | none, some x => .error (denyCaster .busy s x)
  | none, none =>
    let job := s.cmdp.nextId
    let s := startJob c s (.casterRetire 0 false false) []
    .ok (finishJob (unretire s all) job .done 0 [])

def casterRetireBody (c : Cmd) (s : State) : Except Deny State :=
  let all := castMask c
  let force := par c 33 1 % 2 == 1
  let persistent := par c 33 1 / 2 % 2 == 1
  if par c 32 1 = 1 then restoreCasters c s all
  else
    let targets := all.filter fun x => !casterGone s x
    match targets, drainBusy s targets with
    | [], _ => .error (denyCaster .retired s (all.headD 0))
    | _, some x => .error (denyCaster .busy s x)
    | _, none =>
      if persistent && s.dev.sbRo then .error (denyDev .noSpace s)
      else
        let job := s.cmdp.nextId
        let s := startJob c s (.casterRetire (BitVec.ofNat 256 (maskOf targets)) force persistent) []
        let again := all.filter fun x => (vget ({} : Caster) s.cast x).mode == .retired
        let s := if persistent then again.foldl bookRetired s else s
        let s := startDrain s targets (.retire job persistent)
        .ok (if force then forceOut s targets else s)

/-- `CASTER_RETIRE`. -/
def execCasterRetire (c : Cmd) (s : State) : Host.Outcome State Fault Refusal := .next (runCmd casterRetireSpec casterRetireBody c s)

end Sys2Proof.Machine
end

