-- ==== Sys2Proof/Machine/Governor.lean ====
section
/-! DEFINITION. Machine/Governor.lean: the rate governor (05_self_timed_rate.md): capacity and slack, the control loop,
raises and lifts, the AVSBus, and GOVERNOR_CONFIG. Voltages are in mV, temperatures in 1/16 °C. -/

namespace Sys2Proof.Machine

open Sys2Proof

def State.modGov (s : State) (d : Fin 2) (f : GovDie → GovDie) : State := { s with gov.die := vmod s.gov.die d f }

/-! ### Cycle time (R116, Table 5-2) -/

/-- C(V, T) in 10 ps, by row (50 mV from 600 mV) and column (-40, 25, 85, 105 °C). -/
def cycleTable : List (List Nat) :=
  [[380, 370, 360, 358], [290, 278, 270, 270], [230, 222, 218, 220], [190, 185, 184, 187], [162, 160, 161, 165],
   [142, 142, 145, 150], [128, 129, 133, 138]]

/-- The columns' temperatures in 1/16 °C. -/
def tjCols : List Int := [-640, 400, 1360, 1680]

/-- The columns from the greatest at or below `lo` to the least at or above `hi`. -/
def tjRange (lo hi : Int) : List Nat :=
  let a := (List.range 4).foldl (fun m i => if tjCols.getD i 0 ≤ lo then i else m) 0
  let b := (List.range 4).foldr (fun i m => if hi ≤ tjCols.getD i 0 then i else m) 3
  (List.range 4).filter fun i => decide (a ≤ i) && decide (i ≤ b)

def rowMax (row : Nat) (cols : List Nat) : Nat :=
  (cols.map fun i => (cycleTable.getD row []).getD i 0).foldl max 0

/-- C at `v` mV over the columns, in 0.2 ps. Outside the table's rows, where the spec gives no C, the end row stands: the
model's choice (R116, log entry 108). -/
def cycleAt (v : Nat) (cols : List Nat) : Nat :=
  let v := max 600 (min 900 v)
  let r := (v - 600) / 50
  let d := (v - 600) % 50
  rowMax r cols * (50 - d) + rowMax (if d = 0 then r else r + 1) cols * d

/-! ### Temperature and rail (R125, R126) -/

/-- The valid sensors of a die. -/
def dieTemps (s : State) (d : Fin 2) : List Int :=
  ((s.pins.sensors.toList.drop (16 * d.val)).take 16).filterMap fun x => if x.valid && !x.failed then some x.temp else none

/-- Tlo and Thi of a die, in 1/16 °C. -/
def dieRange (s : State) (d : Fin 2) : Int × Int :=
  let l := dieTemps s d
  let g : Int := 16 * s.gov.params.tguard
  if l.length < 8 then (-640, 1680)
  else
    let clip (x : Int) : Int := max (-640) (min 1680 x)
    (clip (l.foldl min 100000 - g), clip (l.foldl max (-100000) + g))

/-- The lower of the set and the read-back value; the set value before the first read. -/
def railOf (g : GovDie) : Nat := if g.vread = 0 then g.vset else min g.vset g.vread

/-- C of a die at its rail lowered by `dv`. -/
def dieCycle (s : State) (d : Fin 2) (dv : Nat) : Nat :=
  let r := dieRange s d
  cycleAt (railOf s.gov.die[d] - dv) (tjRange r.1 r.2)

/-! ### Slack (R117, R127) -/

def dieOfPdk (k : Nat) : Fin 2 := ⟨k / 32 % 2, by omega⟩

/-- The worst cycle of a channel at C, in 1/7,250 ps. -/
def channelCycle (e : PaceEntry) (c : Nat) : Nat := max (e.refPs * c) (e.fixPs * 7250)

/-- C for an entry that takes part for die `d`, whose rail is taken lower by `dv`; an entry that spans both dies takes the
greater of the two, each at its own rail (R117). -/
def entryCycle (s : State) (d : Fin 2) (dv : Nat) (e : PaceEntry) : Nat :=
  if e.spans then max (dieCycle s d dv) (dieCycle s (1 - d) 0) else dieCycle s d dv

/-- An entry takes part for a die: it governs, and it counted tokens in the window (which it does while its paddock is LIVE,
R118), or is in its first window in a LIVE paddock. -/
def takesPart (s : State) (d : Fin 2) (e : PaceEntry) : Bool :=
  e.governs && (e.spans || dieOfPdk e.pdk == d) && (e.count != 0 || (e.first && (pdkAt s e.pdk).state == .live))

/-- Tokens in 100 windows: counted, or declared in the first window. -/
def demand (s : State) (e : PaceEntry) : Nat := if e.first then e.rateK * s.gov.params.window else e.count * 100

/-- Channel cycle times demand, greatest over the entries that take part; 0 where none does. The slack is
`slackNum / worst - 1`. -/
def worst (s : State) (d : Fin 2) (dv : Nat) : Nat :=
  (s.gov.pace.filter (takesPart s d)).foldl (fun m e => max m (channelCycle e (entryCycle s d dv e) * demand s e)) 0

def slackNum (s : State) : Nat := 7250 * 10 ^ 9 * s.gov.params.window

/-- The slack is below `p` percent. -/
def slackBelow (s : State) (w p : Nat) : Bool := w != 0 && decide (slackNum s * 100 < (100 + p) * w)

/-- `MIN_SLACK`: whole percent, from 0 to 254; 255 where no entry took part. -/
def minSlack (s : State) (w : Nat) : Nat := if w = 0 then 255 else min 254 (slackNum s * 100 / w - 100)

/-! ### Floors, lifts and freezes (R121, R131 to R133) -/

/-- A pour is writing or has yet to write a paddock. -/
def beingPoured (s : State) (k : Nat) : Bool :=
  match s.cfg.pour with
  | some p => p.accepted && p.mask.getLsbD k
  | none => false

/-- The effective floor of a die under parameters `p`. -/
def floorWith (s : State) (p : GovParams) (d : Fin 2) : Nat :=
  (List.range 32).foldl (fun m i =>
    let k := 32 * d.val + i
    if (pdkAt s k).state == .live || beingPoured s k then max m (vget 0 s.gov.vmin k) else m) p.floor

def floorEff (s : State) (d : Fin 2) : Nat := floorWith s s.gov.params d

def liftOf (g : GovDie) : Nat := max (if g.pourLift then 750 else 0) (if g.fettlerLift then 700 else 0)

/-- Lowering is frozen. -/
def frozen (s : State) : Bool := s.gov.pourFreeze != 0 || s.gov.musterFreeze

/-! ### Writing the rail (R123, R125, R128) -/

/-- A transaction joins the die's queue; the first goes out at once. -/
def avsPush (s : State) (d : Fin 2) (op : AvsOp) : State :=
  let idle := s.gov.die[d].avs.isEmpty
  let s := s.modGov d fun g => { g with avs := g.avs ++ [op] }
  if idle then s.emit (.avs d.val op) else s

/-- The rail of a die set to `mv` for a reason (Table 5-6); nothing where it stands there or `AVS_FAULT` stops writes. -/
def setRail (s : State) (d : Fin 2) (mv reason : Nat) : State :=
  let g := s.gov.die[d]
  if g.vset = mv || g.avsFault then s
  else avsPush (s.modGov d fun g =>
    { g with vset := mv, calm := 0, reason := BitVec.ofNat 3 reason, wroteAt := s.dev.yard }) d (.write mv)

/-- A rail set outside the control loop: not lowered while lowering is frozen (R131, R132). -/
def steerRail (s : State) (d : Fin 2) (mv reason : Nat) : State :=
  if frozen s && decide (mv < s.gov.die[d].vset) then s else setRail s d mv reason

/-- Both rails set as Table 5-5 says. -/
def setRails (s : State) (f : Fin 2 → Nat) (reason : Nat) : State := steerRail (steerRail s 0 (f 0) reason) 1 (f 1) reason

/-- The governor's control loop runs (Table 5-5). -/
def govRuns (s : State) : Bool :=
  match s.dev.state with
  | .halter | .recovery | .pouring | .service => true
  | _ => false

/-- The link is in `FIFO_MASK`; by default the links with a port adapter enabled (Table 5-4). -/
def inFifoMask (s : State) (link : Nat) : Bool :=
  match s.gov.params.fifoMask with
  | some m => m.getLsbD link
  | none =>
    let l := vget ({} : Link) s.cxp.links link
    (vget ({} : Group) s.cxp.groups (link / 2 ^ l.gsize * 2 ^ l.gsize)).set.adapt

/-- R129: an ingest FIFO's crossing up raises its die's rail to the ceiling. -/
def ingestRaise (s : State) (link : Nat) : State :=
  let d : Fin 2 := ⟨link / 64 % 2, by omega⟩
  if inFifoMask s link && !s.gov.params.fixed && (s.dev.state == .service || s.dev.state == .pouring) then
    steerRail s d s.gov.params.ceiling 4 else s

/-- A lift raises the rail at once. -/
def raiseTo (s : State) (d : Fin 2) (mv reason : Nat) : State :=
  if s.gov.die[d].vset < mv then setRail s d mv reason else s

def pourLift (s : State) (d : Fin 2) : State := raiseTo (s.modGov d fun g => { g with pourLift := true }) d 750 5
def fettlerLift (s : State) (d : Fin 2) : State := raiseTo (s.modGov d fun g => { g with fettlerLift := true }) d 700 5

/-- R135: an effective floor above the present rail raises the rail at once. -/
def floorRaise (s : State) (d : Fin 2) : State := raiseTo s d (floorEff s d) 6

/-! ### Unsafe entries (R122) -/

/-- An entry's declared rate exceeds its capacity at the ceiling over the full temperature range. -/
def entryOver (s : State) (e : PaceEntry) : Bool :=
  decide (7250 * 10 ^ 9 < e.rateK * channelCycle e (cycleAt s.gov.params.ceiling [0, 1, 2, 3]))

/-- The entries of a paddock that has become LIVE are tested, and their first window begins; what they counted in it stands
(R118). -/
def testEntries (s : State) (k : Nat) : State :=
  let hit := s.gov.pace.any fun e => e.pdk == k && entryOver s e
  let s := { s with gov.pace := s.gov.pace.map fun e =>
    if e.pdk = k then { e with first := true, overCap := entryOver s e } else e }
  if hit then raiseEvent s 3 else s

/-- `UNSAFE` of a die. An entry of a paddock that has left LIVE is not in force: the model's choice (R122, log entry 108). -/
def unsafeOn (s : State) (d : Fin 2) : Bool :=
  s.gov.pace.any fun e => e.overCap && (pdkAt s e.pdk).state == .live && (e.spans || dieOfPdk e.pdk == d)

/-! ### The end of a window (R128, R130) -/

/-- A die has a LIVE paddock, or a pour is in progress. -/
def dieAtWork (s : State) (d : Fin 2) : Bool :=
  s.cfg.pour.isSome || (List.range 32).any fun i => (pdkAt s (32 * d.val + i)).state == .live

/-- A die that Table 5-5 or R128 sets to `FLOOR`: in HALTER and RECOVERY, and in AUTO mode a die with no LIVE paddock while no
pour is in progress. A die that a pour in RECOVERY has given LIVE paddocks is at work, whatever Table 5-5's `since no paddock
is LIVE`: the model's choice (R134, log entry 108). -/
def atFloor (s : State) (d : Fin 2) : Bool :=
  !dieAtWork s d && (s.dev.state == .halter || s.dev.state == .recovery || !s.gov.params.fixed)

/-- The loop's target for a die and its reason, before lifts and clipping; the calm count afterwards. -/
def loopTarget (s : State) (d : Fin 2) : Nat × Nat × Nat :=
  let p := s.gov.params
  let g := s.gov.die[d]
  let w := worst s d 0
  if atFloor s d then (p.floor, 7, 0)
  else if p.fixed then (p.fixedV, 7, 0)
  else if slackBelow s w p.near then (p.ceiling, 3, 0)
  else if slackBelow s w p.margin then (g.vset + 5, 2, 0)
  else if decide (p.holdWin ≤ g.calm + 1) && !frozen s && decide (floorEff s d + 5 ≤ g.vset)
      && !slackBelow s (worst s d 5) p.margin then (g.vset - 5, 1, g.calm + 1)
  else (g.vset, 0, g.calm + 1)

/-- Lifts and limits on a target, with the reason that stands in the end. Where the effective floor lies above `CEILING`,
`CEILING` wins here: the spec does not order the two, and this is the model's choice (R128, log entry 100). -/
def clipTarget (s : State) (d : Fin 2) (t reason : Nat) : Nat × Nat :=
  let g := s.gov.die[d]
  let a := if t < liftOf g then (liftOf g, 5) else (t, reason)
  let b := if a.1 < floorEff s d then (floorEff s d, 6) else a
  if s.gov.params.ceiling < b.1 then (s.gov.params.ceiling, if g.vset = b.1 then 7 else b.2) else b

/-- The window ends for a die. The event of `SAT` comes when the flag goes from 0 to 1, not at every window that ends saturated:
the model's choice (R130, log entry 108). -/
def dieWindow (s : State) (d : Fin 2) : State :=
  let p := s.gov.params
  let g := s.gov.die[d]
  let w := worst s d 0
  let (t, r, calm) := loopTarget s d
  let (t, r) := clipTarget s d t r
  let t := if frozen s then max t g.vset else t
  let near := slackBelow s w p.near
  let satNow := near && g.vset == p.ceiling
  let s := s.modGov d fun g =>
    { g with calm := calm, minSlack := BitVec.ofNat 8 (minSlack s w),
             sat := if satNow then true else if w != 0 && !near then false else g.sat }
  let s := if satNow && !g.sat then raiseEvent s 3 else s
  setRail s d t r

/-- Parameters that wait come into force at a window boundary (R135). -/
def applyPending (s : State) : State :=
  match s.gov.pending with
  | some p => { s with gov.params := p, gov.pending := none, gov.heldConfig := s.gov.heldConfig || frozen s }
  | none => s

/-- Where the parameters of `s` put a die's rail at once: `FLOOR`, `FIXED_V`, within `CEILING`, or in DOZE the effective floor
(Tables 5-4 and 5-5); none in a state that holds the rails. -/
def heldTarget (s : State) (d : Fin 2) : Option (Nat × Nat) :=
  if govRuns s then
    some (clipTarget s d (if atFloor s d then s.gov.params.floor
      else if s.gov.params.fixed then s.gov.params.fixedV else s.gov.die[d].vset) 7)
  else if s.dev.state = .doze ∧ s.dev.dozeExit.isNone then some (floorEff s d, 7)
  else none

/-- At the end of a freeze, a rail that the parameters given in it would have lowered (R135). -/
def lowerHeld (s : State) (d : Fin 2) : State :=
  match heldTarget { s with gov.params := s.gov.pending.getD s.gov.params } d with
  | some (t, r) => if t < s.gov.die[d].vset then setRail s d t r else s
  | none => s

/-- A freeze ends: where a `GOVERNOR_CONFIG` was given or came into force during it, what it lowers is lowered now. -/
def lowerHeldRails (s : State) : State :=
  if frozen s || !s.gov.heldConfig then s else lowerHeld (lowerHeld { s with gov.heldConfig := false } 0) 1

/-- The freeze of a pour ends: the lifts go. -/
def endPourFreeze (s : State) : State :=
  lowerHeldRails { s with gov.pourFreeze := 0, gov.die := s.gov.die.map fun g => { g with pourLift := false } }

/-- One window of the freeze after a pour has passed (R131). -/
def countFreeze (s : State) : State :=
  if s.cfg.pour.isSome || s.gov.pourFreeze = 0 then s
  else if s.gov.pourFreeze = 1 then endPourFreeze s
  else { s with gov.pourFreeze := s.gov.pourFreeze - 1 }

/-- The pace counters' counts of the window shown in their paddocks, and cleared. -/
def latchPace (s : State) : State :=
  let s := s.gov.pace.foldl (fun (s : State) e =>
    { s with pdk := vmodN s.pdk e.pdk fun d => { d with paceCount := vmodN d.paceCount e.slot fun _ => BitVec.ofNat 24 (min (2 ^ 24 - 1) e.count) } }) s
  { s with gov.pace := s.gov.pace.map fun e =>
      { e with count := 0, first := e.first && (pdkAt s e.pdk).state != .live } }

/-- The reads of a window: each rail's voltage (R125), and with it the current and the status, whose times the spec leaves
open (R123, log entry 104). -/
def readRails (s : State) : State :=
  [0, 1].foldl (fun s d => avsPush (avsPush (avsPush s d .readV) d .readI) d .readStatus) s

/-- The window ends on both dies, under the parameters that come into force at this boundary and the `WINDOW` that it was
measured over (R128, R135). -/
def closeWindow (s : State) (window : Nat) : State :=
  let p := s.gov.params
  let s := dieWindow (dieWindow { s with gov.params := { p with window := window } } 0) 1
  { s with gov.params := p }

/-- The floor has been written to the die's rail, or `AVS_FAULT` stops writes; a rail on its way back to SERVICE has had it
once no floor write waits. -/
def floorWritten (s : State) (d : Fin 2) : Bool :=
  let g := s.gov.die[d]
  let waits := g.avs.any fun op => match op with
    | .write v => decide (v ≤ floorEff s d)
    | _ => false
  g.avsFault || (!waits && (s.dev.dozeExit.isSome || decide (g.vset ≤ floorEff s d)))

/-- The `SET_STATE` to DOZE replies DONE once the floor has been written (R402). -/
def dozeWritten (s : State) : State :=
  match s.dev.dozeEntry with
  | some id => if floorWritten s 0 && floorWritten s 1 then finishJob { s with dev.dozeEntry := none } id .done 0 [] else s
  | none => s

/-- `GOVERNOR_WINDOW`: the control loop where it runs; in DOZE the rails held at the effective floor, in SHUTTING_DOWN where
they are (Table 5-5). In these two states `MIN_SLACK` and `SAT` stay as they stand: the model's choice (R137, log entry 108). -/
def execGovernorWindow (s : State) : Host.Outcome State Fault Refusal :=
  .next (
    let window := s.gov.params.window
    let run (f : State → State) : State := readRails (latchPace (f (countFreeze (applyPending s))))
    match s.dev.state with
    | .halter | .recovery | .pouring | .service => run fun s => closeWindow s window
    | .doze => dozeWritten (run fun s => setRails s (if s.dev.dozeExit.isSome then fun _ => s.gov.params.ceiling else floorEff s) 7)
    | .shuttingDown => run id
    | .off | .starting | .stabled => s)

/-! ### AVSBus (R125) -/

/-- The first transaction of a die is done; the next goes out. -/
def avsNext (s : State) (d : Fin 2) : State :=
  let s := s.modGov d fun g => { g with avs := g.avs.drop 1, tries := 0 }
  match s.gov.die[d].avs with
  | op :: _ => s.emit (.avs d.val op)
  | [] => s

/-- `AVS_FAULT` sets; writes that wait are dropped. The event comes when the flag goes from 0 to 1: a further fault while it is
set raises none, which is the model's choice (R125, log entry 108). -/
def avsFail (s : State) (d : Fin 2) : State :=
  let old := s.gov.die[d].avsFault
  let s := s.modGov d fun g => { g with avsFault := true, avs := g.avs.take 1 ++ (g.avs.drop 1).filter fun o => o == .readV || o == .readI || o == .readStatus }
  if old then s else raiseEvent s 3

/-- `AVSBUS_RESPONSE` for the transaction under way on die `d`; `ok`: it came and its CRC matched. -/
def execAvsbusResponse (d : Fin 2) (ok : Bool) (mv : Nat) (s : State) : Host.Outcome State Fault Refusal :=
  let g := s.gov.die[d]
  .next (dozeWritten <| match g.avs with
  | [] => s
  | op :: _ =>
    if !ok then
      if 3 ≤ g.tries then avsNext (avsFail s d) d
      else (s.modGov d fun g => { g with tries := g.tries + 1 }).emit (.avs d.val op)
    else match op with
    | .write _ | .readStatus => avsNext s d
    | .readI => avsNext { s with pins.iread := vset s.pins.iread d (BitVec.ofNat 16 mv) } d
    | .readV =>
      let s := s.modGov d fun g => { g with vread := mv }
      let far := decide (g.vset + 25 < mv) || decide (mv + 25 < g.vset)
      avsNext (if far && decide (g.wroteAt + 100000 ≤ s.dev.yard) then avsFail s d else s) d)

/-! ### GOVERNOR_CONFIG (R127, R135, Table 13-16) -/

/-- The parameters of the block; `none` for a value outside Table 5-4. -/
def govParams (c : Cmd) : Option GovParams :=
  let p : GovParams :=
    { fixed := par c 0 1 == 1, margin := par c 1 1, near := par c 2 1, holdWin := par c 3 1, floor := par c 4 2,
      ceiling := par c 6 2, fixedV := par c 8 2, tguard := par c 10 1, twarn := par c 11 1, window := par c 12 4 / 10,
      fifoMask := some (BitVec.ofNat 128 (par c 16 16)) }
  if par c 0 1 ≤ 1 ∧ 5 ≤ p.margin ∧ p.margin ≤ 100 ∧ p.near + 5 ≤ p.margin ∧ 1 ≤ p.holdWin ∧ p.holdWin ≤ 64
      ∧ 600 ≤ p.floor ∧ p.floor ≤ 900 ∧ p.floor % 5 = 0 ∧ 750 ≤ p.ceiling ∧ p.ceiling ≤ 900 ∧ p.ceiling % 5 = 0
      ∧ p.floor ≤ p.ceiling ∧ p.floor ≤ p.fixedV ∧ p.fixedV ≤ p.ceiling ∧ p.fixedV % 5 = 0 ∧ p.tguard ≤ 10
      ∧ 60 ≤ p.twarn ∧ p.twarn ≤ 105 ∧ par c 12 4 % 10 = 0 ∧ 10 ≤ par c 12 4 ∧ par c 12 4 ≤ 10000 then some p
  else none

def governorConfigSpec : CmdSpec where
  opcode := 0x0900
  states := stHPSDR
  size := sizeIs 40
  params := fun c _ => paramChecks (resZero c 32 8) (govParams c).isSome

/-- A new floor above the present rail raises it at once; everything else waits for the window boundary. -/
def governorConfigBody (c : Cmd) (s : State) : Except Deny State :=
  match govParams c with
  | none => .error (badParam 4)
  | some p =>
    let s := { s with gov.pending := some p, gov.heldConfig := s.gov.heldConfig || frozen s }
    .ok (doneWith c (raiseTo (raiseTo s 0 (floorWith s p 0) 6) 1 (floorWith s p 1) 6) [])

/-- `GOVERNOR_CONFIG`. -/
def execGovernorConfig (c : Cmd) (s : State) : Host.Outcome State Fault Refusal :=
  .next (runCmd governorConfigSpec governorConfigBody c s)

end Sys2Proof.Machine
end

