-- ==== Sys2Proof/Machine/LinkOps.lean ====
section
/-! DEFINITION. Machine/LinkOps.lean: links, port groups, ingest FIFOs, the reassembler and the forms in which lines reach
the adapters and the pixel store (09_coaxpress_ports.md). -/

namespace Sys2Proof.Machine

open Sys2Proof

/-! ### Links and groups (R230, R233) -/

/-- Link state codes (Table 9-3). -/
def linkCode : LinkState → Nat
  | .off => 0 | .discovering => 1 | .up => 2 | .streaming => 3 | .lost => 4 | .powerFault => 5 | .failed => 6

/-- Bits of `CXP_ERR` (Table 9-14). -/
def cxLost : Nat := 31
def cxPwr : Nat := 30
def cxOvf : Nat := 29
def cxCrc : Nat := 28
def cxAckMiss : Nat := 27
def cxLogOvf : Nat := 26
def cxShort : Nat := 25
def cxLong : Nat := 24
def cxPdk : Nat := 23
def cxEvent : Nat := 22

/-- The master link of a link's group: the multiple of its size at or below it. -/
def masterOf (s : State) (n : Fin 128) : Fin 128 :=
  ⟨n.val / 2 ^ s.cxp.links[n].gsize * 2 ^ s.cxp.links[n].gsize, Nat.lt_of_le_of_lt (Nat.div_mul_le_self _ _) n.isLt⟩

/-- Links `m` to `m + k - 1`. -/
def linksFrom (m k : Nat) : List (Fin 128) := (List.finRange 128).filter fun x => decide (m ≤ x.val) && decide (x.val < m + k)

/-- The links of the group whose master is `m`. -/
def groupLinks (s : State) (m : Fin 128) : List (Fin 128) := linksFrom m.val (2 ^ s.cxp.links[m].gsize)

/-- Every link of a list changed. -/
def State.modLinks (s : State) (l : List (Fin 128)) (f : Link → Link) : State := l.foldl (fun s n => s.modLink n f) s

/-- A bit of `CXP_ERR` sets. -/
def linkErr (s : State) (n : Fin 128) (b : Nat) : State := s.modLink n fun l => { l with err := l.err ||| BitVec.twoPow 32 b }

/-- The link is its own group's master. -/
def isMaster (s : State) (n : Fin 128) : Bool := masterOf s n == n && s.cxp.links[n].grouped

/-- The enable of Power over CoaXPress, at every pin with the enable role that names the link (Table 17-3). -/
def pocxpPin (n : Fin 128) (p : Gpio) : Bool := p.actFunc == 8 && p.actRole == 0 && p.sel.toNat == n.val
def hasPocxp (s : State) (n : Fin 128) : Bool := s.pins.gpio.toList.any (pocxpPin n)
def setPocxp (s : State) (n : Fin 128) (b : Bool) : State :=
  let pins := ((List.finRange 96).filter fun g => pocxpPin n s.pins.gpio[g] && !s.pins.gpio[g].switching)
  pins.foldl (fun s g => (s.modGpio g fun p => { p with lvl := b }).emitPad (.pin g.val b)) (s.modLink n fun l => { l with pocxp := b })

/-- A link to OFF: receiver and uplink idle, PoCXP enable deasserted. -/
def linkOff (s : State) (n : Fin 128) : State :=
  (if s.cxp.links[n].pocxp then setPocxp s n false else s).modLink n fun l =>
    { l with state := .off, wait := .none, rate := 0, eq := 0, grouped := l.grouped && l.gsize != 0, ackWait := [] }

/-! ### Ingest FIFOs (R243, R244) -/

def packetsLevel (l : List Packet) : Nat := (l.map fun p => p.bytes.length).foldl (· + ·) 0
def fifoLevel (l : Link) : Nat := packetsLevel l.fifo

/-- The watermark notice of a link at the FIFO's present level; a rise of the live bit drives the governor (R129). -/
def fifoNotice (s : State) (n : Fin 128) : State :=
  let l := s.cxp.links[n]
  let x := noticeLevel l.notice (64 * l.wmHigh) (64 * l.wmLow) (fifoLevel l)
  let s := s.modLink n fun l => { l with notice := x }
  if !l.notice.live && x.live then ingestRaise s n.val else s

def setFifo (s : State) (n : Fin 128) (f : List Packet) : State := fifoNotice (s.modLink n fun l => { l with fifo := f }) n

/-- The ingest FIFOs of some links are emptied. -/
def emptyFifos (s : State) (l : List (Fin 128)) : State := l.foldl (fun s n => setFifo s n []) s

/-- Links become port groups of one, with the default settings of Table 9-4; what their old groups held is given up. -/
def toSingles (s : State) (l : List (Fin 128)) : State :=
  l.foldl (fun s n => (setFifo (s.modLink n fun x =>
    { x with gsize := 0, skip := false, lanes := Vector.replicate 4 [], sent := Vector.replicate 4 0 }) n []).modGroup
    n fun g => { run := g.run + 1, ctrl := g.ctrl, tagCtl := g.tagCtl }) s

/-- The old groups of some links are dissolved. -/
def dissolve (s : State) (l : List (Fin 128)) : State :=
  l.foldl (fun s n => if s.cxp.links[n].gsize = 0 then s else toSingles s (groupLinks s (masterOf s n))) s

/-! ### Lines (R234, R246) -/

/-- Bits of a pixel as the camera packs it, and its bits of value. -/
def pixBits : Nat → Nat
  | 1 => 10 | 2 => 12 | 3 => 14 | _ => 8

/-- Bytes of a whole line as packed. -/
def lineBytes (g : GroupSet) : Nat := (g.width * pixBits g.format + 7) / 8

/-- Pixel `x` of a packed line: formats above 8 bits are packed most significant bit first (log entry 41). -/
def pixelOf (g : GroupSet) (l : List Byte) (x : Nat) : Nat :=
  let w := pixBits g.format
  if w = 8 then (byteAt l x).toNat
  else
    let b := x * w
    let v := (byteAt l (b / 8)).toNat * 65536 + (byteAt l (b / 8 + 1)).toNat * 256 + (byteAt l (b / 8 + 2)).toNat
    v / 2 ^ (24 - b % 8 - w) % 2 ^ w

/-- A pixel is a pair of tokens on its lane (R246). -/
def pixPair (g : GroupSet) : Bool := decide (1 ≤ g.format) && decide (g.format ≤ 3) && !g.pix

/-- A pixel as one byte: its eight most significant bits. -/
def pixTop (g : GroupSet) (v : Nat) : Byte := BitVec.ofNat 8 (v / 2 ^ (pixBits g.format - 8))

/-- Pixels of a slice (R234) and data tokens of a lane (R247). -/
def sliceOf (g : GroupSet) (size : Nat) : Nat := g.width / size
def laneCount (g : GroupSet) (size : Nat) : Nat := (if pixPair g then 2 else 1) * sliceOf g size / g.lanes

/-- The header tokens of one lane of a line (Table 9-7). -/
def headerTokens (g : GroupSet) (size j lane : Nat) (l : Line) : List Byte :=
  leBytes 4 l.seq.toNat ++ leBytes 8 l.pos.toNat ++ [l.flags, BitVec.ofNat 8 (j + 8 * lane)] ++ leBytes 2 (laneCount g size)

/-- Data token `i` of a lane: pixel x of the slice is carried on lane x mod `LANES` (R246). -/
def dataToken (g : GroupSet) (size j lane i : Nat) (l : Line) : Byte :=
  let n := if pixPair g then i / 2 else i
  let v := pixelOf g l.bytes (j * sliceOf g size + n * g.lanes + lane)
  if pixPair g then byteAt (leBytes 2 v) (i % 2) else pixTop g v

/-- Token `i` of one lane of a line: 16 header tokens, the data, the trailer (R247). -/
def laneToken (g : GroupSet) (size j lane i : Nat) (l : Line) : Byte :=
  if i < 16 then byteAt (headerTokens g size j lane l) i
  else if i < 16 + laneCount g size then dataToken g size j lane (i - 16) l
  else l.trailer

/-- Tokens of a lane that the line's bytes so far give: the header from the line start on (R248), the trailer once the line
is whole. -/
def laneReady (g : GroupSet) (size j lane : Nat) (l : Line) : Nat :=
  if l.done then 17 + laneCount g size
  else
    let px := min (sliceOf g size) (min g.width (8 * l.bytes.length / pixBits g.format) - j * sliceOf g size)
    16 + (if pixPair g then 2 else 1) * ((px + g.lanes - 1 - lane) / g.lanes)

/-! ### The reassembler (R234, R240, R243, R245) -/

/-- Packet tags count modulo 256 (log entry 103): how far `b` lies ahead of `a`. -/
def tagAhead (a b : Nat) : Nat := (b + 256 - a % 256) % 256

/-- A tag that arrives, counted without wrap from that of the packet before it. -/
def tagOf (g : Group) (tag : Nat) : Nat :=
  let d := tagAhead g.rxRef tag
  if d < 128 then g.rxRef + d else g.rxRef + d - 256

/-- The lowest tag still to arrive, from `e` on, and the tags above it that have, among those of `l`. -/
def absorbTags : Nat → Nat → List Nat → Nat × List Nat
  | 0, e, l => (e, l)
  | k + 1, e, l => if l.contains e then absorbTags k (e + 1) (l.filter (· != e)) else (e, l)

/-- A packet with tag `tag` has arrived on link `n`. The first of a run's tags is that of the first packet on the link at which
its first line started (log entry 103). -/
def arriveTag (g : Group) (n : Fin 128) (tag : Nat) : Group :=
  let a := tagOf g tag
  let l := a :: g.rxAhead
  match g.rxTag.or (if n.val = g.startLink then some a else none) with
  | some e => let r := absorbTags (l.length + 1) e l; { g with rxRef := a, rxTag := some r.1, rxAhead := r.2 }
  | none => { g with rxRef := a, rxAhead := l }

/-- After a packet has arrived, the last one of its line or not: each line whose last packet and all before it have come is
received, and when the group is stopping and no line is left its reception is over (R256). -/
def arriveLast (g : Group) (last : Bool) : Group :=
  let l := if last then g.rxRef :: g.rxLast else g.rxLast
  let d := l.filter fun a => match g.rxTag with | some e => decide (a < e) | none => false
  let ends := g.stopping && !d.isEmpty && decide (g.rx ≤ d.length)
  { g with rx := g.rx - d.length, rxLast := l.filter (!d.contains ·), taking := g.taking && !ends, stopping := g.stopping && !ends }

/-- A packet in a link's FIFO: before those of its run with later tags, since packets are taken in the order of their tags. -/
def queuePacket (p : Packet) : List Packet → List Packet
  | [] => [p]
  | q :: r => if q.run = p.run ∧ p.tag < q.tag then p :: q :: r else q :: queuePacket p r

/-- The head packet of a link's FIFO in a run. -/
def headIn (s : State) (run : Nat) (n : Fin 128) : Option (Fin 128 × Packet) :=
  match s.cxp.links[n].fifo with
  | p :: _ => if p.run = run then some (n, p) else none
  | [] => none

/-- The packet that the reassembler takes next for a line: that of the next tag, or the first on the line's own link when none
of the run has been taken yet. -/
def nextPacket (s : State) (m : Fin 128) (l : Line) : Option (Fin 128 × Packet) :=
  let g := s.cxp.groups[m]
  ((groupLinks s m).filterMap (headIn s l.run)).find? fun x =>
    match (if g.tagRun = l.run then g.nextTag else none) with
    | some t => x.2.tag == t
    | none => x.1.val == l.link

/-- Every lane of link `n`'s adapter has taken what the line gives it so far. -/
def adapterCaught (s : State) (m n : Fin 128) (l : Line) : Bool :=
  let g := s.cxp.groups[m].set
  (List.finRange 4).all fun i =>
    decide (g.lanes ≤ i.val) || decide (laneReady g (2 ^ s.cxp.links[m].gsize) (n.val - m.val) i l ≤ s.cxp.links[n].sent[i])

/-- The adapters that take the line have all done so (R248): one that has not holds the reassembler. -/
def adaptersCaught (s : State) (m : Fin 128) (l : Line) : Bool :=
  s.cxp.groups[m].toAdapt.all fun n => if h : n < 128 then adapterCaught s m ⟨n, h⟩ l else true

/-- A line gets no more bytes: filled or cut to `WIDTH` and flagged (R245). -/
def wholeLine (s : State) (m : Fin 128) (l : Line) (bits : Nat) : State :=
  let g := s.cxp.groups[m].set
  let need := lineBytes g
  let short := decide (l.bytes.length < need) && bits == 0
  let long := decide (need < l.bytes.length)
  let tr := l.trailer.toNat ||| bits ||| b2n short ||| 2 * b2n long
  let s := if short then linkErr s m cxShort else s
  let s := if long then linkErr s m cxLong else s
  s.modGroup m fun g => { g with line := some { l with bytes := padTo need l.bytes, trailer := BitVec.ofNat 8 tr, done := true } }

/-- A line begins to be reassembled: the header of each of its adapters' lanes comes first. -/
def beginLine (s : State) (m : Fin 128) (l : Line) (rest : List Line) : State :=
  let s := (groupLinks s m).foldl (fun s n => if l.adapt.contains n.val then s.modLink n fun x => { x with sent := Vector.replicate 4 0 } else s) s
  s.modGroup m fun g => { g with line := some l, starts := rest, toAdapt := if l.drop then [] else l.adapt, toStore := l.store && !l.drop }

/-- Every consumer has taken the line: it is counted (R258) and gives way to the next. -/
def lineGone (s : State) (m : Fin 128) (l : Line) : State :=
  let s := if !l.drop && (l.store || !l.adapt.isEmpty) then
      s.modLinks (groupLinks s m) fun x => { x with lines := x.lines + 1 } else s
  s.modGroup m fun g => { g with line := none }

/-- Bytes that the reassembler takes from a packet at a time: what one move lets the adapters take, all where none does. -/
def pieceLen (s : State) (m : Fin 128) (p : Packet) : Nat := if s.cxp.groups[m].toAdapt.isEmpty then p.bytes.length else 1

/-- Bytes of the packet whose turn it is join the line; with the last of them, zero bytes in place of those lost (R245), the
packet's flags and the end of the line. -/
def takePiece (s : State) (m : Fin 128) (l : Line) (n : Fin 128) (p : Packet) : State :=
  let k := pieceLen s m p
  let rest := p.bytes.drop k
  let l := { l with bytes := l.bytes ++ p.bytes.take k }
  if rest ≠ [] then
    let s := setFifo s n ({ p with bytes := rest } :: s.cxp.links[n].fifo.drop 1)
    s.modGroup m fun g => { g with nextTag := some p.tag, tagRun := l.run, line := some l }
  else
    let s := setFifo s n (s.cxp.links[n].fifo.drop 1)
    let tr := l.trailer ||| (if p.crcOk then 0 else 8) ||| (if p.lost = 0 then 0 else 4)
    let l := { l with bytes := l.bytes ++ List.replicate p.lost 0, trailer := tr }
    let s := s.modGroup m fun g => { g with nextTag := some (p.tag + 1), tagRun := l.run }
    if p.last then wholeLine s m l 0 else s.modGroup m fun g => { g with line := some l }

/-- No packet of the line is left to take. A line that is cut, or whose run of reception is over, ends with what it has. -/
def endRun (s : State) (m : Fin 128) (l : Line) : Option State :=
  if l.cut = 0 ∧ l.run = s.cxp.groups[m].run then none
  else
    let s := (groupLinks s m).foldl (fun s n => setFifo s n (s.cxp.links[n].fifo.filter fun p => p.run != l.run)) s
    some (wholeLine (s.modGroup m fun g => { g with nextTag := none }) m l (if l.cut = 0 then 8 else l.cut / 2 * 2))

/-- One move of the reassembler; none when it waits. -/
def settleStep (s : State) (m : Fin 128) : Option State :=
  let g := s.cxp.groups[m]
  match g.line with
  | none =>
    match g.starts with
    | [] => none
    | l :: r => some (beginLine s m l r)
  | some l =>
    if l.done then if g.toAdapt.isEmpty && !g.toStore then some (lineGone s m l) else none
    else if !adaptersCaught s m l then none
    else match nextPacket s m l with
      | some (n, p) => some (takePiece s m l n p)
      | none => endRun s m l

def settleGroupFuel : Nat → State → Fin 128 → State
  | 0, s, _ => s
  | k + 1, s, m =>
    match settleStep s m with
    | none => s
    | some t => settleGroupFuel k t m

/-- The reassembler moves as far as it can: each move takes a piece of a packet, begins, fills or gives up a line. -/
def settleGroup (s : State) (m : Fin 128) : State :=
  let n := ((groupLinks s m).map fun n => fifoLevel s.cxp.links[n] + s.cxp.links[n].fifo.length).foldl (· + ·) 0
  settleGroupFuel (n + 3 * s.cxp.groups[m].starts.length + 4) s m

/-- A line gets no more bytes than the FIFOs hold, with trailer bits `bits`; one that is whole or cut already stays. -/
def cutLine (bits : Nat) (l : Line) : Line := if l.done || l.cut != 0 then l else { l with cut := bits }

/-- The line that comes in: the last one started. -/
def cutLatest (s : State) (m : Fin 128) (bits : Nat) : State :=
  let g := s.cxp.groups[m]
  settleGroup (s.modGroup m fun g' => { g' with
    line := if g.starts.isEmpty then g.line.map (cutLine bits) else g.line,
    starts := g.starts.dropLast ++ (g.starts.getLast?.map (cutLine bits)).toList,
    rx := 0, rxLast := [], taking := false, stopping := false, run := g.run + 1, rxTag := none, rxAhead := [] }) m

/-- The lines of a group that are not whole get no more bytes than the FIFOs hold, with trailer bits `bits` (bit 0
stands for a short line, whose flag follows from its bytes); the run of reception ends. -/
def cutLines (s : State) (m : Fin 128) (bits : Nat) : State :=
  settleGroup (s.modGroup m fun g =>
    { g with line := g.line.map (cutLine bits), starts := g.starts.map (cutLine bits), rx := 0, rxLast := [], taking := false,
             stopping := false, run := g.run + 1, rxTag := none, rxAhead := [] }) m

/-! ### Reception (R255, R256) -/

/-- Reception starts: the log is emptied, and bytes are taken from the next line start. -/
def startGroup (s : State) (m : Fin 128) : State :=
  let s := cutLines s m 1
  let s := s.modGroup m fun g => { g with log := [], free := 0, nextTag := none, resume := false }
  s.modLinks (groupLinks s m) fun l => { l with state := .streaming, skip := false }

/-- Reception stops: the line in progress is completed, and what follows is discarded. -/
def stopGroup (s : State) (m : Fin 128) : State :=
  let s := s.modGroup m fun g => { g with stopping := g.rx != 0, taking := g.rx != 0, resume := false }
  s.modLinks (groupLinks s m) fun l => if l.state = .streaming then { l with state := .up } else l

/-- What R254 does to the group of a link that is lost: bytes stop, the line in progress ends LOST, the log is emptied. -/
def groupLost (s : State) (m : Fin 128) : State :=
  let was := s.cxp.groups[m].resume || (groupLinks s m).any fun n => s.cxp.links[n].state == .streaming
  let s := stopGroup s m
  let s := cutLines s m 16
  s.modGroup m fun g => { g with log := [], resume := was }

/-- R249: a paddock leaves LIVE: its adapters discard the rest of every line they have begun or were to take. -/
def adapterDrop (s : State) (n : Fin 128) : State :=
  let m := masterOf s n
  let g := s.cxp.groups[m]
  let f (l : Line) : Line := { l with adapt := l.adapt.filter (· != n.val) }
  let busy := !(s.cxp.links[n].lanes.toList.all List.isEmpty) || g.toAdapt.contains n.val
    || (g.line.toList ++ g.starts).any fun l => l.adapt.contains n.val && !l.done
  let s := if busy then linkErr s n cxPdk else s
  let s := s.modLink n fun l => { l with lanes := Vector.replicate 4 [] }
  settleGroup (s.modGroup m fun g =>
    { g with toAdapt := g.toAdapt.filter (· != n.val), starts := g.starts.map f,
             line := g.line.map fun l => if l.done then l else f l }) m

def adaptersDrop (s : State) (k : Nat) : State :=
  ((List.finRange 128).filter fun n => (adapterEnd n.val 0).k == k).foldl adapterDrop s

/-- An entry put in a group's trigger log; a full log loses its oldest (R239). -/
def enterLog (s : State) (m : Fin 128) (e : LogEntry) : State :=
  let g := s.cxp.groups[m]
  if g.log.length < 64 then s.modGroup m fun g => { g with log := g.log ++ [e], logUndo := none }
  else
    let l := s.cxp.links[m]
    let s := linkErr (s.modLink m fun l => { l with cntMiss := satAdd l.cntMiss 1 }) m cxLogOvf
    s.modGroup m fun g => { g with log := g.log.drop 1 ++ [e], logUndo := some (g.log, l.cntMiss, l.err.getLsbD cxLogOvf) }

/-- The states of R252, in which stores run with decimation of at least 4 and truncation. -/
def storeReduced (s : State) : Bool :=
  match s.dev.state with
  | .halter | .pouring | .recovery => true
  | _ => false

def storeDecim (s : State) (st : Store) : Nat := if storeReduced s then max st.decim 4 else st.decim
def storeTrunc (s : State) (st : Store) : Bool := st.trunc || storeReduced s

/-- Bytes per pixel of a record (Table 9-9), and its length (R251). -/
def recordBpp (g : GroupSet) (trunc : Bool) : Nat := if decide (1 ≤ g.format) && decide (g.format ≤ 3) && !trunc then 2 else 1
def recordLen (g : GroupSet) (trunc : Bool) : Nat := (64 + g.width * recordBpp g trunc + 63) / 64 * 64

/-- Records that fit in a ring. -/
def ringRecords (len rec_ : Nat) : Nat := (len - 4096) / rec_

/-- The record of a line (Table 9-9). -/
def recordOf (g : GroupSet) (trunc : Bool) (m idx : Nat) (l : Line) : List Byte :=
  let px := (List.range g.width).map (pixelOf g l.bytes)
  let data := if recordBpp g trunc = 2 then px.flatMap (leBytes 2) else px.map (pixTop g)
  padTo (recordLen g trunc)
    (padTo 64 (leBytes 4 idx ++ leBytes 4 l.seq.toNat ++ leBytes 8 l.pos.toNat ++ leBytes 8 l.start
      ++ [l.flags, l.trailer, BitVec.ofNat 8 (recordBpp g trunc), BitVec.ofNat 8 m] ++ leBytes 4 g.width) ++ data)

/-- A record written to a host ring as the preview (R253); one that cannot be written is dropped. -/
def previewPut (s : State) (m : Fin 128) (trunc : Bool) (l : Line) : State :=
  let g := s.cxp.groups[m]
  match g.store.pport with
  | none => s
  | some p =>
    let p : Fin 2 := Fin.ofNat 2 p
    let due := g.store.pcount % g.store.pdecim = 0
    let s := s.modGroup m fun g => { g with store := { g.store with pcount := g.store.pcount + 1 } }
    let n := ringRecords g.store.plen (recordLen g.set trunc)
    if due ∧ s.hosts.port[p].linkUp ∧ masters s.hosts.port[p] ∧ n ≠ 0 then
      let i := g.store.pnext
      let record := (g.store.pbase + 4096 + i.toNat % n * recordLen g.set trunc, recordOf g.set trunc m.val i.toNat l)
      (hostOut s p [record, (g.store.pbase, leBytes 4 (i + 1).toNat)]).modGroup m fun g =>
        { g with store := { g.store with pnext := i + 1 } }
    else s

end Sys2Proof.Machine
end

