-- ==== Sys2Proof/Machine/LinkRows.lean ====
section
/-! DEFINITION. Machine/LinkRows.lean: the events of the CoaXPress links (09_coaxpress_ports.md): packets and lines,
adapters and stores, control acknowledgments, discovery, loss and re-discovery. -/

namespace Sys2Proof.Machine

open Sys2Proof

/-! ### Lines and packets (R240, R234, R245) -/

/-- Entries of a trigger log older than `MATCH_MAX` at a line start, and the rest (R240). -/
def splitLog (g : GroupSet) (t : Nat) : List LogEntry → Nat × List LogEntry
  | [] => (0, [])
  | e :: r => if (t : Int) - e.t > g.mmax then let x := splitLog g t r; (x.1 + 1, x.2) else (0, e :: r)

/-- Header flags of a line (Table 9-7). -/
def lineFlags (g : GroupSet) (matched free : Bool) : BitVec 8 := BitVec.ofNat 8 (b2n matched + 2 * b2n free + 4 * b2n (pixPair g))

/-- The transceiver-island cycle of 3.2 ns that contains a yard time in ns. -/
def linkCycle (t : Nat) : Nat := 10 * t / 32

/-- The log of a group as it was before the trigger of the same transceiver-island cycle, whose entry comes after the line start's
match (R241): that entry, where there is one. An entry that it pushed out of a full log is back. -/
def logBefore (s : State) (m : Fin 128) (t : Nat) : State × Option LogEntry :=
  let g := s.cxp.groups[m]
  match g.log.getLast? with
  | some e =>
    if linkCycle e.t = linkCycle t then
      match g.logUndo with
      | some (old, miss, ovf) =>
        ((s.modGroup m fun g => { g with log := old, logUndo := none }).modLink m fun l =>
          { l with cntMiss := miss, err := if ovf then l.err else l.err &&& ~~~(BitVec.twoPow 32 cxLogOvf) }, some e)
      | none => (s.modGroup m fun g => { g with log := g.log.dropLast }, some e)
    else (s, none)
  | none => (s, none)

/-- The stamp of a line start by the log as it stands (R240): the state with the log and the counts, and the line. -/
def stampBy (s : State) (m : Fin 128) (t : Nat) : State × Line :=
  let g := s.cxp.groups[m]
  let n := g.free + 1
  let s := s.modGroup m fun g => { g with free := n }
  if !g.set.doMatch then
    (s, { seq := BitVec.ofNat 32 n, pos := (vget ({} : Encoder) s.trig.enc g.set.enc).pos, flags := lineFlags g.set false true,
          start := t, number := n, run := g.run })
  else
    let (miss, log) := splitLog g.set t g.log
    let s := s.modLink m fun l => { l with cntMiss := satAdd l.cntMiss miss }
    match log with
    | e :: r =>
      if g.set.mmin ≤ t - e.t then
        let s := s.modGroup m fun g => { g with log := r }
        (s.modLink m fun l => { l with lastSeq := e.seq },
          { seq := e.seq, pos := e.pos, flags := lineFlags g.set true false, start := t, number := n, run := g.run })
      else
        let s := s.modGroup m fun g => { g with log := log }
        (s.modLink m fun l => { l with cntUnm := satAdd l.cntUnm 1 },
          { flags := lineFlags g.set false false, start := t, number := n, drop := g.set.unm, run := g.run })
    | [] =>
      let s := s.modGroup m fun g => { g with log := [] }
      (s.modLink m fun l => { l with cntUnm := satAdd l.cntUnm 1 },
        { flags := lineFlags g.set false false, start := t, number := n, drop := g.set.unm, run := g.run })

/-- The stamp of a line start (R240); a trigger of the same transceiver-island cycle is entered after it (R241). -/
def stampLine (s : State) (m : Fin 128) (t : Nat) : State × Line :=
  let b := logBefore s m t
  let a := stampBy b.1 m t
  match b.2 with
  | some e => (enterLog a.1 m e, a.2)
  | none => a

/-- The edge paddock of a link's adapter (R67), and whether it takes a line that starts now (R249). -/
def edgePdk (n : Fin 128) : Nat := (adapterEnd n.val 0).k
def adapterOpen (s : State) (n : Fin 128) : Bool := (pdkAt s (edgePdk n)).state == .live && (pdkAt s (edgePdk n)).relWrite

/-- Who takes the line: the adapters that are open, the others discarding their slices; the store on every Nth line. -/
def lineTakers (s : State) (m : Fin 128) (l : Line) : State × Line :=
  let g := s.cxp.groups[m]
  let all := if g.set.adapt then groupLinks s m else []
  let s := (all.filter fun n => !adapterOpen s n).foldl (fun s n => linkErr s n cxPdk) s
  let takes := g.store.on && g.store.count % storeDecim s g.store == 0
    && ringRecords g.store.len (recordLen g.set (storeTrunc s g.store)) != 0
  let s := s.modGroup m fun g => { g with store := if g.store.on then { g.store with count := g.store.count + 1 } else g.store }
  (s, { l with adapt := (all.filter (adapterOpen s)).map Fin.val, store := takes })

/-- A line start at the pins of a link, at yard time `t` in ns. -/
def lineStart (s : State) (n : Fin 128) (t : Nat) : State :=
  let m := masterOf s n
  if s.cxp.links[n].state = .streaming then
    let s := s.modLinks (groupLinks s m) fun l => { l with lastStart := t, skip := false }
    let a := stampLine s m t
    let b := lineTakers a.1 m a.2
    settleGroup (b.1.modGroup m fun g =>
      { g with starts := g.starts ++ [{ b.2 with link := n.val }], startLink := if g.taking then g.startLink else n.val,
               taking := true, rx := g.rx + 1, stopping := false }) m
  else if s.cxp.groups[m].stopping then cutLines s m 1
  else s

/-- `LINE_START` (R240). -/
def execLineStart (n : Fin 128) (t : Nat) (s : State) : Host.Outcome State Fault Refusal := .next (lineStart s n t)

/-- A packet that comes on link `n` more than 16 tags ahead of the lowest tag still to arrive, or with a tag that has arrived
(R234); before the run's first tag is known, one that makes it known where an earlier one came that far off. -/
def outOfOrder (s : State) (m n : Fin 128) (tag : Nat) : Bool :=
  let g := s.cxp.groups[m]
  let a := tagOf g tag
  match g.rxTag with
  | some e => decide (a < e) || decide (e + 16 < a) || g.rxAhead.contains a
  | none => n.val == g.startLink && g.rxAhead.any fun x => decide (x ≤ a) || decide (a + 16 < x)

/-- A packet error of a link (Table 9-14, Table 9-16). -/
def packetError (s : State) (n : Fin 128) : State :=
  (linkErr s n cxCrc).modLink n fun l => { l with cntCrc := satAdd l.cntCrc 1 }

/-- A packet enters the ingest FIFO, as far as there is room (R245). -/
def ingest (s : State) (n : Fin 128) (p : Packet) : State :=
  let l := s.cxp.links[n]
  let room := if l.skip then 0 else 65536 - fifoLevel l
  let p := { p with bytes := p.bytes.take room, lost := p.bytes.length - room }
  let s := if p.lost = 0 || l.skip then s
    else (linkErr s n cxOvf).modLink n fun l => { l with skip := true, cntOvf := satAdd l.cntOvf 1 }
  setFifo s n (queuePacket p s.cxp.links[n].fifo)

def streamPacket (s : State) (n : Fin 128) (tag : Nat) (bytes : List Byte) (crcOk last : Bool) : State :=
  let m := masterOf s n
  let l := s.cxp.links[n]
  if !(s.cxp.groups[m].taking && (l.state == .streaming || (l.state == .up && s.cxp.groups[m].stopping))) then s
  else
    let s := if crcOk then s else packetError s n
    if outOfOrder s m n tag then cutLatest (if crcOk then packetError s n else s) m 8
    else
      let s := s.modGroup m fun g => arriveTag g n tag
      let s := ingest s n { tag := s.cxp.groups[m].rxRef, bytes := bytes, crcOk := crcOk, last := last, run := s.cxp.groups[m].run }
      settleGroup (s.modGroup m fun g => arriveLast g last) m

/-- `STREAM_PACKET` (R234, R245). -/
def execStreamPacket (n : Fin 128) (tag : Nat) (bytes : List Byte) (crcOk last : Bool) (s : State) :
    Host.Outcome State Fault Refusal := .next (streamPacket s n tag bytes crcOk last)

/-! ### Adapters and stores (R247, R249, R251) -/

/-- Lane `i` of link `n`'s adapter takes the tokens that the line gives it, as far as its FIFO of 16 entries has room (R445);
the first of them is presented. -/
def lanePut (s : State) (m n : Fin 128) (l : Line) (i : Fin 4) : State :=
  let g := s.cxp.groups[m].set
  let size := 2 ^ s.cxp.links[m].gsize
  let x := s.cxp.links[n]
  let k := min (16 - x.lanes[i].length) (laneReady g size (n.val - m.val) i l - x.sent[i])
  if g.lanes ≤ i.val ∨ k = 0 then s
  else
    let new := (List.range k).map fun t => laneToken g size (n.val - m.val) i (x.sent[i] + t) l
    settleShown (adapterPresent (s.modLink n fun x =>
      { x with lanes := vset x.lanes i (x.lanes[i] ++ new), sent := vset x.sent i (x.sent[i] + k) }) n.val i)

/-- Tokens of a line that every lane of the adapter has taken. -/
def adapterSent (s : State) (n : Fin 128) : Nat := s.cxp.links[n].sent.foldl (· + ·) 0

/-- One move of link `n`'s adapter: its lanes take what the line gives them; with the whole line taken it waits for the next.
The reassembler then goes on. None where nothing moves. -/
def adapterMove (s : State) (n : Fin 128) : Option State :=
  let m := masterOf s n
  match s.cxp.groups[m].line with
  | none => none
  | some l =>
    if !s.cxp.groups[m].toAdapt.contains n.val then none
    else
      let t := if adapterOpen s n then (List.finRange 4).foldl (fun s i => lanePut s m n l i) s else linkErr s n cxPdk
      if !adapterOpen s n || (l.done && adapterCaught t m n l) then
        some (settleGroup (t.modGroup m fun g => { g with toAdapt := g.toAdapt.filter (· != n.val) }) m)
      else if adapterSent t n = adapterSent s n then none
      else some (settleGroup t m)

/-- The adapter moves until it waits; `k` bounds its moves. -/
def adapterMoves (n : Fin 128) : Nat → State → State
  | 0, s => s
  | k + 1, s =>
    match adapterMove s n with
    | some t => adapterMoves n k t
    | none => s

/-- Moves that an adapter can make at most: one for each token of its lanes, and one to end each line. -/
def adapterFuel (s : State) (n : Fin 128) : Nat :=
  let m := masterOf s n
  (s.cxp.groups[m].starts.length + 2) * (4 * laneCount s.cxp.groups[m].set (2 ^ s.cxp.links[m].gsize) + 70)

def adapterTake (s : State) (n : Fin 128) : State := adapterMoves n (adapterFuel s n) s

/-- `ADAPTER_LINE` (R247): the adapter goes on with its line as far as its lanes take it; while its paddock is not LIVE it
discards its slice (R249). -/
def execAdapterLine (n : Fin 128) (s : State) : Host.Outcome State Fault Refusal := .next (adapterTake s n)

/-- The record's place and bytes, and the write index; none while its channels train. -/
def storePut (s : State) (m : Fin 128) (l : Line) : Option State :=
  let g := s.cxp.groups[m]
  let trunc := storeTrunc s g.store
  let len := recordLen g.set trunc
  let n := ringRecords g.store.len len
  if n = 0 ∨ !g.store.on then some s
  else
    let i := g.store.next
    let a := g.store.base + 4096 + i.toNat % n * len
    if memReady s a len && memReady s g.store.base 4 then
      let s := (memWrite s .store a (recordOf g.set trunc m.val i.toNat l)).1
      let s := (memWrite s .store g.store.base (leBytes 4 (i + 1).toNat)).1
      some (previewPut (s.modGroup m fun g => { g with store := { g.store with next := i + 1 } }) m trunc l)
    else none

def storeTake (s : State) (m : Fin 128) : State :=
  let g := s.cxp.groups[m]
  match g.line with
  | none => s
  | some l =>
    if l.done && g.toStore then
      match storePut s m l with
      | none => s
      | some s => settleGroup (s.modGroup m fun g => { g with toStore := false }) m
    else s

/-- `PIXEL_STORE_RECORD` (R251). -/
def execPixelStoreRecord (n : Fin 128) (s : State) : Host.Outcome State Fault Refusal := .next (storeTake s n)

/-! ### Acknowledgments of trigger packets, event packets, heartbeats (R229, R238) -/

/-- `IO_ACKNOWLEDGMENT` (R238): of the oldest trigger packet that waits for one. -/
def execIoAcknowledgment (n : Fin 128) (s : State) : Host.Outcome State Fault Refusal :=
  .next (s.modLink n fun l => { l with ackWait := l.ackWait.drop 1 })

/-- `ACK_MISS` (R238): the 10 µs of the oldest such packet have passed. -/
def execAckMiss (n : Fin 128) (s : State) : Host.Outcome State Fault Refusal :=
  .next (if s.cxp.links[n].ackWait.isEmpty then s
    else linkErr (s.modLink n fun l => { l with ackWait := l.ackWait.drop 1 }) n cxAckMiss)

/-- The link is connected. -/
def linkUp (l : Link) : Bool := l.state == .up || l.state == .streaming

/-- `EVENT_PACKET` (R229): an event packet or a trigger packet from the device is discarded and counted (Table 9-1);
`CXP_ERR.EVENT` sets. -/
def execEventPacket (n : Fin 128) (s : State) : Host.Outcome State Fault Refusal :=
  .next (if linkUp s.cxp.links[n] then (linkErr s n cxEvent).modLink n fun l => { l with cntEvent := l.cntEvent + 1 } else s)

/-- `HEARTBEAT` (R229): sent on a master link with yard time. -/
def execHeartbeat (n : Fin 128) (s : State) : Host.Outcome State Fault Refusal :=
  .next (if isMaster s n && linkUp s.cxp.links[n] then s.emit (.heartbeat n.val s.dev.yard) else s)

/-! ### Control forwarding (R235) -/

/-- Bytes of one control packet (log entry 42). -/
def ctrlChunk : Nat := 128

/-- The next packet of the access at the front goes out, with a tag of its own. -/
def ctrlSend (s : State) (m : Fin 128) : State :=
  let g := s.cxp.groups[m]
  match g.ctrl with
  | [] => s
  | c :: r =>
    let n := min ctrlChunk (c.len - c.sent)
    let s := s.modGroup m fun g => { g with ctrl := { c with tag := g.tagCtl } :: r, tagCtl := (g.tagCtl + 1) % 256 }
    if linkUp s.cxp.links[m] then
      s.emit (.ctrlPacket m.val c.write (c.addr.toNat + c.sent) n (if c.write then (c.data.drop c.sent).take n else []) g.tagCtl)
    else s

/-- The access at the front ends, and the next begins. -/
def ctrlPop (s : State) (m : Fin 128) : State := ctrlSend (s.modGroup m fun g => { g with ctrl := g.ctrl.drop 1 }) m

def setCtrl (s : State) (m : Fin 128) (c : Ctrl) : State := s.modGroup m fun g => { g with ctrl := c :: g.ctrl.drop 1 }

/-- An acknowledgment of the packet outstanding (Table 9-5). -/
def ctrlAck (s : State) (m : Fin 128) (c : Ctrl) (ok : Bool) (code : Nat) (data : List Byte) : State :=
  if !ok then
    if c.write then finishJob (ctrlPop s m) c.job .check 0x0200 []
    else if 2 ≤ c.fails then finishJob (ctrlPop s m) c.job .timeout 0x0201 []
    else ctrlSend (setCtrl s m { c with fails := c.fails + 1 }) m
  else if code ≠ 0 then finishJob (ctrlPop s m) c.job .check (0x0100 + code) []
  else
    let n := min ctrlChunk (c.len - c.sent)
    let c := { c with sent := c.sent + n, fails := 0, data := if c.write then c.data else c.data ++ padTo n data }
    if c.sent < c.len then ctrlSend (setCtrl s m c) m
    else if c.write then finishJob (ctrlPop s m) c.job .done 0 []
    else finishOut (ctrlPop s m) c.job 0 c.data

/-- `WAIT_ACKNOWLEDGMENT` (R235): the limit of the access starts again. -/
def execWaitAcknowledgment (n : Fin 128) (ms : Nat) (s : State) : Host.Outcome State Fault Refusal :=
  .next (match s.cxp.groups[n].ctrl with
    | c :: _ => if ms = 0 then s else setCtrl s n { c with waits := c.waits + 1 }
    | [] => s)

/-- `CONTROL_TIMEOUT` (R235): no acknowledgment within the limit. -/
def execControlTimeout (n : Fin 128) (s : State) : Host.Outcome State Fault Refusal :=
  .next (match s.cxp.groups[n].ctrl with
    | c :: _ => finishJob (ctrlPop s n) c.job .timeout 0x0202 []
    | [] => s)

/-! ### Discovery and rate changes (R231, R232, R255) -/

def waitJob : LinkWait → Option Nat
  | .none => none
  | .power j | .lock j | .bootstrap j | .rate j _ => some j

/-- The record of a link in the completion of `CXP_DISCOVER` (R231). -/
def discoverRecord (l : Link) : List Byte :=
  if l.state = .up then
    leBytes 4 l.conn.toNat ++ [BitVec.ofNat 8 l.index, BitVec.ofNat 8 l.offered, BitVec.ofNat 8 l.maxRate, BitVec.ofNat 8 (linkCode l.state)]
  else List.replicate 7 0 ++ [BitVec.ofNat 8 (linkCode l.state)]

/-- A discovery or rate change completes when none of its links is still at work. -/
def linkJobDone (s : State) (job : Nat) : State :=
  if s.cxp.links.toList.any fun l => waitJob l.wait == some job then s
  else match findJob s job with
  | none => s
  | some j =>
    match j.kind with
    | .discover mask =>
      finishOut s job 0 ((bitsOf 128 mask.toNat).flatMap fun n => discoverRecord (vget {} s.cxp.links n))
    | .setLink m _ =>
      if (groupLinks s (Fin.ofNat 128 m)).any fun n => s.cxp.links[n].state == .lost then finishJob s job .timeout 0 []
      else finishJob s job .done 0 []
    | _ => s

/-- The links of a group report one connection, with indices in link-number order (R233). -/
def idsAgree (s : State) (l : List (Fin 128)) : Bool :=
  match l with
  | [] => false
  | m :: _ => l.all fun n => s.cxp.links[n].conn == s.cxp.links[m].conn && s.cxp.links[n].index == n.val - m.val

/-- R255: every link of a rediscovered group is UP: reception starts again where it ran before; links that no longer
form a larger group stand alone, and in DOZE reception waits until the device leaves it (R256). -/
def groupBack (s : State) (m : Fin 128) : State :=
  let ls := groupLinks s m
  if ls.all fun n => s.cxp.links[n].state == .up then
    if s.cxp.links[m].gsize ≠ 0 ∧ !idsAgree s ls then toSingles s ls
    else if s.cxp.groups[m].resume ∧ s.dev.state ≠ .doze then startGroup s m else s
  else s

/-- A link begins discovery at CXP-1. -/
def beginLock (s : State) (n : Fin 128) (job : Nat) : State :=
  s.modLink n fun l => { l with state := .discovering, wait := .lock job, rate := 1, eq := 0 }

/-- The write of the camera's connection configuration register through the master link (R232). -/
def writeRate (s : State) (m : Fin 128) (code : Nat) : State := s.emit (.ctrlPacket m.val true 0x4014 4 (leBytes 4 code) 0)

/-- A link begins to lock at a rate. -/
def beginRate (s : State) (n : Fin 128) (job code : Nat) : State :=
  s.modLink n fun l => { l with state := .discovering, wait := .rate job code, rate := code, eq := 0 }

/-- The equaliser setting of a lock is a free value (log entry 3), recorded per link and rate (Table 15-8). -/
def drawEq (s : State) (n : Fin 128) : State :=
  let (v, s) := s.drawNat
  let e := BitVec.ofNat 8 v
  let s := s.modLink n fun l => { l with eq := e }
  if s.dev.sbRo then s else bookWrite { s with book.eq := tput 0 s.book.eq (8 * n.val + s.cxp.links[n].rate) e } .links

/-- A receiver has symbol lock and word alignment. -/
def symbolLock (s : State) (n : Fin 128) : State :=
  let l := s.cxp.links[n]
  if l.state ≠ .discovering then s
  else match l.wait with
  | .lock j =>
    ((drawEq s n).modLink n fun l => { l with wait := .bootstrap j }).emit (.ctrlPacket n.val false 0x4000 8 [] 0)
  | .rate j _ =>
    let s := (drawEq s n).modLink n fun l => { l with state := .up, wait := .none }
    if j = 0 then groupBack s (masterOf s n) else linkJobDone s j
  | _ => s

/-- `SYMBOL_LOCK` (R231, R232). -/
def execSymbolLock (n : Fin 128) (s : State) : Host.Outcome State Fault Refusal := .next (symbolLock s n)

/-- The camera's bootstrap registers have been read (R231 step 2): the link is UP at CXP-1, or goes on to its rate. -/
def bootstrapped (s : State) (n : Fin 128) (job : Nat) (data : List Byte) : State :=
  let s := s.modLink n fun l => { l with conn := BitVec.ofNat 32 (leAt data 0 4), index := leAt data 4 1, offered := leAt data 5 1,
                                         maxRate := leAt data 6 1 % 8 }
  if job = 0 then
    if 1 < s.cxp.links[n].prevRate then
      beginRate (if masterOf s n = n then writeRate s n s.cxp.links[n].prevRate else s) n 0 s.cxp.links[n].prevRate
    else groupBack (s.modLink n fun l => { l with state := .up, wait := .none }) (masterOf s n)
  else
    let s := s.modLink n fun l => { l with state := .up, wait := .none, grouped := true }
    linkJobDone (toSingles s [n]) job

/-- An acknowledgment with tag `tag` on a link. -/
def controlAck (s : State) (n : Fin 128) (tag : Nat) (ok : Bool) (code : Nat) (data : List Byte) : State :=
  match s.cxp.links[n].wait with
  | .bootstrap j => if ok && code == 0 then bootstrapped s n j data else s
  | _ =>
    match s.cxp.groups[n].ctrl with
    | c :: _ => if c.tag = tag then ctrlAck s n c ok code data else s
    | [] => s

/-- `CONTROL_ACKNOWLEDGMENT` (R235, R231). -/
def execControlAcknowledgment (n : Fin 128) (tag : Nat) (ok : Bool) (code : Nat) (data : List Byte) (s : State) :
    Host.Outcome State Fault Refusal := .next (controlAck s n tag ok code data)

/-- `POCXP_POWER_WAIT` (R231 step 1). -/
def execPocxpPowerWait (n : Fin 128) (s : State) : Host.Outcome State Fault Refusal :=
  .next (match s.cxp.links[n].wait with
    | .power j => beginLock s n j
    | _ => s)

/-- `DISCOVERY_TIMEOUT` (R231): no camera within the limit: OFF, or LOST in a rediscovery (R255). -/
def execDiscoveryTimeout (n : Fin 128) (s : State) : Host.Outcome State Fault Refusal :=
  .next (match s.cxp.links[n].wait with
    | .power j | .lock j | .bootstrap j =>
      if j = 0 then s.modLink n fun l => { l with state := .lost, wait := .none, rate := 0, eq := 0 }
      else linkJobDone (linkOff s n) j
    | _ => s)

/-- `SET_LINK_LOCK_TIMEOUT` (R232): no lock within 100 ms of a rate change. -/
def execSetLinkLockTimeout (n : Fin 128) (s : State) : Host.Outcome State Fault Refusal :=
  .next (match s.cxp.links[n].wait with
    | .rate j _ =>
      let s := s.modLink n fun l => { l with state := .lost, wait := .none, rate := 0, eq := 0 }
      if j = 0 then s else linkJobDone s j
    | _ => s)

/-! ### Loss (R254, R255) and OFF (Table 9-12) -/

/-- A link that was UP or STREAMING is lost: its group stops. -/
def linkLost (s : State) (n : Fin 128) : State :=
  let l := s.cxp.links[n]
  if linkUp l then
    let m := masterOf s n
    let s := groupLost s m
    let s := (linkErr s n cxLost).modLink n fun l =>
      { l with state := .lost, prevRate := l.rate, rate := 0, eq := 0, ackWait := [] }
    raiseEvent s 4
  else s

/-- `LINK_LOSS` (R254). -/
def execLinkLoss (n : Fin 128) (s : State) : Host.Outcome State Fault Refusal := .next (linkLost s n)

/-- A link of a group that rediscovers itself begins step 2 of R231 again. -/
def beginAgain (s : State) (n : Fin 128) : State :=
  let l := s.cxp.links[n]
  match l.state with
  | .up => beginLock (s.modLink n fun l => { l with prevRate := l.rate }) n 0
  | .lost => beginLock s n 0
  | _ => s

/-- `REDISCOVERY_RETRY` (R255): a group with a LOST link whose `AUTO` is set discovers its links again. -/
def execRediscoveryRetry (n : Fin 128) (s : State) : Host.Outcome State Fault Refusal :=
  let ls := groupLinks s (masterOf s n)
  .next (if ls.any fun x => s.cxp.links[x].state == .lost && s.cxp.links[x].auto then ls.foldl beginAgain s else s)

/-- A link leaves its group for OFF, with R254 applied to the group. -/
def leaveGroup (s : State) (n : Fin 128) : State :=
  let l := s.cxp.links[n]
  let m := masterOf s n
  let s := if linkUp l then groupLost s m else s
  let s := s.modGroup m fun g => { g with resume := false }
  match waitJob l.wait with
  | some j => let s := linkOff s n; if j = 0 then s else linkJobDone s j
  | none => linkOff s n

/-- A write of `CXP_CTL` (Table 9-12): `LINK_OFF` 1 takes the link to OFF; 0 leaves it as it is. -/
def linkCtlWrite (s : State) (n : Fin 128) (v : BitVec 32) : State :=
  let s := s.modLink n fun l => { l with off := v.getLsbD 1, auto := v.getLsbD 0 }
  if v.getLsbD 1 && s.cxp.links[n].state != .failed then leaveGroup s n else s

/-- `LINK_OFF`. -/
def execLinkOff (n : Fin 128) (v : BitVec 32) (s : State) : Host.Outcome State Fault Refusal :=
  .next (if served s then linkCtlWrite s n v else s)

/-- A pin with the sense role names the link and reports a fault: it is low, and no switch interval keeps its level from the
function (Table 17-3, R435). -/
def senseLow (s : State) (n : Fin 128) : Bool :=
  s.pins.gpio.toList.any fun p => p.actFunc == 8 && p.actRole == 1 && p.sel.toNat == n.val && !p.switching && !p.pad

/-- A PoCXP sense fault while the enable is asserted (R231). -/
def senseFault (s : State) (n : Fin 128) : State :=
  let l := s.cxp.links[n]
  if !l.pocxp || !hasPocxp s n || !senseLow s n || l.state == .failed then s
  else
    let m := masterOf s n
    let s := if linkUp l then groupLost s m else s
    let s := (linkErr (setPocxp s n false) n cxPwr).modLink n fun l =>
      { l with state := .powerFault, wait := .none, rate := 0, eq := 0, ackWait := [] }
    match waitJob l.wait with
    | some j => if j = 0 then s else linkJobDone s j
    | none => s

/-- `POCXP_SENSE_FAULT` (R231). -/
def execPocxpSenseFault (n : Fin 128) (s : State) : Host.Outcome State Fault Refusal := .next (senseFault s n)

/-- Every link that is not FAILED to OFF: STABLED, SHUTTING_DOWN (R256). -/
def allLinksOff (s : State) : State :=
  (List.finRange 128).foldl (fun s n =>
    if s.cxp.links[n].state == .failed then s
    else setFifo ((leaveGroup s n).modLink n fun l => { l with gsize := 0, grouped := false }) n []) s

/-- DOZE (R256): reception stops as at a stop, and resumes at the first line start after it. -/
def dozeStreams (s : State) : State :=
  (List.finRange 128).foldl (fun s m =>
    if s.cxp.links[m].state == .streaming && masterOf s m == m then
      (stopGroup s m).modGroup m fun g => { g with resume := true }
    else s) s

/-- Leaving DOZE (R256). -/
def resumeStreams (s : State) : State :=
  (List.finRange 128).foldl (fun s m =>
    if s.cxp.groups[m].resume && s.cxp.links[m].state == .up && masterOf s m == m then groupBack s m else s) s

end Sys2Proof.Machine
end

