-- ==== Sys2Proof/Machine/LinkCmds.lean ====
section
/-! DEFINITION. Machine/LinkCmds.lean: the CoaXPress commands (09_coaxpress_ports.md, R231 to R235, R250, R256, R257;
13_commands.md, Table 13-10). -/

namespace Sys2Proof.Machine

open Sys2Proof

/-- A refusal with a link as the resource. -/
def denyLink (st : Status) (s : State) (n : Fin 128) : Deny := denyRes st 3 (linkCode s.cxp.links[n].state) n.val

/-- The target link of a command. -/
def linkTarget (c : Cmd) : Fin 128 := Fin.ofNat 128 c.tindex.toNat

/-- The links named by a 16-byte mask. -/
def maskLinks (c : Cmd) (lo : Nat) : List (Fin 128) := (List.finRange 128).filter fun n => (par c lo 16).testBit n.val

def linkRes (l : List (Fin 128)) : List Res := l.map fun n => .link n.val

/-- The links of the group that a command's target names (R325). -/
def targetGroup (c : Cmd) (s : State) : List Res :=
  if 128 ≤ c.tindex.toNat then [] else linkRes (groupLinks s (masterOf s (linkTarget c)))

/-- The target is a master link. -/
def targetMaster (c : Cmd) (s : State) : Bool := masterOf s (linkTarget c) == linkTarget c

/-- The first link of a list with a property, as a refusal. -/
def firstLink (st : Status) (s : State) (l : List (Fin 128)) (p : Link → Bool) : Option Deny :=
  (l.find? fun n => p s.cxp.links[n]).map (denyLink st s)

def linkFailed (l : Link) : Bool := l.state == .failed

/-- A control access is being forwarded through the link. -/
def linkCtrl (s : State) (l : List (Fin 128)) : Option Deny := (l.find? fun n => !s.cxp.groups[n].ctrl.isEmpty).map (denyLink .busy s)

/-- The output of a command will fit its host buffer (R352). -/
def outFits (c : Cmd) (s : State) (need : Nat) : Option Deny :=
  if c.hlen.toNat ≠ 0 ∧ c.hlen.toNat < need then some (denyDev .noSpace s) else none

/-! ### CXP_DISCOVER (R231) -/

def cxpDiscoverSpec : CmdSpec where
  opcode := 0x0200
  states := stHPSR
  size := sizeIs 24
  isLong := fun _ _ => true
  buffer := true
  touches := fun c _ => linkRes (maskLinks c 0)
  params := fun c _ => paramChecks (decide (par c 16 1 < 2) && resZero c 17 3) true

/-- An unfinished `BIST_RUN` with the loopback or the equaliser eye changes every link (R351). -/
def bistLinks (s : State) : Bool := bistChanges s 0 || bistChanges s 1

def discoverDeny (c : Cmd) (s : State) (l : List (Fin 128)) : Option Deny :=
  let old := l.flatMap fun n => groupLinks s (masterOf s n)
  (firstLink .retired s l linkFailed).orElse fun _ => (firstLink .stateRefused s l fun x => x.state == .streaming).orElse fun _ =>
  (firstLink .busy s old fun x => x.state == .discovering || bistLinks s).orElse fun _ =>
  (linkCtrl s old).orElse fun _ => outFits c s (8 * l.length)

/-- Step 1 or step 2 of R231 begins on a link. -/
def discoverBegin (s : State) (n : Fin 128) (power : Bool) (job : Nat) : State :=
  if power && hasPocxp s n then
    (setPocxp s n true).modLink n fun l => { l with state := .discovering, wait := .power job, rate := 0, eq := 0 }
  else beginLock s n job

def cxpDiscoverBody (c : Cmd) (s : State) : Except Deny State :=
  let l := maskLinks c 0
  match discoverDeny c s l with
  | some d => .error d
  | none =>
    if s.dev.sbRo then .error (denyDev .noSpace s)
    else
    let job := s.cmdp.nextId
    let s := startJob c s (.discover (BitVec.ofNat 128 (par c 0 16))) []
    .ok (linkJobDone (l.foldl (fun s n => discoverBegin s n (par c 16 1 == 1) job) (dissolve s l)) job)

/-- `CXP_DISCOVER` (R231). -/
def execCxpDiscover (c : Cmd) (s : State) : Host.Outcome State Fault Refusal := .next (runCmd cxpDiscoverSpec cxpDiscoverBody c s)

/-! ### CXP_SET_LINK (R232) -/

def cxpSetLinkSpec : CmdSpec where
  opcode := 0x0201
  states := stHPSR
  target := some (3, 128)
  size := sizeIs 4
  isLong := fun _ _ => true
  touches := targetGroup
  params := fun c s => paramChecks (resZero c 1 3)
    (decide (1 ≤ par c 0 1) && decide (par c 0 1 ≤ 7) && targetMaster c s)

def cxpSetLinkBody (c : Cmd) (s : State) : Except Deny State :=
  let m := linkTarget c
  let l := groupLinks s m
  match (firstLink .retired s l linkFailed).orElse fun _ => (firstLink .stateRefused s l fun x => x.state != .up).orElse fun _ =>
      firstLink .busy s l fun _ => bistLinks s with
  | some d => .error d
  | none =>
    if s.cxp.links[m].maxRate < par c 0 1 then .error (badParam 4)
    else match linkCtrl s l with
    | some d => .error d
    | none =>
      if s.dev.sbRo then .error (denyDev .noSpace s)
      else
      let job := s.cmdp.nextId
      let s := startJob c s (.setLink m.val (par c 0 1)) []
      let s := (writeRate s m (par c 0 1)).modLinks l fun x => { x with prevRate := x.rate }
      .ok (l.foldl (fun s n => beginRate s n job (par c 0 1)) s)

/-- `CXP_SET_LINK` (R232). -/
def execCxpSetLink (c : Cmd) (s : State) : Host.Outcome State Fault Refusal := .next (runCmd cxpSetLinkSpec cxpSetLinkBody c s)

/-! ### CXP_GROUP (R233) -/

/-- The settings in a parameter block; a 0 outside the range of Table 9-4 is the default (R354, log entry 78). -/
def groupParams (c : Cmd) : GroupSet :=
  { width := orDefault (par c 8 4) 4096, format := par c 1 1, pix := par c 2 1 == 1, lanes := orDefault (par c 3 1) 2,
    adapt := par c 4 1 == 1, doMatch := par c 5 1 == 1, mmin := orDefault (par c 12 4) 1000, mmax := orDefault (par c 16 4) 100000,
    unm := par c 6 1 == 1, enc := par c 7 1 }

/-- The settings in force, in the layout of the parameter block. -/
def groupBytes (size : Nat) (g : GroupSet) : List Byte :=
  [BitVec.ofNat 8 size, BitVec.ofNat 8 g.format, BitVec.ofNat 8 (b2n g.pix), BitVec.ofNat 8 g.lanes, BitVec.ofNat 8 (b2n g.adapt),
   BitVec.ofNat 8 (b2n g.doMatch), BitVec.ofNat 8 (b2n g.unm), BitVec.ofNat 8 g.enc]
    ++ leBytes 4 g.width ++ leBytes 4 g.mmin ++ leBytes 4 g.mmax ++ List.replicate 4 0

def queryOnly (c : Cmd) : Bool := par c 20 1 % 2 == 1

/-- The ranges of Table 9-4 and R247. -/
def groupOk (c : Cmd) (s : State) : Bool :=
  if queryOnly c then targetMaster c s
  else
    let g := groupParams c
    let n := 2 ^ par c 0 1
    decide (par c 0 1 ≤ 3) && linkTarget c % n == 0 && decide (g.format ≤ 4) && decide (par c 2 1 ≤ 1)
      && (g.lanes == 2 || g.lanes == 4) && decide (par c 4 1 ≤ 1) && decide (par c 5 1 ≤ 1) && decide (par c 6 1 ≤ 1)
      && decide (g.enc ≤ 7) && decide (64 ≤ g.width) && decide (g.width ≤ 65536) && g.width % (n * g.lanes) == 0
      && decide (g.mmin < g.mmax) && decide (g.mmax ≤ 1000000) && decide (laneCount g n ≤ 65535)

def groupTouches (c : Cmd) (s : State) : List Res :=
  if queryOnly c || decide (128 ≤ c.tindex.toNat) then targetGroup c s else linkRes (linksFrom (linkTarget c).val (2 ^ (par c 0 1 % 4)))

def cxpGroupSpec : CmdSpec where
  opcode := 0x0202
  states := stHPSR
  target := some (3, 128)
  size := sizeIs 24
  touches := groupTouches
  params := fun c s => paramChecks (queryOnly c || (par c 20 1 == 0 && resZero c 21 3)) (groupOk c s)

def groupDeny (c : Cmd) (s : State) : Option Deny :=
  let l := linksFrom (linkTarget c).val (2 ^ par c 0 1)
  let old := l.flatMap fun n => groupLinks s (masterOf s n)
  (firstLink .retired s l linkFailed).orElse fun _ => (firstLink .stateRefused s (l ++ old) fun x => x.state == .streaming).orElse fun _ =>
  (if (l.all fun n => s.cxp.links[n].state == .up) && idsAgree s l then none else some (badParam 4)).orElse fun _ => linkCtrl s old

/-- The group formed: links of old groups that are not in it stand alone; a pixel store stays with a group that keeps
its links (log entry 44). -/
def formGroup (s : State) (m : Fin 128) (size : Nat) (g : GroupSet) : State :=
  let l := linksFrom m.val (2 ^ size)
  let s := if masterOf s m == m && s.cxp.links[m].gsize == size then s else toSingles (dissolve s l) l
  let s := emptyFifos (s.modLinks l fun x => { x with gsize := size, grouped := true }) l
  s.modGroup m fun x => { x with set := g, line := none, starts := [], toAdapt := [], toStore := false, run := x.run + 1,
                                 taking := false, rx := 0, rxLast := [], stopping := false, rxTag := none, rxAhead := [] }

def cxpGroupBody (c : Cmd) (s : State) : Except Deny State :=
  let m := linkTarget c
  if queryOnly c then
    match firstLink .retired s (groupLinks s m) linkFailed with
    | some d => .error d
    | none => .ok (doneWith c s (groupBytes s.cxp.links[m].gsize s.cxp.groups[m].set))
  else match groupDeny c s with
  | some d => .error d
  | none => .ok (doneWith c (formGroup s m (par c 0 1) (groupParams c)) (groupBytes (par c 0 1) (groupParams c)))

/-- `CXP_GROUP` (R233). -/
def execCxpGroup (c : Cmd) (s : State) : Host.Outcome State Fault Refusal := .next (runCmd cxpGroupSpec cxpGroupBody c s)

/-! ### CXP_CTRL_READ, CXP_CTRL_WRITE (R235) -/

def ctrlParams (c : Cmd) (s : State) : Option Deny :=
  paramChecks (resZero c 6 2)
    (decide (4 ≤ par c 4 2) && decide (par c 4 2 ≤ 512) && par c 4 2 % 4 == 0 && decide (par c 8 4 ≤ 10000) && targetMaster c s)

/-- The step 8 checks of a write: where the data comes from the host buffer, the buffer holds it. -/
def ctrlWriteParams (c : Cmd) (s : State) : Option Deny :=
  (ctrlParams c s).orElse fun _ => if c.hlen.toNat = 0 then none else inputFits c (par c 4 2)

/-- The group must be UP or STREAMING (Table 9-5). -/
def ctrlDeny (s : State) (m : Fin 128) : Option Deny :=
  let l := groupLinks s m
  (firstLink .retired s l linkFailed).orElse fun _ =>
    (l.find? fun n => !linkUp s.cxp.links[n]).map fun n =>
      { st := .stateRefused, detail := 0x0300 + linkCode s.cxp.links[n].state, data := leBytes 4 m.val }

/-- The access joins the group's queue; the first is sent at once. -/
def ctrlPush (s : State) (m : Fin 128) (x : Ctrl) : State :=
  let idle := s.cxp.groups[m].ctrl.isEmpty
  let s := s.modGroup m fun g => { g with ctrl := g.ctrl ++ [x] }
  if idle then ctrlSend s m else s

def cxpCtrlReadSpec : CmdSpec where
  opcode := 0x0203
  states := stHPSR
  target := some (3, 128)
  size := sizeIs 12
  isLong := fun _ _ => true
  buffer := true
  touches := targetGroup
  params := ctrlParams

def cxpCtrlReadBody (c : Cmd) (s : State) : Except Deny State :=
  let m := linkTarget c
  match (ctrlDeny s m).orElse fun _ => outFits c s (par c 4 2) with
  | some d => .error d
  | none =>
    let job := s.cmdp.nextId
    .ok (ctrlPush (startJob c s (.ctrl m.val) []) m { job := job, addr := BitVec.ofNat 32 (par c 0 4), len := par c 4 2 })

/-- `CXP_CTRL_READ` (R235). -/
def execCxpCtrlRead (c : Cmd) (s : State) : Host.Outcome State Fault Refusal := .next (runCmd cxpCtrlReadSpec cxpCtrlReadBody c s)

def cxpCtrlWriteSpec : CmdSpec where
  opcode := 0x0204
  states := stHPSR
  target := some (3, 128)
  size := fun c =>
    if c.hlen.toNat = 0 then decide (12 ≤ c.params.length) && c.params.length == 12 + par c 4 2 else c.params.length == 12
  isLong := fun _ _ => true
  buffer := true
  touches := targetGroup
  params := ctrlWriteParams

def cxpCtrlWriteBody (c : Cmd) (s : State) : Except Deny State :=
  let m := linkTarget c
  match ctrlDeny s m with
  | some d => .error d
  | none =>
    match (if c.hlen.toNat = 0 then .ok (c.params.drop 12) else inBuf c (par c 4 2)) with
    | .error d => .error d
    | .ok l =>
      let job := s.cmdp.nextId
      .ok (ctrlPush (startJob c s (.ctrl m.val) []) m
        { job := job, write := true, addr := BitVec.ofNat 32 (par c 0 4), len := par c 4 2, data := l.take (par c 4 2) })

/-- `CXP_CTRL_WRITE` (R235). -/
def execCxpCtrlWrite (c : Cmd) (s : State) : Host.Outcome State Fault Refusal := .next (runCmd cxpCtrlWriteSpec cxpCtrlWriteBody c s)

/-! ### CXP_STREAM_ENABLE (R256) -/

def cxpStreamEnableSpec : CmdSpec where
  opcode := 0x0205
  states := stHPSR
  size := sizeIs 20
  touches := fun c s => linkRes ((maskLinks c 0).flatMap fun n => groupLinks s (masterOf s n))
  params := fun c s => paramChecks (resZero c 17 3)
    (decide (par c 16 1 ≤ 1) && (maskLinks c 0).all fun n => masterOf s n == n)

def cxpStreamEnableBody (c : Cmd) (s : State) : Except Deny State :=
  let l := (maskLinks c 0).flatMap fun n => groupLinks s n
  match (firstLink .retired s l linkFailed).orElse fun _ => firstLink .stateRefused s l fun x => !linkUp x with
  | some d => .error d
  | none => .ok (doneWith c ((maskLinks c 0).foldl (fun s n => if par c 16 1 = 1 then startGroup s n else stopGroup s n) s) [])

/-- `CXP_STREAM_ENABLE` (R256). -/
def execCxpStreamEnable (c : Cmd) (s : State) : Host.Outcome State Fault Refusal :=
  .next (runCmd cxpStreamEnableSpec cxpStreamEnableBody c s)

/-! ### CXP_PIXEL_STORE (R250 to R253) -/

/-- The store that a parameter block describes. -/
def storeParams (c : Cmd) : Store :=
  let preview := (par c 0 1).testBit 2
  { on := true, base := par c 8 8, len := par c 16 4, decim := par c 1 1, trunc := (par c 0 1).testBit 1,
    pport := if preview then some (par c 3 1) else none, pbase := if preview then par c 24 8 else 0,
    plen := if preview then par c 32 4 else 0, pdecim := orDefault (par c 2 1) 256 }

/-- A preview ring (R253). -/
def previewOk (p rec_ : Nat) (st : Store) : Bool :=
  decide (p ≤ 1) && st.pbase % 4096 == 0 && decide (65536 ≤ st.plen) && decide (st.plen ≤ 2 ^ 28) && st.plen == 2 ^ Nat.log2 st.plen
    && ringRecords st.plen rec_ != 0

/-- The ring lies in the pixel store region of the group's own die and meets no other group's ring (R250). -/
def storeOk (s : State) (m : Fin 128) (st : Store) : Bool :=
  let rec_ := recordLen s.cxp.groups[m].set st.trunc
  decide (1 ≤ st.decim) && decide (st.decim ≤ 64) && st.base % 4096 == 0 && ringRecords st.len rec_ != 0
    && (dieOf st.base).map Fin.val == some (m.val / 64) && ringInRegion s st
    && ((List.finRange 128).all fun n =>
      let x := s.cxp.groups[n].store
      n == m || !x.on || decide (x.base + x.len ≤ st.base) || decide (st.base + st.len ≤ x.base))
    && (match st.pport with | some p => previewOk p rec_ st | none => true)

def cxpPixelStoreSpec : CmdSpec where
  opcode := 0x0206
  states := stHPSR
  target := some (3, 128)
  size := sizeIs 40
  touches := targetGroup
  params := fun c s => paramChecks (decide (par c 0 1 < 8) && resZero c 4 4 && resZero c 20 4 && resZero c 36 4)
    (targetMaster c s && (par c 0 1 % 2 == 0 || storeOk s (linkTarget c) (storeParams c)))

/-- The store of a group replaced; lines begun before are not taken by the new one. -/
def setStore (s : State) (m : Fin 128) (st : Store) : State :=
  let f (l : Line) : Line := { l with store := false }
  settleGroup (s.modGroup m fun g =>
    { g with store := st, toStore := false, starts := g.starts.map f, line := g.line.map fun l => if l.done then l else f l }) m

/-- A link that an unfinished CXP_DISCOVER or CXP_SET_LINK is changing (R351). -/
def linkChanging (s : State) (l : List (Fin 128)) : Option Deny := firstLink .busy s l fun x => (waitJob x.wait).isSome

def cxpPixelStoreBody (c : Cmd) (s : State) : Except Deny State :=
  let m := linkTarget c
  match (firstLink .retired s (groupLinks s m) linkFailed).orElse fun _ => linkChanging s (groupLinks s m) with
  | some d => .error d
  | none => .ok (doneWith c (setStore s m (if par c 0 1 % 2 = 1 then storeParams c else { s.cxp.groups[m].store with on := false, pport := none })) [])

/-- `CXP_PIXEL_STORE` (R250 to R253). -/
def execCxpPixelStore (c : Cmd) (s : State) : Host.Outcome State Fault Refusal :=
  .next (runCmd cxpPixelStoreSpec cxpPixelStoreBody c s)

end Sys2Proof.Machine
end

