-- ==== Sys2Proof/Machine/Memory.lean ====
section
/-! DEFINITION. Machine/Memory.lean: the meanings of the memory commands and of the events of the DDR5 channels
(11_ddr5.md; 13_commands.md, Table 13-13). -/

namespace Sys2Proof.Machine

open Sys2Proof

/-! ### MEM_MAP (R300) -/

/-- Entry `i` of the parameter block. -/
def mapEntry (c : Cmd) (i : Nat) : Option Region :=
  (kindOf (par c (8 + 24 * i) 1)).map fun k =>
    { kind := k, index := par c (8 + 24 * i + 1) 1, base := par c (16 + 24 * i) 8, len := par c (24 + 24 * i) 8 }

/-- What tells the regions of a map apart: one per die, one, or one per index (Table 11-3). -/
def sameInstance (a b : Region) : Bool :=
  a.kind == b.kind && match a.kind with
  | .pixel | .caster | .user => dieOf a.base == dieOf b.base
  | .result => a.index == b.index
  | .spill | .trace => true

/-- A region by itself (R300). -/
def regionOk (s : State) (r : Region) : Bool :=
  (match r.kind with | .result => decide (r.index < 64) && decide (8192 ≤ r.len) | _ => r.index == 0) &&
  r.base % 4096 == 0 && r.len % 4096 == 0 && r.len != 0 &&
  (match dieOf r.base with
    | none => false
    | some d => decide (r.base - dieBase d.val + r.len ≤ populated s d)) &&
  (match r.kind with | .trace => traceLen r.base r.len == some r.len | _ => true)

def overlaps (a b : Region) : Bool := decide (a.base < b.base + b.len) && decide (b.base < a.base + a.len)

/-- No two regions are one instance and no two overlap. -/
def mapApart : List Region → Bool
  | [] => true
  | r :: l => l.all (fun x => !sameInstance r x && !overlaps r x) && mapApart l

/-- The map a command describes; none when a condition of R300 fails. -/
def newMap (s : State) (c : Cmd) : Option (List Region) :=
  let n := par c 0 2
  let l := (List.range n).filterMap (mapEntry c)
  if n ≤ 72 ∧ l.length = n ∧ l.all (regionOk s) ∧ mapApart l then some l else none

/-- What holds a region where it is (R300): a spill region with pages in use, the region of an enabled trace, a pixel
store region with an enabled ring, a result region that a collector names. -/
def regionInUse (s : State) (r : Region) : Bool :=
  match r.kind with
  | .spill => !s.sch.pages.isEmpty
  | .trace => s.trc.en && s.trc.dest == 0
  | .pixel => s.cxp.groups.toList.any fun g => g.store.on && decide (r.base ≤ g.store.base) && decide (g.store.base < regionEnd r)
  | .result => regionNamed s r.index
  | _ => false

/-- The new map moves, shrinks or removes a region (R300; any change of a result region counts as a move). -/
def regionDisturbed (m : List Region) (r : Region) : Bool :=
  match m.find? (sameInstance r) with
  | none => true
  | some x => x.base != r.base || (if r.kind = .result then x.len != r.len else decide (x.len < r.len))

def memMapSpec : CmdSpec where
  opcode := 0x0600
  states := stHPSR
  size := fun c => c.params.length == 8 + 24 * par c 0 2
  params := fun c s => paramChecks
    (par c 2 1 / 2 == 0 && resZero c 3 5 &&
      (List.range (par c 0 2)).all fun i => resZero c (8 + 24 * i + 2) 6)
    (newMap s c).isSome

def memMapBody (c : Cmd) (s : State) : Except Deny State :=
  match newMap s c with
  | none => .error (badParam 4)
  | some m =>
    match s.ddr.map.find? fun r => regionInUse s r && regionDisturbed m r with
    | some r => .error (denyRes .busy 0x0C 0 (256 * kindCode r.kind + r.index))
    | none =>
      let persist := par c 2 1 % 2 == 1
      if persist && s.dev.sbRo then .error (denyDev .noSpace s)
      else
        let s := applyMap s m
        let s := if persist then bookWrite { s with book.map := some m } .memoryMap else s
        .ok (doneWith c (settleTails s) [])

/-- `MEM_MAP` (R300). -/
def execMemMap (c : Cmd) (s : State) : Host.Outcome State Fault Refusal := .next (runCmd memMapSpec memMapBody c s)

/-! ### MEM_READ and MEM_WRITE (R299, R310) -/

/-- Address and length of `MEM_READ` and `MEM_WRITE`: 64 to 4,064 bytes, multiples of 4. -/
def memSpanOk (c : Cmd) : Bool :=
  decide (64 ≤ par c 8 4) && decide (par c 8 4 ≤ 4064) && par c 8 4 % 4 == 0 && par c 0 8 % 4 == 0

def memReadSpec : CmdSpec where
  opcode := 0x0601
  states := stHPSR
  size := sizeIs 16
  params := fun c _ => paramChecks (resZero c 12 4) (memSpanOk c)

/-- What a `MEM_READ` replies. -/
def memReadNow (c : Cmd) (s : State) : State × Status × Nat × List Byte :=
  match memRead s .memCmd (par c 0 8) (par c 8 4) with
  | (t, none) => (t, .badParam, 4, [])
  | (t, some (l, bad)) => (t, .done, b2n bad, l)

def memReadBody (c : Cmd) (s : State) : Except Deny State :=
  if memReady s (par c 0 8) (par c 8 4) then
    let (t, st, d, l) := memReadNow c s
    .ok (replyTo c t st d l)
  else .ok (memHold c s (par c 0 8) (par c 8 4))

/-- `MEM_READ` (R310): a denied read is recorded and replies BAD_PARAM; an uncorrectable block is returned as zeros, with
`DETAIL` 0x0001. -/
def execMemRead (c : Cmd) (s : State) : Host.Outcome State Fault Refusal := .next (runCmd memReadSpec memReadBody c s)

def memWriteSpec : CmdSpec where
  opcode := 0x0602
  states := stHPSR
  size := fun c =>
    if c.hlen.toNat = 0 then c.params.length == 16 + par c 8 4 else c.params.length == 16
  buffer := true
  params := fun c _ => paramChecks (resZero c 12 4)
    (memSpanOk c && (c.hlen.toNat != 0 || decide (par c 8 4 ≤ 4048)))
    |>.orElse fun _ => if c.hlen.toNat = 0 then none else inputFits c (par c 8 4)

def memWriteNow (c : Cmd) (s : State) (l : List Byte) : State × Status × Nat × List Byte :=
  match memWrite s .memCmd (par c 0 8) l with
  | (t, false) => (t, .badParam, 4, [])
  | (t, true) => (t, .done, 0, [])

def memWriteBody (c : Cmd) (s : State) : Except Deny State :=
  match memWriteData c with
  | .error d => .error d
  | .ok l =>
    if memReady s (par c 0 8) (par c 8 4) then
      let (t, st, d, r) := memWriteNow c s l
      .ok (replyTo c t st d r)
    else .ok (memHold c s (par c 0 8) (par c 8 4))

/-- `MEM_WRITE` (R310). -/
def execMemWrite (c : Cmd) (s : State) : Host.Outcome State Fault Refusal := .next (runCmd memWriteSpec memWriteBody c s)

/-! ### Training (R304, R305, R307) -/

/-- A stored training record fits the descriptor and the die's present temperature (R304). -/
def quickFits (s : State) (c : Fin 8) : Bool :=
  match s.book.train[c] with
  | none => false
  | some r =>
    some r.desc == s.ddr.desc[dieOfChan c] && decide ((r.tj - hottest s (dieOfChan c)).natAbs ≤ 640)

/-- A channel begins training; `quick` allows the quick restore. Its contents become undefined, unless a quick restore finds
them kept through STABLED (R304, R309). -/
def beginTraining (s : State) (c : Fin 8) (job : Option Nat) (quick : Bool) : State :=
  let q := quick && quickFits s c
  (if q && s.ddr.chan[c].kept then s else wipeChannel s c.val).modChan c fun h =>
    { h with state := .training, quick := q, training := job, rank := Vector.replicate 2 0 }

/-- The active list of a die with a channel in it, or without it. -/
def joinActive (s : State) (c : Fin 8) : State :=
  let d := dieOfChan c
  let l := s.ddr.active[d]
  if l.contains c.val then s
  else reroute (shrinkDie { s with ddr.active := vset s.ddr.active d ((List.range 8).filter fun x => l.contains x || x == c.val) } d) d

def leaveActive (s : State) (c : Fin 8) : State :=
  let d := dieOfChan c
  let l := s.ddr.active[d]
  if l.contains c.val then reroute (shrinkDie { s with ddr.active := vset s.ddr.active d (l.filter (· != c.val)) } d) d else s

/-- Rank registers after a training: `[31]` for each rank the descriptor gives; the eye widths and the Vref code are
free values (log entry 3). -/
def rankRegs (s : State) (c : Fin 8) : State :=
  let two := (s.ddr.desc[dieOfChan c].getD {}).ranks2
  let (a, s) := s.drawNat
  let (b, s) := s.drawNat
  s.modChan c fun h =>
    { h with rank := #v[BitVec.ofNat 32 (2 ^ 31 + a % 2 ^ 24), if two then BitVec.ofNat 32 (2 ^ 31 + b % 2 ^ 24) else 0] }

/-- A training that ends well. A full training writes a new training record (R304). -/
def trainOk (s : State) (c : Fin 8) : State :=
  let quick := s.ddr.chan[c].quick
  let tj := if quick then (s.book.train[c].map TrainRec.tj).getD 0 else hottest s (dieOfChan c)
  let s := rankRegs s c
  let s := if quick || s.dev.sbRo then s
    else bookWrite { s with book.train := vset s.book.train c ((s.ddr.desc[dieOfChan c]).map fun m => { desc := m, tj := tj }) } .ddr
  let s := s.modChan c fun h =>
    { h with state := .active, training := none, trainTj := BitVec.ofInt 8 (tj / 16), byCommand := false }
  joinActive s c

/-- A full training that fails (R305). -/
def trainFail (s : State) (c : Fin 8) : State :=
  let s := s.modChan c fun h =>
    { h with state := .failedTrain, training := none, err := h.err ||| BitVec.twoPow 32 28 }
  raiseEvent (leaveActive s c) 5

/-- A `MEM_TRAIN` job completes when none of its channels is still at work. -/
def trainJobDone (s : State) (job : Option Nat) : State :=
  match job with
  | none => s
  | some j => if s.ddr.chan.toList.any fun h => h.training == some j then s else finishJob s j .done 0 []

/-- A quick restore whose verification fails becomes a full training. -/
def fullTraining (s : State) (c : Fin 8) : State := (wipeChannel s c.val).modChan c fun h => { h with quick := false }

/-- `TRAINING_COMPLETE` (R304, R305, R307): the training or recalibration of a channel ends; the requests that wait for the
channel are then served in their order (R302). -/
def execTrainingComplete (ch : Fin 8) (ok : Bool) (s : State) : Host.Outcome State Fault Refusal :=
  let h := s.ddr.chan[ch]
  .next (match h.state with
  | .recal =>
    trainJobDone (s.modChan ch fun h => { h with state := .active, training := none, cntRecal := h.cntRecal + 1 }) h.training
  | .training =>
    if ok then trainJobDone (trainOk s ch) h.training
    else if h.quick then fullTraining s ch
    else trainJobDone (trainFail s ch) h.training
  | _ => s)

/-! ### MEM_TRAIN (R307, Table 11-6) -/

/-- Speed code of a data rate (Table 11-8). -/
def speedOf : Nat → Option Nat
  | 4800 => some 1 | 5600 => some 2 | 6400 => some 3 | 7200 => some 4 | 8000 => some 5 | _ => none

/-- The descriptor in the parameter block; none outside Table 11-1. -/
def trainDesc (c : Cmd) : Option MemDesc :=
  match speedOf (par c 8 2) with
  | none => none
  | some sp =>
    let m : MemDesc := { present := BitVec.ofNat 4 (par c 4 1), x16 := par c 5 1 == 1, density := par c 6 1,
                         ranks2 := par c 7 1 == 2, speed := sp }
    if par c 4 1 < 16 ∧ par c 5 1 ≤ 1 ∧ (par c 7 1 = 1 ∨ par c 7 1 = 2) ∧ descOk m then some m else none

def memTrainSpec : CmdSpec where
  opcode := 0x0603
  states := stHPSR
  size := sizeIs 16
  isLong := fun _ _ => true
  params := fun c _ => paramChecks
    (par c 2 1 < 4 && resZero c 3 1 && resZero c 10 6 && (par c 0 1 == 0 || resZero c 4 6))
    (decide (par c 0 1 ≤ 4) && (if par c 0 1 = 0 then decide (par c 1 1 < 2) && (trainDesc c).isSome else decide (par c 1 1 < 8)))

/-- A refusal with a DDR5 channel as the resource. -/
def denyChanRes (st : Status) (s : State) (c : Fin 8) : Deny := denyRes st 7 (chCode s.ddr.chan[c].state) c.val

/-- The channels of a die. -/
def dieChans (d : Fin 2) : List (Fin 8) := [⟨4 * d.val, by omega⟩, ⟨4 * d.val + 1, by omega⟩, ⟨4 * d.val + 2, by omega⟩, ⟨4 * d.val + 3, by omega⟩]

/-- The forced form stops the die's pixel stores and a trace to the die (R307). -/
def forceQuiet (s : State) (d : Fin 2) : State :=
  let s := { s with cxp.groups := vmapI s.cxp.groups fun _ g =>
               if g.store.on && dieOf g.store.base == some d then { g with store := { g.store with on := false } } else g }
  if traceOnDie s d then { s with trc := { s.trc with en := false, destLost := true } } else s

/-- A channel that an unfinished command changes (R351): of the whole die, or channel `ch` alone for a recalibration, which needs
nothing of the others (Table 11-6). A BIST_RUN with the PHY loopback changes them all. -/
def chanTaken (s : State) (d : Fin 2) (alone : Bool) (ch : Fin 8) : Option (Fin 8) :=
  (dieChans d).find? fun c =>
    (!alone || c == ch) && (bistChanges s 2 || s.ddr.chan[c].state == .training || s.ddr.chan[c].state == .recal)

/-- A channel retired by command may be retrained or restored only as Table 11-6 says. -/
def memTrainDeny (c : Cmd) (s : State) (ch : Fin 8) : Option Deny :=
  let d := dieOfChan ch
  let h := s.ddr.chan[ch]
  let force := par c 2 1 % 2 == 1
  match chanTaken s d (par c 0 1 == 1) ch with
  | some x => some (denyChanRes .busy s x)
  | none =>
    match par c 0 1 with
    | 1 =>
      if h.state != .active then some (denyChanRes .stateRefused s ch)
      else if !force && ringOnDie s d then some (denyRes .busy 0x0C 0 256) else none
    | 2 =>
      if h.state == .retired || h.state == .excluded then some (denyChanRes .retired s ch)
      else if h.state != .active && h.state != .failedTrain then some (denyChanRes .stateRefused s ch)
      else (notQuiet s d force).map fun i => denyRes .busy 0x0C 0 i
    | 3 =>
      if h.state != .active then some (denyChanRes .stateRefused s ch)
      else (notQuiet s d force).map fun i => denyRes .busy 0x0C 0 i
    | _ =>
      if h.state == .excluded || h.persist then some (denyChanRes .retired s ch)
      else if h.state != .retired then some (denyChanRes .stateRefused s ch)
      else (notQuiet s d force).map fun i => denyRes .busy 0x0C 0 i

/-- The operation carried out, its job having been started; a forced recalibration leaves the pixel stores running. -/
def memTrainDo (c : Cmd) (s : State) (job : Nat) (ch : Fin 8) : State :=
  let d := dieOfChan ch
  let s := if par c 2 1 % 2 == 1 && par c 0 1 != 1 then forceQuiet s d else s
  match par c 0 1 with
  | 1 => s.modChan ch fun h => { h with state := .recal, training := some job }
  | 2 => beginTraining ((dieChans d).foldl (fun s x => wipeChannel s x.val) s) ch (some job) false
  | 3 =>
    let persist := par c 2 1 / 2 % 2 == 1
    let s := s.modChan ch fun h => { h with state := .retired, persist := persist, byCommand := !persist }
    let s := if persist then bookEnter s [{ block := .channel ch.val, byCommand := true }] else s
    finishJob (leaveActive s ch) job .done 0 []
  | _ => beginTraining s ch (some job) false

/-- The descriptor operation: stores it and trains the die's present channels. -/
def memDescribe (s : State) (job : Nat) (d : Fin 2) (m : MemDesc) : State :=
  let s := bookWrite { s with ddr.desc := vset s.ddr.desc d (some m), book.desc := vset s.book.desc d (some m) } .ddr
  let s := (dieChans d).foldl (fun s c =>
    if s.ddr.chan[c].state == .excluded || s.ddr.chan[c].state == .retired then s
    else if m.present.getLsbD (c.val % 4) then beginTraining s c (some job) true
    else s.modChan c fun h => { h with state := .absent }) s
  trainJobDone s (some job)

def memTrainBody (c : Cmd) (s : State) : Except Deny State :=
  let job := s.cmdp.nextId
  let kind := JobKind.memTrain (par c 0 1) (par c 1 1) (par c 2 1 / 2 % 2 == 1)
  if par c 0 1 = 0 then
    let d : Fin 2 := Fin.ofNat 2 (par c 1 1)
    match trainDesc c, chanTaken s d false 0, s.ddr.active[d].head? with
    | none, _, _ => .error (badParam 4)
    | _, some x, _ => .error (denyChanRes .busy s x)
    | _, _, some x => .error (denyChanRes .stateRefused s (Fin.ofNat 8 x))
    | some m, none, none =>
      if s.dev.sbRo then .error (denyDev .noSpace s)
      else .ok (memDescribe (startJob c s kind []) job d m)
  else
    let ch : Fin 8 := Fin.ofNat 8 (par c 1 1)
    match memTrainDeny c s ch with
    | some d => .error d
    | none =>
      let writes := par c 0 1 == 2 || par c 0 1 == 4 || (par c 0 1 == 3 && par c 2 1 / 2 % 2 == 1)
      if writes && s.dev.sbRo then .error (denyDev .noSpace s)
      else .ok (memTrainDo c (startJob c s kind []) job ch)

/-- `MEM_TRAIN` (R294, R307). -/
def execMemTrain (c : Cmd) (s : State) : Host.Outcome State Fault Refusal := .next (runCmd memTrainSpec memTrainBody c s)

/-! ### Requests (R302) -/

/-- The lowest class that waits. -/
def lowestClass (l : List MemReq) : Nat := l.foldl (fun m r => min m r.cls) 5

/-- `MEMORY_ACCESS` (R302): the channel serves the oldest request of the lowest class that waits. -/
def execMemoryAccess (ch : Fin 8) (s : State) : Host.Outcome State Fault Refusal :=
  let h := s.ddr.chan[ch]
  let m := lowestClass h.reqs
  .next (match h.state, h.reqs.find? (fun r => r.cls == m) with
  | .active, some r => serveReq (s.modChan ch fun h => { h with reqs := h.reqs.erase r, powerDown := false }) r
  | _, _ => s)

/-- The oldest request of a class above 2 moves to class 2. -/
def ageFirst : List MemReq → List MemReq
  | [] => []
  | r :: l => if 2 < r.cls then { r with cls := 2 } :: l else r :: ageFirst l

/-- `REQUEST_AGING` (R302): a request that has waited 2 µs moves to class 2. -/
def execRequestAging (ch : Fin 8) (s : State) : Host.Outcome State Fault Refusal :=
  .next (if s.ddr.chan[ch].reqs.any fun r => decide (2 < r.cls) then
    s.modChan ch fun h => { h with reqs := ageFirst h.reqs, cntAged := h.cntAged + 1 }
  else s)

/-! ### Patrol scrub, recalibration, power-down (R297, R306, R309) -/

/-- The device address of a channel-local address (R298 read backwards). -/
def addrOfLocal (s : State) (c : Fin 8) (loc : Nat) : Nat :=
  let d := dieOfChan c
  let l := s.ddr.active[d]
  dieBase d.val + (loc / 1024 * l.length + slotOf l c.val) * 1024 + loc % 1024

/-- Blocks of a channel. -/
def chanBlocks (s : State) (c : Fin 8) : Nat := ((s.ddr.desc[dieOfChan c]).map capGiB).getD 0 * 2 ^ 24

/-- The next block of the sweep is read, after every request that waits at the channel (Table 11-5); a block in which an
error was corrected is written back. -/
def scrubBlock (s : State) (c : Fin 8) : State :=
  let s := serveAhead s 5 c.val
  let h := s.ddr.chan[c]
  let loc := h.scrubPos.toNat * 64
  let k := physKey c.val loc
  let bad := blockBad s k
  let fixes := blockFixes s k
  let back := !bad && decide (0 < fixes)
  let s := countRead s c.val loc (addrOfLocal s c loc)
  let s := if back then { s with ddr.bad := tdrop (fun b => (blockBeats k).contains b) s.ddr.bad } else s
  let ce := h.sweepCe + fixes
  let thr := h.ceThr.toNat
  let cross := thr != 0 && decide (h.sweepCe < thr) && decide (thr ≤ ce)
  let last := decide (chanBlocks s c ≤ h.scrubPos.toNat + 1)
  let s := s.modChan c fun h =>
    { h with scrubPos := if last then 0 else h.scrubPos + 1, sweepCe := if last then 0 else ce,
             cntSweep := if last then h.cntSweep + 1 else h.cntSweep,
             cntWr := if back then h.cntWr + 1 else h.cntWr,
             err := if cross then h.err ||| BitVec.twoPow 32 30 else h.err }
  if cross then raiseEvent s 5 else s

/-- `SCRUB_BLOCK` (R297): on an active channel with the scrub enabled. -/
def execScrubBlock (ch : Fin 8) (s : State) : Host.Outcome State Fault Refusal :=
  .next (if s.ddr.chan[ch].state == .active && s.ddr.chan[ch].scrubEn then scrubBlock s ch else s)

/-- `RECALIBRATION` (R306): one step on a rank of an active channel; `therm` is the refresh rate that the components
report in the steps that read their thermal status. -/
def execRecalibration (ch : Fin 8) (therm : Option (Fin 3)) (s : State) : Host.Outcome State Fault Refusal :=
  .next (if s.ddr.chan[ch].state == .active then
    s.modChan ch fun h =>
      let h := { h with cntRecal := h.cntRecal + 1 }
      match therm with
      | none => h
      | some r => { h with therm := BitVec.ofNat 2 r.val,
                           err := if r.val = 0 then h.err else h.err ||| BitVec.twoPow 32 27 }
  else s)

/-- `POWER_DOWN` (R309): in DOZE an idle channel enters power-down. -/
def execPowerDown (ch : Fin 8) (s : State) : Host.Outcome State Fault Refusal :=
  let h := s.ddr.chan[ch]
  .next (if s.dev.state == .doze && h.state == .active && !h.powerDown && h.reqs.isEmpty then
    s.modChan ch fun h => { h with powerDown := true, cntPd := h.cntPd + 1 }
  else s)

/-- `RELEASE_INDEX_READ` (R301): the release index of a region that a result waits for is read. -/
def execReleaseIndexRead (k : Fin 64) (s : State) : Host.Outcome State Fault Refusal :=
  .next (match regionOf s .result k.val with
  | some r => if resultFree s r then s else readRelease s k.val
  | none => s)

end Sys2Proof.Machine
end

