-- ==== Sys2Proof/Machine/Crypto.lean ====
section
/-! DEFINITION. Machine/Crypto.lean: the standards that R360, R368 and R370 name (log entry 50): SHA-384 (FIPS 180-4),
AES-256 (FIPS 197), GCM (SP 800-38D), CMAC (SP 800-38B), key derivation in counter mode (SP 800-108), key unwrap
(SP 800-38F) and ECDSA over P-384 (FIPS 186). -/

namespace Sys2Proof.Machine

open Sys2Proof

/-! ### Bytes, most significant first -/

/-- The number of a list of bytes, the first most significant. -/
def beNat (l : List Byte) : Nat := l.foldl (fun a b => 256 * a + b.toNat) 0

/-- The `len` bytes of a number, most significant first. -/
def beBytes (len v : Nat) : List Byte := (leBytes len v).reverse

/-- A list cut into blocks of `n`. -/
def blocks (n : Nat) : Nat → List Byte → List (List Byte)
  | 0, _ => []
  | k + 1, l => l.take n :: blocks n k (l.drop n)

/-! ### SHA-384, on 64-bit words as numbers -/

/-- The whole part of the `k`-th root of `n`, found bit by bit; `r` holds the bits found above bit `b`. -/
def rootBits (k n : Nat) : Nat → Nat → Nat
  | 0, r => r
  | b + 1, r => rootBits k n b (if (r + 2 ^ b) ^ k ≤ n then r + 2 ^ b else r)

/-- The first 64 bits of the fraction of the `k`-th root of a prime below 512. -/
def rootFraction (k p : Nat) : Nat := rootBits k (p * 2 ^ (64 * k)) 69 0 % 2 ^ 64

/-- The primes below 410: the first 80. -/
def shaPrimes : List Nat :=
  (List.range 410).filter fun p => 2 ≤ p && (List.range 19).all fun d => p % (d + 2) != 0 || p == d + 2

/-- The constant of each of the 80 rounds is the fraction of a prime's cube root (FIPS 180-4, 4.2.3). -/
def shaRoundFractions : List Nat := shaPrimes.map (rootFraction 3)

/-- The words a digest starts from are the fractions of the square roots of the 9th to 16th primes (FIPS 180-4, 5.3.4). -/
def shaStart : List Nat := ((shaPrimes.drop 8).take 8).map (rootFraction 2)

def rotr (k x : Nat) : Nat := x / 2 ^ k ||| x * 2 ^ (64 - k) % 2 ^ 64
def shaS (a b c x : Nat) : Nat := rotr a x ^^^ rotr b x ^^^ rotr c x
def shaD (a b c x : Nat) : Nat := rotr a x ^^^ rotr b x ^^^ x / 2 ^ c

/-- The message schedule, newest word first, extended by `n` words. -/
def shaExtend : Nat → List Nat → List Nat
  | 0, w => w
  | n + 1, w =>
    shaExtend n ((shaD 19 61 6 (w.getD 1 0) + w.getD 6 0 + shaD 1 8 7 (w.getD 14 0) + w.getD 15 0) % 2 ^ 64 :: w)

/-- One round on the working variables a to h. -/
def shaRound (k w : Nat) : List Nat → List Nat
  | [a, b, c, d, e, f, g, h] =>
    let t1 := h + shaS 14 18 41 e + ((e &&& f) ^^^ ((2 ^ 64 - 1 - e) &&& g)) + k + w
    let t2 := shaS 28 34 39 a + ((a &&& b) ^^^ (a &&& c) ^^^ (b &&& c))
    [(t1 + t2) % 2 ^ 64, a, b, c, (d + t1) % 2 ^ 64, e, f, g]
  | l => l

/-- One block. -/
def shaBlock (h : List Nat) (m : List Byte) : List Nat :=
  let w := (shaExtend 64 ((blocks 8 16 m).map beNat).reverse).reverse
  List.zipWith (fun a b => (a + b) % 2 ^ 64) h ((shaRoundFractions.zip w).foldl (fun v x => shaRound x.1 x.2 v) h)

/-- The message padded to whole blocks of 128 bytes. -/
def shaPad (m : List Byte) : List Byte :=
  m ++ [0x80] ++ List.replicate ((239 - m.length % 128) % 128) 0 ++ beBytes 16 (8 * m.length)

/-- SHA-384. -/
def sha384 (m : List Byte) : List Byte :=
  let p := shaPad m
  (((blocks 128 (p.length / 128) p).foldl shaBlock shaStart).take 6).flatMap (beBytes 8)

/-! ### AES-256 -/

/-- The substitution box: 16 rows of 16 bytes, the first byte of a row most significant. -/
def aesSub : List Nat :=
  [0x637c777bf26b6fc53001672bfed7ab76, 0xca82c97dfa5947f0add4a2af9ca472c0,
   0xb7fd9326363ff7cc34a5e5f171d83115, 0x04c723c31896059a071280e2eb27b275,
   0x09832c1a1b6e5aa0523bd6b329e32f84, 0x53d100ed20fcb15b6acbbe394a4c58cf,
   0xd0efaafb434d338545f9027f503c9fa8, 0x51a3408f929d38f5bcb6da2110fff3d2,
   0xcd0c13ec5f974417c4a77e3d645d1973, 0x60814fdc222a908846eeb814de5e0bdb,
   0xe0323a0a4906245cc2d3ac629195e479, 0xe7c8376d8dd54ea96c56f4ea657aae08,
   0xba78252e1ca6b4c6e8dd741f4bbd8b8a, 0x703eb5664803f60e613557b986c11d9e,
   0xe1f8981169d98e949b1e87e9ce5528df, 0x8ca1890dbfe6426841992d0fb054bb16]
def aesInvSub : List Nat :=
  [0x52096ad53036a538bf40a39e81f3d7fb, 0x7ce339829b2fff87348e4344c4dee9cb,
   0x547b9432a6c2233dee4c950b42fac34e, 0x082ea16628d924b2765ba2496d8bd125,
   0x72f8f66486689816d4a45ccc5d65b692, 0x6c704850fdedb9da5e154657a78d9d84,
   0x90d8ab008cbcd30af7e45805b8b34506, 0xd02c1e8fca3f0f02c1afbd0301138a6b,
   0x3a9111414f67dcea97f2cfcef0b4e673, 0x96ac7422e7ad3585e2f937e81c75df6e,
   0x47f11a711d29c5896fb7620eaa18be1b, 0xfc563e4bc6d279209adbc0fe78cd5af4,
   0x1fdda8338807c731b11210592780ec5f, 0x60517fa919b54a0d2de57a9f93c99cef,
   0xa0e03b4dae2af5b0c8ebbb3c83539961, 0x172b047eba77d626e169146355210c7d]

/-- Byte `x` of a box. -/
def boxByte (t : List Nat) (x : Nat) : Nat := t.getD (x / 16) 0 / 256 ^ (15 - x % 16) % 256
def sub (x : Nat) : Nat := boxByte aesSub x
def invSub (x : Nat) : Nat := boxByte aesInvSub x

/-- Four words as the four columns of a block; a block is a number, byte 0 most significant. -/
def aesCols (a b c d : Nat) : Nat := a * 2 ^ 96 + b * 2 ^ 64 + c * 2 ^ 32 + d

/-- Every byte of a block multiplied by x modulo x^8 + x^4 + x^3 + x + 1. -/
def aesTimes (s : Nat) : Nat :=
  let h := s &&& aesCols 0x80808080 0x80808080 0x80808080 0x80808080
  2 * (s ^^^ h) ^^^ h / 128 * 0x1B

/-- Every column rotated by `k` bytes: byte i becomes byte i + k. -/
def aesRot (k s : Nat) : Nat :=
  let m := fun x => aesCols x x x x
  (s &&& m (2 ^ (32 - 8 * k) - 1)) * 2 ^ (8 * k) ||| s / 2 ^ (32 - 8 * k) &&& m (2 ^ (8 * k) - 1)

/-- Each byte from the byte that `f` names, through a box; byte `i` stands in row `i mod 4` of column `i / 4`. -/
def aesBytes (box : Nat → Nat) (f : Nat → Nat) (s : Nat) : Nat :=
  (List.range 16).foldl (fun a i => 256 * a + box (s / 256 ^ (15 - f i) % 256)) 0

/-- The rows shifted by `k r` columns, through a box. -/
def shiftRows (box k : Nat → Nat) (s : Nat) : Nat := aesBytes box (fun i => i % 4 + 4 * ((i / 4 + k (i % 4)) % 4)) s

def mixColumns (s : Nat) : Nat :=
  let r := aesRot 1 s
  aesTimes s ^^^ aesTimes r ^^^ r ^^^ aesRot 2 s ^^^ aesRot 3 s

/-- The inverse: the factors 14, 11, 13 and 9. -/
def unmixColumns (s : Nat) : Nat :=
  let x2 := aesTimes s
  let x4 := aesTimes x2
  let x8 := aesTimes x4
  x8 ^^^ x4 ^^^ x2 ^^^ aesRot 1 (x8 ^^^ x2 ^^^ s) ^^^ aesRot 2 (x8 ^^^ x4 ^^^ s) ^^^ aesRot 3 (x8 ^^^ s)

/-- The four bytes of a word through the substitution box. -/
def subWord (x : Nat) : Nat :=
  2 ^ 24 * sub (x / 2 ^ 24 % 256) + 2 ^ 16 * sub (x / 2 ^ 16 % 256) + 2 ^ 8 * sub (x / 2 ^ 8 % 256) + sub (x % 256)

/-- The key schedule, newest word first: `n` words more. -/
def aesExpand : Nat → List Nat → List Nat
  | 0, w => w
  | n + 1, w =>
    let i := w.length
    let t := w.headD 0
    let t := if i % 8 = 0 then subWord (t * 256 % 2 ^ 32 + t / 2 ^ 24) ^^^ 2 ^ (i / 8 - 1) * 2 ^ 24
      else if i % 8 = 4 then subWord t else t
    aesExpand n ((w.getD 7 0 ^^^ t) :: w)

/-- The 15 round keys of a 32-byte key. -/
def aesKeys (key : List Byte) : List Nat :=
  let w := (aesExpand 52 ((blocks 4 8 key).map beNat).reverse).reverse
  (List.range 15).map fun r => aesCols (w.getD (4 * r) 0) (w.getD (4 * r + 1) 0) (w.getD (4 * r + 2) 0) (w.getD (4 * r + 3) 0)

/-- The cipher on a block, with its round keys. -/
def aesCipher (ks : List Nat) (b : Nat) : Nat :=
  let s := b ^^^ ks.headD 0
  let s := ((ks.drop 1).take 13).foldl (fun s k => mixColumns (shiftRows sub id s) ^^^ k) s
  shiftRows sub id s ^^^ ks.getD 14 0

/-- The inverse cipher. -/
def aesInverse (ks : List Nat) (b : Nat) : Nat :=
  let s := b ^^^ ks.getD 14 0
  let s := (((ks.drop 1).take 13).reverse).foldl (fun s k => unmixColumns (shiftRows invSub (4 - ·) s ^^^ k)) s
  shiftRows invSub (4 - ·) s ^^^ ks.headD 0

def aesBlock (ks : List Nat) (b : List Byte) : List Byte := beBytes 16 (aesCipher ks (beNat (padTo 16 b)))

/-! ### GCM -/

/-- Multiplication in GF(2^128) as GCM numbers bits: the first bit of the first byte is the most significant. -/
def ghashMul (x y : Nat) : Nat :=
  ((List.range 128).foldl (fun (s : Nat × Nat) i =>
    let v := s.2
    (if x.testBit (127 - i) then s.1 ^^^ v else s.1, if v.testBit 0 then (v / 2) ^^^ (0xE1 * 2 ^ 120) else v / 2)) (0, y)).1

def pad16 (l : List Byte) : List Byte := l ++ List.replicate ((16 - l.length % 16) % 16) 0

def ghash (h : Nat) (l : List Byte) : Nat := (blocks 16 (l.length / 16) l).foldl (fun y b => ghashMul (y ^^^ beNat b) h) 0

/-- The key stream over a text, from counter `ctr`. -/
def gcmStream (ks : List Nat) (iv : List Byte) (ctr : Nat) (l : List Byte) : List Byte :=
  ((blocks 16 ((l.length + 15) / 16) l).zipIdx).flatMap fun x =>
    List.zipWith (· ^^^ ·) x.1 (aesBlock ks (iv ++ beBytes 4 ((ctr + x.2) % 2 ^ 32)))

/-- AES-256-GCM with a 96-bit IV: the plaintext, if the 16-byte tag holds. -/
def gcmOpen (key iv aad cipher tag : List Byte) : Option (List Byte) :=
  let ks := aesKeys key
  let h := beNat (aesBlock ks (List.replicate 16 0))
  let g := ghash h (pad16 aad ++ pad16 cipher ++ beBytes 8 (8 * aad.length) ++ beBytes 8 (8 * cipher.length))
  if gcmStream ks iv 1 (beBytes 16 g) = tag then some (gcmStream ks iv 2 cipher) else none

/-! ### CMAC and the key derivation of R370 -/

def cmacDouble (x : Nat) : Nat := if x < 2 ^ 127 then 2 * x else (2 * x % 2 ^ 128) ^^^ 0x87

/-- CMAC-AES-256. -/
def cmac (key msg : List Byte) : List Byte :=
  let ks := aesKeys key
  let k1 := cmacDouble (beNat (aesBlock ks (List.replicate 16 0)))
  let n := max 1 ((msg.length + 15) / 16)
  let last := msg.drop (16 * (n - 1))
  let x := if last.length = 16 then beNat last ^^^ k1 else beNat (padTo 16 (last ++ [0x80])) ^^^ cmacDouble k1
  let c := (blocks 16 (n - 1) msg).foldl (fun c b => aesBlock ks (beBytes 16 (beNat c ^^^ beNat b))) (List.replicate 16 0)
  aesBlock ks (beBytes 16 (beNat c ^^^ x))

/-- 256 bits derived from a key with a label and a context (R370). -/
def kdf (key label context : List Byte) : List Byte :=
  let input (i : Nat) : List Byte := beBytes 4 i ++ label ++ [0] ++ context ++ beBytes 4 256
  cmac key (input 1) ++ cmac key (input 2)

/-- ASCII characters as bytes. -/
def ascii (s : String) : List Byte := s.toList.map fun c => BitVec.ofNat 8 c.toNat

/-- K0 of an image, and K(i + 1) from K(i) (R370). -/
def keyFirst (key nonce : List Byte) : List Byte := kdf key (ascii "KZP SEG0") nonce
def keyNext (key : List Byte) (i : Nat) : List Byte := kdf key (ascii "KZP SEGN") (beBytes 4 (i + 1))

/-! ### Key unwrap -/

/-- One step of the unwrap: `t` counts down over `6 n`. -/
def unwrapStep (ks : List Nat) (n t : Nat) (s : Nat × List Nat) : Nat × List Nat :=
  let i := (t - 1) % n
  let b := aesInverse ks ((s.1 ^^^ t) * 2 ^ 64 + s.2.getD i 0)
  (b / 2 ^ 64, s.2.set i (b % 2 ^ 64))

/-- The key in 40 wrapped bytes, if the check value holds. -/
def keyUnwrap (kek wrapped : List Byte) : Option (List Byte) :=
  let ks := aesKeys kek
  let w := (blocks 8 5 wrapped).map beNat
  let s := (List.range 24).foldl (fun s k => unwrapStep ks 4 (24 - k) s) (w.headD 0, w.drop 1)
  if s.1 = 0xA6A6A6A6A6A6A6A6 then some (s.2.flatMap (beBytes 8)) else none

/-! ### ECDSA over P-384 -/

def ecP : Nat := 2 ^ 384 - 2 ^ 128 - 2 ^ 96 + 2 ^ 32 - 1
def ecN : Nat := 0xffffffffffffffffffffffffffffffffffffffffffffffffc7634d81f4372ddf581a0db248b0a77aecec196accc52973
def ecB : Nat := 0xb3312fa7e23ee7e4988e056be3f82d19181d9c6efe8141120314088f5013875ac656398d8a2ed19d2a85c8edd3ec2aef
def ecG : Nat × Nat :=
  (0xaa87ca22be8b05378eb1c71ef320ad746e1d3b628ba79b9859f741e082542a385502f25dbf55296c3a545e3872760ab7,
   0x3617de4a96262c6f5d9e98bf9292dc29f8f41dbd289a147ce9da3113b5f0b8c00a60b1ce1d7e819d7a431d7c90ea0e5f)

/-- `a ^ e` modulo `m`, over the low `k` bits of `e`. -/
def powMod (m : Nat) : Nat → Nat → Nat → Nat
  | 0, _, _ => 1
  | k + 1, a, e => (if e % 2 = 1 then a else 1) * powMod m k (a * a % m) (e / 2) % m

def invMod (m a : Nat) : Nat := powMod m 384 (a % m) (m - 2)

/-- A difference modulo the field's prime. -/
def ecSub (a b : Nat) : Nat := (a + (ecP - b % ecP)) % ecP

/-- A point in Jacobian coordinates: x = X / Z ^ 2, y = Y / Z ^ 3; Z = 0 at infinity. -/
structure EcPoint where
  x : Nat
  y : Nat
  z : Nat
  deriving DecidableEq, Repr

def ecInf : EcPoint := ⟨1, 1, 0⟩

def ecDouble (p : EcPoint) : EcPoint :=
  let yy := p.y * p.y % ecP
  let zz := p.z * p.z % ecP
  let s := 4 * p.x * yy % ecP
  let m := 3 * ecSub p.x zz * (p.x + zz) % ecP
  let x := ecSub (m * m) (2 * s)
  ⟨x, ecSub (m * ecSub s x) (8 * yy * yy), 2 * p.y * p.z % ecP⟩

/-- The sum of two points of the curve. -/
def ecAdd (p q : EcPoint) : EcPoint :=
  if p.z = 0 then q
  else if q.z = 0 then p
  else
    let zp := p.z * p.z % ecP
    let zq := q.z * q.z % ecP
    let u := p.x * zq % ecP
    let s := p.y * zq * q.z % ecP
    let h := ecSub (q.x * zp) u
    let r := ecSub (q.y * zp * p.z) s
    if h = 0 then (if r = 0 then ecDouble p else ecInf)
    else
      let hh := h * h % ecP
      let v := u * hh % ecP
      let x := ecSub (r * r) (hh * h + 2 * v)
      ⟨x, ecSub (r * ecSub v x) (s * hh * h), h * p.z * q.z % ecP⟩

/-- `e` times a point, over the low `k` bits of `e`. -/
def ecMul : Nat → EcPoint → Nat → EcPoint
  | 0, _, _ => ecInf
  | k + 1, p, e => ecAdd (if e % 2 = 1 then p else ecInf) (ecMul k (ecDouble p) (e / 2))

/-- An uncompressed SEC1 public key of 97 bytes that lies on the curve. -/
def ecKey (l : List Byte) : Option (Nat × Nat) :=
  let x := beNat ((l.drop 1).take 48)
  let y := beNat ((l.drop 49).take 48)
  if l.headD 0 = 4 ∧ x < ecP ∧ y < ecP ∧ y * y % ecP = (x * x * x + (ecP - 3) * x + ecB) % ecP then some (x, y) else none

/-- The signature of a SHA-384 digest holds under a public key. -/
def ecdsaOk (key digest r s : List Byte) : Bool :=
  let r := beNat r
  let s := beNat s
  match ecKey key with
  | none => false
  | some q =>
    if r = 0 ∨ ecN ≤ r ∨ s = 0 ∨ ecN ≤ s then false
    else
      let w := invMod ecN s
      let t := ecAdd (ecMul 384 ⟨ecG.1, ecG.2, 1⟩ (beNat digest * w % ecN)) (ecMul 384 ⟨q.1, q.2, 1⟩ (r * w % ecN))
      t.z != 0 && t.x * invMod ecP (t.z * t.z) % ecP % ecN == r

end Sys2Proof.Machine
end

