-- ==== Sys2Proof/Machine/Scheduler.lean ====
section
/-! DEFINITION. Machine/Scheduler.lean: dispatch, completion, release and the records of the fabric operation ports
(R184 to R204), spill refill, admission that resumes and the end of a drain. -/

namespace Sys2Proof.Machine

open Sys2Proof

/-! ### Eligibility (R192) and choice (R194) -/

/-- A caster's state lets it be eligible: it holds a kernel and runs it, and no load or retirement of it is in progress. -/
def casterServes (h : Caster) : Bool :=
  h.place && !h.dozeStopped &&
  match h.mode with
  | .running | .inTake | .waiting | .inWaitc | .faulted => true
  | _ => false

/-- A caster is eligible for an operation. -/
def eligible (s : State) (o : Op) (c : Nat) : Bool :=
  let h := vget ({} : Caster) s.cast c
  decide (c < 256) && (opMask s o).getLsbD c && h.kernel == o.kernel && o.kernel != 0 && casterServes h

def emptySlots (h : Caster) : Nat := b2n (h.slots[0].state == .empty) + b2n (h.slots[1].state == .empty)

def slotsOf (s : State) (c : Nat) : Nat := emptySlots (vget ({} : Caster) s.cast c)

/-- The 256 casters in increasing number modulo 256, starting at `c`. -/
def castersFrom (c : Nat) : List Nat := (List.range 256).map fun i => (c + i) % 256

/-- Casters of an affinity group's size (R174). -/
def groupSize (o : Op) : Nat :=
  match o.group with
  | 0 => 1 | 1 => 4 | 2 => 16 | _ => 128

def sameGroup (o : Op) (a b : Nat) : Bool := a / groupSize o == b / groupSize o

/-- The first eligible caster of a list with two EMPTY slots, else with one. -/
def pickFrom (s : State) (o : Op) (l : List Nat) : Option Nat :=
  let e := l.filter fun c => eligible s o c && decide (0 < slotsOf s c)
  (e.find? fun c => slotsOf s c == 2).or e.head?

/-- Stage 2: the group of the last executor. -/
def pickGroup (s : State) (o : Op) (l : Nat) : Option Nat :=
  pickFrom s o ((castersFrom (l + 1)).filter (sameGroup o l))

/-- Stage 3: the last executor's die first; from caster 0 with no last executor. -/
def pickAll (s : State) (o : Op) (last : Option Nat) : Option Nat :=
  match last with
  | none => pickFrom s o (castersFrom 0)
  | some l =>
    let order := castersFrom (l + 1)
    (pickFrom s o (order.filter fun c => c / 128 == l / 128)).or (pickFrom s o (order.filter fun c => c / 128 != l / 128))

/-- The last executor of a class 1 operation, where it is still eligible. -/
def lastCaster (s : State) (op : Nat) (o : Op) : Option Nat :=
  match tget none s.sch.last op with
  | some (.caster c) => if eligible s o c then some c else none
  | _ => none

/-- The caster for the head of a class 1 operation after patience time `w`, with the stage it was found in. -/
def chooseCaster (s : State) (op : Nat) (o : Op) (w : Nat) : Option (Nat × Nat) :=
  let last := lastCaster s op o
  match last with
  | none => (pickAll s o none).map fun c => (c, 3)
  | some l =>
    if 0 < slotsOf s l then some (l, 1)
    else if w < o.patience then none
    else match pickGroup s o l with
    | some c => some (c, 2)
    | none => if w < 2 * o.patience then none else (pickAll s o (some l)).map fun c => (c, 3)

/-- The port of a class 2 operation takes an item now (R185, R192). -/
def portTakesItem (s : State) (n : Nat) : Bool :=
  decide ((vget ({} : OpPort) s.sch.ports n).items.length < 4) && delReady s n

/-- The executor for a head, with the stage. -/
def choose (s : State) (op : Nat) (o : Op) (w : Nat) : Option (Executor × Nat) :=
  if o.cls = 2 then if portTakesItem s o.target then some (.port o.target, 1) else none
  else if o.cls = 1 then (chooseCaster s op o w).map fun x => (.caster x.1, x.2)
  else none

/-! ### Placement (R178, R195) -/

/-- Length of the operand window. -/
def windowLen (o : Op) (i : Item) : Nat :=
  if !itPtr i || o.winLen == 0 then 0 else if o.lenFromItem then min o.winLen (itLen i) else o.winLen

/-- The item in the first EMPTY slot of caster `c`. -/
def placeCaster (s : State) (c : Fin 256) (o : Op) (i : Item) (oid : Nat) : State × Bool :=
  let h := s.cast[c]
  let n : Fin 2 := if h.slots[0].state = .empty then 0 else 1
  let len := windowLen o i
  let x : Slot := { state := if len = 0 then .ready else .filling, item := i, winSrc := if len = 0 then 0 else itAddr i,
                    winLen := len, winErr := false, order := h.placed, oid := oid }
  (wakeCaster (s.modCast c fun h => { h with slots := vset h.slots n x, placed := h.placed + 1 }) c, n == 1)

/-- The item on a port's `DEL_DATA`. -/
def placePort (s : State) (n : Nat) (i : Item) (oid : Nat) : State :=
  delRecord { s with sch.ports := vmodN s.sch.ports n fun x => { x with items := x.items ++ [(itFlow i, oid, 0)] } } n i

def place (s : State) (e : Executor) (o : Op) (i : Item) (oid : Nat) : State × Bool :=
  match e with
  | .caster c => placeCaster s (Fin.ofNat 256 c) o i oid
  | .port n => (placePort s n i oid, false)

/-- The head leaves the queue: a returned item is dispatched again, any other joins the outstanding items. -/
def popHead (s : State) (f : Nat) (cycle : Nat) (new : OutItem → OutItem) : State × Nat :=
  let x := s.flow f
  let w := cycle - x.headAt
  match backHead x with
  | some b => ((modOut s f b.id fun o => { new o with back := false, patience := w }).modFlow f fun x => newHead x cycle, b.id)
  | none =>
    let id := s.sch.nextId
    let i := x.pool.headD zeroItem
    let o := new { id := id, item := i, patience := w }
    (({ s with sch.nextId := id + 1 } : State).modFlow f fun x =>
      newHead { x with pool := x.pool.drop 1, out := x.out ++ [o] } cycle, id)

/-- A dispatch counted, with the round robin of its priority moved. -/
def countDispatch (s : State) (f op : Nat) : State :=
  let p := (s.flow f).prio
  { s with sch.rr := vmodN s.sch.rr p fun _ => some f, sch.opDisp := tmod 0 s.sch.opDisp op (· + 1),
           sch.cnt := { s.sch.cnt with disp := s.sch.cnt.disp + 1, dispP := vmodN s.sch.cnt.dispP p (· + 1) } }

/-- A class 3 or 4 head completes at once, with one result that is the item itself. -/
def completeNow (s : State) (f : Nat) (i : Item) (cycle : Nat) : State :=
  let s := (countDispatch s f (itOp i)).modCnt fun c => { c with atDisp := c.atDisp + 1 }
  let (s, _) := popHead s f cycle fun o => { o with results := [.emit i], done := true, direct := true }
  traceCycle (fun s => releaseFlow (traceItem s 2 1023 i false) f) s

/-- A placement. -/
def placeHead (s : State) (f : Nat) (i : Item) (o : Op) (e : Executor) (stage cycle : Nat) : State :=
  let (s, oid) := popHead (countDispatch s f (itOp i)) f cycle fun x => { x with exec := some e, reserved := 16 }
  let (s, slot1) := place { s with sch.reserved := s.sch.reserved + 16,
                                   sch.last := tput none s.sch.last (itOp i) (some e) } e o i oid
  let s := traceItem s 2 (execCode (some e)) i slot1
  if stage = 1 then s
  else
    let s := s.modCnt fun c => { c with affmiss := c.affmiss + 1 }
    traceItem { s with sch.opOut := tmod 0 s.sch.opOut (itOp i) (· + 1) } 10 (execCode (some e)) i (stage == 3)

/-- The dispatch head of a flow (R193). -/
def headOf (x : Flow) : Option Item :=
  match backHead x with
  | some o => some o.item
  | none => if x.out.length < 256 then x.pool.head? else none

/-- Dispatchable flows of a priority, round robin in flow-ID order. -/
def flowsInTurn (s : State) (prio : Nat) : List Nat :=
  let l := (s.sch.flows.filter fun e => e.2.prio == prio && (headOf e.2).isSome).map Prod.fst
  match vget none s.sch.rr prio with
  | none => l
  | some r => (l.filter fun f => decide (r < f)) ++ l.filter fun f => decide (f ≤ r)

/-- One flow of a dispatch step; none when it is passed over. -/
def tryFlow (s : State) (f prev cycle : Nat) : Option State :=
  match headOf (s.flow f) with
  | none => none
  | some i =>
    let o := opRec s (itOp i)
    if o.cls = 3 ∨ o.cls = 4 then some (completeNow s f i cycle)
    else if poolFree s < 16 then
      some ({ s with sch.placeWait := true }.modCnt fun c =>
        { c with placewait := c.placewait + BitVec.ofNat 32 (max 1 (cycle - prev)) })
    else match choose s (itOp i) o (cycle - (s.flow f).headAt) with
    | none => none
    | some (e, stage) => some (placeHead s f i o e stage cycle)

/-- `DISPATCH` at scheduler cycle `cycle`, in SERVICE (R193 to R195): the dispatchable flows are tried in turn until one
dispatches or waits for pool entries. -/
def execDispatch (cycle : Nat) (s : State) : Host.Outcome State Fault Refusal :=
  .next (if s.dev.state == .service && decide (s.sch.cycle + 2 ≤ cycle) then
    let prev := s.sch.cycle
    let s := { s with sch.cycle := cycle, sch.placeWait := false }
    (((List.range 4).flatMap (flowsInTurn s)).findSome? fun f => tryFlow s f prev cycle).getD s
  else s)

/-! ### Completions (R196, R197) -/

/-- The casters whose output half waits. -/
def outWaiting (s : State) (c : Nat) : Bool := !(vget ({} : Caster) s.cast c).outHalf.isEmpty

/-- Caster `c` may be granted: no other waiting entry has seen it granted already. -/
def arbFair (s : State) (c : Nat) : Bool :=
  s.sch.waited.all fun e => e.1 == c || !outWaiting s e.1 || !e.2.getLsbD c

/-- The arbiter's record after a grant to `c`; how long the entry waited, up to 256 cycles, the spec does not fix. -/
def arbGrant (s : State) (c : Nat) : State :=
  let (w, s) := s.drawNat
  { s with sch.arbWaitMax := max s.sch.arbWaitMax (w % 257), sch.waited := (List.range 256).foldl (fun t w =>
      if w ≠ c ∧ outWaiting s w then tput 0 t w (tget 0 s.sch.waited w ||| BitVec.twoPow 256 c) else t) [] }

/-- An entry of an output half reaches the reorder stage. -/
def acceptEntry (s : State) (e : OutEntry) : State :=
  match e.kind with
  | .emit => addResult s e.flow e.oid (.emit e.item)
  | .pass k => addResult s e.flow e.oid (.pass k e.item)
  | .completion => completeItem s e.flow e.oid

/-- `COMPLETION_GRANT`: the oldest entry of caster `c`'s output half. -/
def execCompletionGrant (c : Fin 256) (s : State) : Host.Outcome State Fault Refusal :=
  .next (match s.cast[c].outHalf with
  | [] => s
  | e :: r =>
    if s.dev.state == .service && arbFair s c.val then
      let s := arbGrant s c.val
      acceptEntry (wakeCaster (s.modCast c fun h => { h with outHalf := r }) c) e
    else s)

/-- `RELEASE_RESUME` (R197, R204). -/
def execReleaseResume (flow : BitVec 20) (s : State) : Host.Outcome State Fault Refusal := .next (releaseFlow s flow.toNat)

/-! ### Port records (R184 to R186) -/

/-- A record at the head of a port's crossing. -/
structure Record where
  kind  : Option Nat := none        -- none: a bad kind token
  data  : List (BitVec 16) := []    -- the 64 tokens in byte order
  bytes : Nat := 0
  deriving DecidableEq, Repr

/-- The 64 tokens of a record, byte 8i + k being token i of lane k. -/
def recordTokens (x : OpPort) : List (BitVec 16) :=
  (List.range 64).map fun i => (vget [] x.data (i % 8)).getD (i / 8) 0

/-- The record that the port's kind token opens, once it is whole. -/
def portRecord (x : OpPort) : Option Record :=
  match x.ctl with
  | [] => none
  | k :: _ =>
    if !complete k then some {}
    else if tokenOf k ≤ 9 then
      if x.data.toList.all fun l => decide (8 ≤ l.length) then some { kind := some (tokenOf k), data := recordTokens x, bytes := 8 }
      else none
    else some { kind := some (tokenOf k) }

/-- Tokens of a record that are poisoned or violate the code. -/
def badTokens (r : Record) : Nat := b2n r.kind.isNone + (r.data.filter fun t => !complete t).length

def recordItem (r : Record) : Item := itemOf (r.data.map fun t => BitVec.ofNat 8 (tokenOf t))

/-- The record's tokens leave the crossing, whose lanes take more. -/
def consumeRecord (s : State) (n : Fin 512) (r : Record) : State :=
  let s := s.modOpPort n fun x =>
    { x with ctl := x.ctl.drop 1, data := x.data.map (fun l => l.drop r.bytes), holding := false,
             received := if r.bytes = 0 then x.received else x.received + 1 }
  let a := autoTakes s ((List.range 9).map fun j => Leaf.op n.val j)
  settle a.1 a.2

/-- A record discarded under R186: every bad token is counted as a paddock error. -/
def discardRecord (s : State) (n : Fin 512) (r : Record) : State :=
  let k : Fin 64 := ⟨n.val / 8, by omega⟩
  let s := (List.range (badTokens r)).foldl (fun s _ => pdkCount s k) s
  consumeRecord (s.modCnt fun c => { c with porterr := c.porterr + 1 }) n r

/-- A record that no port takes: bad tokens, or a kind that R185 does not list. -/
def recordBad (r : Record) : Bool :=
  badTokens r != 0 || match r.kind with | some v => decide (10 < v) | none => true

/-- One row of the port records: the head record of port `n`, of a kind that the row names. -/
def portRow (s : State) (n : Fin 512) (mine : Nat → Bool) (f : State → Record → Nat → State) : State :=
  if !portServed s n.val then s
  else match portRecord s.sch.ports[n] with
  | none => s
  | some r =>
    if recordBad r then discardRecord s n r
    else match r.kind with
    | some v => if mine v then f s r v else s
    | none => s

/-- A submission: discarded when its operation or its flow cannot take it, else admitted or held back (R186, R188). -/
def submitRecord (s : State) (n : Fin 512) (r : Record) : State :=
  let mode := portMode s n.val
  let i := recordItem r
  let cls := b2n (mode == 2)
  if mode ≠ 1 ∧ mode ≠ 2 then discardRecord s n r
  else if (opRec s (itOp i)).cls = 0 ∨ (s.flow (itFlow i)).state ≠ .open then consumeRecord (schDiscard s 1) n r
  else
    let (t, ok) := enterItem s (.port n.val) cls i
    if ok then consumeRecord t n r
    else if s.sch.ports[n].holding then s
    else (holdBegins s (.port n.val) cls i).modOpPort n fun x => { x with holding := true }

/-- The held records of ports whose flow, from `lo` to `hi`, is no longer OPEN: the ports discard them (R480). -/
def dropClosed (s : State) (lo hi : Nat) : State :=
  (List.finRange 512).foldl (fun s n =>
    let held := s.sch.ports[n].holding && match portRecord s.sch.ports[n] with
      | some r =>
        let f := itFlow (recordItem r)
        decide (lo ≤ f) && decide (f ≤ hi) && (s.flow f).state != .open
      | none => false
    if held then portRow s n (· == 0) fun s r _ => submitRecord s n r else s) s

/-- `PORT_SUBMIT`. -/
def execPortSubmit (n : Fin 512) (s : State) : Host.Outcome State Fault Refusal :=
  .next (portRow s n (· == 0) fun s r _ => submitRecord s n r)

/-- The oldest delivered item that is not done has one result more. -/
def countSent (s : State) (n : Fin 512) : State :=
  s.modOpPort n fun x => { x with items := match x.items with | (f, o, k) :: l => (f, o, k + 1) :: l | [] => [] }

/-- A result of the oldest delivered item. `op`: the operation it names; none where there is no such edge. Outside SERVICE
the items in ports keep their state (R204): the result waits, but a record that is discarded never does (R186). -/
def resultRecord (s : State) (n : Fin 512) (r : Record) (op : Op → Nat → Option Nat) (mk : Item → Result) : State :=
  match s.sch.ports[n].items with
  | [] => discardRecord s n r
  | (f, oid, k) :: _ =>
    match findOut s f oid with
    | none => discardRecord s n r
    | some o =>
      match op (opRec s (itOp o.item)) (itOp o.item) with
      | none => discardRecord s n r
      | some x =>
        if 16 ≤ k then discardRecord s n r
        else if s.dev.state ≠ .service then s
        else consumeRecord (addResult (countSent s n) f oid (mk (setOp (resultItem o.item (recordItem r)) x))) n r

/-- `PORT_EMIT`. -/
def execPortEmit (n : Fin 512) (s : State) : Host.Outcome State Fault Refusal :=
  .next (portRow s n (· == 1) fun s r _ =>
    if portMode s n.val ≠ 3 then discardRecord s n r
    else resultRecord s n r (fun _ op => some op) Result.emit)

/-- `PORT_PASS` along edge `v` − 2. -/
def execPortPass (n : Fin 512) (s : State) : Host.Outcome State Fault Refusal :=
  .next (portRow s n (fun v => decide (2 ≤ v) && decide (v ≤ 9)) fun s r v =>
    if portMode s n.val ≠ 3 then discardRecord s n r
    else resultRecord s n r (fun o _ => vget none o.edges (v - 2)) (Result.pass (v - 2)))

/-- `PORT_DONE`. -/
def execPortDone (n : Fin 512) (s : State) : Host.Outcome State Fault Refusal :=
  .next (portRow s n (· == 10) fun s r _ =>
    if portMode s n.val ≠ 3 then discardRecord s n r
    else match s.sch.ports[n].items with
    | [] => discardRecord s n r
    | (f, oid, _) :: l => if s.dev.state ≠ .service then s else completeItem (consumeRecord (s.modOpPort n fun x => { x with items := l }) n r) f oid)

/-! ### Spill refill (R190, Table 11-2) -/

/-- The flow refilled next: an empty pool part first, then the lowest priority value, then the flow after the last one
refilled. -/
def refillFlow (s : State) : Option Nat :=
  let l := s.sch.flows.filter fun e => !e.2.spill.isEmpty
  let l := if l.any fun e => e.2.pool.isEmpty then l.filter fun e => e.2.pool.isEmpty else l
  let p := l.foldl (fun m e => min m e.2.prio) 3
  let ids := (l.filter fun e => e.2.prio == p).map Prod.fst
  match s.sch.refillRr with
  | none => ids.head?
  | some r => (ids.find? fun f => decide (r < f)).or ids.head?

/-- The items of a page, read one by one; an item in an uncorrectable block is dropped and counted. -/
def pageItems (s : State) (a : Nat) : Nat → State × List Item
  | 0 => (s, [])
  | n + 1 =>
    let (s1, l, bad) := ddrFetch s .sched a 64
    let (s2, r) := pageItems (if bad then schDiscard s1 1 else s1) (a + 64) n
    (s2, if bad then r else itemOf l :: r)

/-- The oldest page of a flow refilled. -/
def refillPage (s : State) (f : Nat) (r : Region) (p : SpillPage) : State :=
  let (s, items) := pageItems { s with sch.refilling := none } (r.base + 4096 * p.page) p.used
  let s := freeSpillPage (s.modFlow f fun x => { x with spill := x.spill.drop 1 }) p.page
  let s := items.foldl (fun s i => poolAppend (poolAdd s 1) f i) s
  let s := ({ s with sch.refillRr := some f } : State).modCnt fun c => { c with refill := c.refill + 1 }
  let s := match items.head? with | some i => traceItem s 6 1023 i false | none => s
  closeIfEmpty (settleTails s) f

/-- The flow whose refill is in progress, else the one refilled next while the pool level allows it. -/
def refillNow (s : State) : Option Nat :=
  match s.sch.refilling with
  | some f => if (s.flow f).spill.isEmpty then none else some f
  | none => if s.sch.used < s.sch.params.refillBelow then refillFlow s else none

/-- `SPILL_REFILL`: a refill whose page the memory cannot give yet stays in progress. -/
def execSpillRefill (s : State) : Host.Outcome State Fault Refusal :=
  .next (match refillNow s, spillRegion s with
  | some f, some r =>
    match (s.flow f).spill with
    | p :: _ =>
      if memReady s (r.base + 4096 * p.page) 4096 then traceCycle (fun s => refillPage s f r p) s
      else { s with sch.refilling := some f }
    | [] => s
  | _, _ => { s with sch.refilling := none })

/-! ### FLOW_SUBMIT's items and admission that resumes (R183, R188, R480) -/

/-- The source of a command's items. -/
def srcOf : CmdSrc → ItemSrc
  | .ring p n => .ring p n
  | .mailbox p => .mailbox p
  | .sideband => .mailbox 0

/-- Items of a host submission admitted in order as long as each can be: the state, the items left, how many were
dropped because their flow is not OPEN. -/
def admitItems (s : State) (src : ItemSrc) (dropped : Nat) : List Item → State × List Item × Nat
  | [] => (s, [], dropped)
  | i :: r =>
    if (s.flow (itFlow i)).state ≠ .open then admitItems (schDiscard s 1) src (dropped + 1) r
    else
      let (t, ok) := enterItem s src 1 i
      if ok then admitItems t src dropped r else (s, i :: r, dropped)

/-- A waiting submission goes on: it stops again at an item that cannot be admitted, and completes after the last. -/
def resumeSubmit (s : State) (j : Job) (items : List Item) (dropped : Nat) : State :=
  let (t, rest, d) := admitItems s (srcOf j.src) dropped items
  if rest.isEmpty then
    if d = 0 then finishJob t j.id .done 0 [] else finishJob t j.id .done 1 (leBytes 4 d)
  else
    let t := match rest.head? with
      | some i => if rest.length < items.length then holdBegins t (srcOf j.src) 1 i else t
      | none => t
    setJobKind t j.id (.flowSubmit rest d)

/-- A submission whose next item can move. -/
def submitMoves (s : State) (j : Job) : Bool :=
  match j.kind with
  | .flowSubmit (i :: _) _ => (s.flow (itFlow i)).state != .open || (admitHow s (itFlow i) 1 == .pool)
  | _ => false

/-- `ADMISSION_RESUME`: the record that port `src` holds back, or the first waiting `FLOW_SUBMIT` that can go on. -/
def execAdmissionResume (src : Option (Fin 512)) (s : State) : Host.Outcome State Fault Refusal :=
  .next (match src with
  | some n => if s.sch.ports[n].holding then portRow s n (· == 0) fun s r _ => submitRecord s n r else s
  | none =>
    match s.cmdp.jobs.find? (submitMoves s) with
    | some j =>
      match j.kind with
      | .flowSubmit items dropped => resumeSubmit s j items dropped
      | _ => s
    | none => s)

/-! ### The end of a drain (R203) and limits -/

/-- Flows of a range in a state. -/
def flowsIn (s : State) (lo hi : Nat) (st : FlowState) : List Nat :=
  (s.sch.flows.filter fun e => decide (lo ≤ e.1) && decide (e.1 ≤ hi) && e.2.state == st).map Prod.fst

/-- `FLOW_DRAIN_COMPLETE`. -/
def execFlowDrainComplete (job : Nat) (s : State) : Host.Outcome State Fault Refusal :=
  .next (match findJob s job with
  | some j =>
    match j.kind with
    | .flowDrain lo hi =>
      let s := (flowsIn s lo hi .draining).foldl closeIfEmpty s
      if (flowsIn s lo hi .draining).isEmpty then finishJob s job .done 0 [] else s
    | _ => s
  | none => s)

/-- `COMMAND_LIMIT_EXPIRY` (R166, R167, R203). -/
def execCommandLimitExpiry (job : Nat) (s : State) : Host.Outcome State Fault Refusal :=
  .next (match findJob s job with
  | some j =>
    match j.kind with
    | .kernelLoad _ _ _ _ _ _ _ _ | .casterRetire _ _ _ => casterLimit s j
    | .flowDrain lo hi =>
      let s := (flowsIn s lo hi .draining).foldl closeIfEmpty s
      if (flowsIn s lo hi .draining).isEmpty then finishJob s job .done 0 [] else finishJob s job .timeout 0 []
    | _ => s
  | none => s)

/-! ### Cooling and ticks (R210, R214 to R218) -/

/-- `COOL_DUE`: the domains are evaluated, and the first entry that has become due re-enters its flow. -/
def execCoolDue (s : State) : Host.Outcome State Fault Refusal :=
  .next (if coolState s.dev.state then
    let s := evalDomains s
    match s.cool.dueQ with
    | [] => s
    | e :: r =>
      let s := { s with cool.dueQ := r, cool.cntDue := s.cool.cntDue + 1 }
      traceCycle (fun s => reenter (traceItem s 8 (1007 + e.profile) e.item false) (itFlow e.item) e.item) s
  else s)

/-- `TICK_INPUT`: a pending token of a tick input is delivered and counted. -/
def execTickInput (n : Fin 8) (s : State) : Host.Outcome State Fault Refusal :=
  .next (if s.pins.tickPend[n] = 0 then s
  else tickDue { s with pins.tickPend := vmod s.pins.tickPend n (· - 1), cool.ticks := vmod s.cool.ticks n (· + 1) })

end Sys2Proof.Machine
end

