-- ==== Sys2Proof/Machine/Flags.lean ====
section
/-! DEFINITION. Machine/Flags.lean: what a stall computes: product terms and steering (R22 to R24), the XOR-with-held path
(R35), the digit adder and its carry (R36), the outcome of an output (R26) and the consume controls (R27). -/

namespace Sys2Proof.Machine

open Sys2Proof

/-- The 64 literal columns of a fire set (R22): the rails of ports A to D, low where a port takes no part. -/
def columns (r : Fin 4 → BitVec 16) : Nat :=
  (r 0).toNat + (r 1).toNat * 2 ^ 16 + (r 2).toNat * 2 ^ 32 + (r 3).toNat * 2 ^ 48

/-- The macrocell that a term serves under its steering code (R24). -/
def steered (m code : Nat) : Option Nat :=
  match code with
  | 0 => some m
  | 1 => if m = 0 then none else some (m - 1)
  | 2 => if m = 7 then none else some (m + 1)
  | _ => none

/-- The rails that the product terms raise, four for each macrocell in turn (R23, R24). -/
def termRails (s : State) (k n : Nat) (cols : Nat) : Nat :=
  (List.range 96).foldl (fun acc t =>
    let row := stallField s k n (64 * t) 64
    if row ≠ 0 ∧ row &&& cols = row then
      match steered (t / 12) (stallField s k n (6144 + 2 * t) 2) with
      | some m => acc ||| 2 ^ (4 * m + t % 12 / 3)
      | none => acc
    else acc) 0

/-- A digit's rails with the digit XORed by a held digit (R35). -/
def xorRails (r held : Nat) : Nat :=
  (List.range 4).foldl (fun a i => if r.testBit i then a ||| 2 ^ (i ^^^ held) else a) 0

/-- What a firing evaluates: four rails for each macrocell, and macrocell 7's carry (R26, R36). -/
structure Eval where
  rails : Nat := 0
  carry : Nat := 0
  deriving DecidableEq, Repr

/-- The digit of a port that takes part, 0 where it reads nothing (R36). -/
def operand (r : BitVec 16) (d : Nat) : Nat := (digitVal (digitRails r d)).getD 0

/-- Macrocells `m` upward, with the carry out of the macrocell below (R35, R36). `held` holds the eight held digits and
`cin` is macrocell 0's carry in. -/
def evalFrom (s : State) (k n : Nat) (r : Fin 4 → BitVec 16) (terms held cin : Nat) : Nat → Nat → Nat → Eval → Eval
  | 0, _, _, e => e
  | left + 1, m, c, e =>
    let h := held / 4 ^ m % 4
    if mcCarry s k n m then
      let (pa, pb) := if m < 4 then (r 0, r 1) else (r 2, r 3)
      let b := if mcHeld s k n m then h else operand pb (m % 4)
      let b := if mcOpbInv s k n m then 3 - b else b
      let sum := operand pa (m % 4) + b + (if m = 0 then cin else c)
      evalFrom s k n r terms held cin left (m + 1) (sum / 4)
        { rails := e.rails + 2 ^ (4 * m + sum % 4), carry := sum / 4 }
    else
      let t := terms / 16 ^ m % 16
      let t := if mcHeld s k n m then xorRails t h else t
      evalFrom s k n r terms held cin left (m + 1) 0 { rails := e.rails + t * 16 ^ m, carry := 0 }

/-- All eight macrocells. -/
def evalStall (s : State) (k n : Nat) (r : Fin 4 → BitVec 16) (held cin : Nat) : Eval :=
  evalFrom s k n r (termRails s k n (columns r)) held cin 8 0 0 {}

/-- The rails of output `o` in an evaluation. -/
def evalOut (e : Eval) (o : Nat) : BitVec 16 := BitVec.ofNat 16 (e.rails / 65536 ^ o)

/-- Macrocell `m`'s rails. -/
def evalMc (e : Eval) (m : Nat) : Nat := e.rails / 16 ^ m % 16

/-- The outcome of a used output (R26). -/
inductive Outcome1 where
  | emits | null | violation
  deriving DecidableEq, Repr

def outcomeOf (r : BitVec 16) : Outcome1 := if complete r then .emits else if r = 0 then .null else .violation

/-- A port's consume control is met (R27). -/
def consumes (s : State) (k n p : Nat) (e : Eval) : Bool :=
  let rail := (evalMc e (portCondMc s k n p)).testBit (portCondRail s k n p)
  match portConsume s k n p with
  | 0 => true
  | 1 => false
  | 2 => rail
  | _ => !rail

/-- The held digits with each valid digit of the macrocells in `ms` taken (R30). -/
def takeHeld (held : BitVec 16) (e : Eval) (ms : List Nat) : BitVec 16 :=
  ms.foldl (fun h m => match digitVal (evalMc e m) with
    | some v => setFld h (2 * m) 2 v
    | none => h) held

end Sys2Proof.Machine
end

