-- ==== Sys2Proof/Machine/Stall.lean ====
section
/-! DEFINITION. Machine/Stall.lean: firings and gangs of stalls (R25 to R46), gate cell discards (R69, R73), row tap
events (R81, R82) and the edges of USER trees (R33, R80). -/

namespace Sys2Proof.Machine

open Sys2Proof

def stallNo (k n : Nat) : Nat := 2048 * k + n

def stallSt (s : State) (k n : Nat) : StallSt := tget {} s.fab.stalls (stallNo k n)

def State.modStall (s : State) (k n : Nat) (f : StallSt → StallSt) : State :=
  { s with fab.stalls := tmod {} s.fab.stalls (stallNo k n) f }

/-- The ports of the stall's own firing whose role is required, and those that are alternatives (R25). -/
def requiredPorts (s : State) (k n : Nat) : List Nat :=
  (List.range 4).filter fun p => portRole s k n p == 1 && !gangPort s k n p
def altPorts (s : State) (k n : Nat) : List Nat :=
  (List.range 4).filter fun p => portRole s k n p == 2 && !gangPort s k n p

/-- Records a stall fault and holds the stall (R46). -/
def stallFault (s : State) (k : Fin 64) (n : Nat) (kind site : Nat) : State :=
  pdkFault (s.modStall k n fun x => { x with fault := true }) k kind site n

/-- CODE or POISON for a bad token (R46). -/
def faultKind (r : BitVec 16) : Nat := if r = poison then 2 else 1

/-- The stall above presents a carry that this one may take (R37, R41): the value of the dual rail. -/
def chainIn (s : State) (k n : Nat) : Option Nat :=
  if 64 ≤ n ∧ chainOut s k (n - 64) then
    match (s.chan (carryKey k (n - 64))).rails.toNat with
    | 1 => some 0
    | 2 => some 1
    | _ => none
  else none

/-- Macrocell 0's carry in (R36); none while a chained carry is awaited. -/
def carryIn (s : State) (k n : Nat) : Option Nat :=
  match cinSel s k n with
  | 0 => some 0
  | 1 => some 1
  | 2 => chainIn s k n
  | _ => some 0

/-- The grant that still holds (R42), while its port keeps its token. -/
def heldGrant (s : State) (k n : Nat) : Option Nat :=
  ((stallSt s k n).grant.map Fin.val).filter fun g => complete (seen s (.port k n g))

/-- The arbiter may grant alternative port `g` now (R42, R43): it holds a complete token, no other port's grant still
holds, and no other waiting port was passed over for it before. -/
def mayGrant (s : State) (k n g : Nat) : Bool :=
  (altPorts s k n).contains g && complete (seen s (.port k n g)) &&
    match heldGrant s k n with
    | some h => g == h
    | none => (altPorts s k n).all fun w =>
        w == g || !complete (seen s (.port k n w)) || !(stallSt s k n).passed.getLsbD (4 * w + g)

/-- The arbiter's memory after a grant of `g`: the ports that wait meanwhile, and nothing against `g` (R43). -/
def afterGrant (s : State) (k n g : Nat) (passed : BitVec 16) : BitVec 16 :=
  let p := setFld passed (4 * g) 4 0
  (altPorts s k n).foldl (fun p w =>
    if w ≠ g ∧ complete (seen s (.port k n w)) then p ||| BitVec.twoPow 16 (4 * w + g) else p) p

/-- The first bad token on a port that the stall or its gang uses (R21). Of several at once, the recorded one is the model's
choice (R46, log entry 100): required ports, then alternatives, then gang ports, each in number order. -/
def badPort (s : State) (k n : Nat) : Option (Nat × BitVec 16) :=
  ((requiredPorts s k n ++ altPorts s k n ++ (List.range 4).filter (gangPort s k n)).map fun p =>
    (p, seen s (.port k n p))).find? fun x => violates x.2

/-- The fire set (R25): every required port, and the granted alternative. -/
def fireSet (s : State) (k n g : Nat) : List Nat :=
  requiredPorts s k n ++ if (altPorts s k n).isEmpty then [] else [g]

/-- The stall fires with grant `g` (R25, R28); `g` is 4 when the stall has no alternative port. -/
def fires (s : State) (k n g : Nat) : Bool :=
  running s k && !(stallSt s k n).fault &&
  ((requiredPorts s k n).all fun p => complete (seen s (.port k n p))) &&
  (if (altPorts s k n).isEmpty then g == 4 else mayGrant s k n g) &&
  ((List.range 2).all fun o => !usedOut s k n o || idleSrc s (.out k n o)) &&
  (!chainOut s k n || (s.chan (carryKey k n)).rails == 0) &&
  (carryIn s k n).isSome &&
  ((stallSt s k n).blocked != some (BitVec.ofNat 3 g))

/-- The rails that a firing evaluates (R23): those of the fire set, low elsewhere. -/
def fireRails (s : State) (k n g : Nat) : Fin 4 → BitVec 16 := fun p =>
  if (fireSet s k n g).contains p.val then seen s (.port k n p.val) else 0

/-- The macrocells whose held value a firing of the stall takes: not those of a clocked output (R33), nor those of a gang
head's X, which belongs to the gang (R40; DEDUCED, log entry 7). -/
def heldMcs (s : State) (k n : Nat) (e : Eval) : List Nat :=
  (List.range 8).filter fun m =>
    let o := m / 4
    !outClocked s k n o && !(o == 0 && gangRole s k n == 1) && (!usedOut s k n o || outcomeOf (evalOut e o) == .emits)

/-- The grant after a firing: it holds on while the firing consumed something but not the granted port's token (R42). -/
def grantAfter (g : Nat) (acks : List Nat) (consumed : Bool) : Option (Fin 4) :=
  if g < 4 ∧ consumed ∧ !acks.contains g then some (Fin.ofNat 4 g) else none

/-- A firing without a fault (R26 to R28): tokens and the carry are presented, held values taken, ports acknowledged; one
that neither emits nor acknowledges changes nothing and blocks the stall until its grant changes. -/
def fireStall (s : State) (k n g : Nat) (e : Eval) : State :=
  let st := stallSt s k n
  let passed := if g < 4 then afterGrant s k n g st.passed else st.passed
  let outs := (List.range 2).filter fun o => usedOut s k n o && outcomeOf (evalOut e o) == .emits
  let acks := (fireSet s k n g).filter fun p => consumes s k n p e
  let chained := cinSel s k n == 2
  if outs.isEmpty && acks.isEmpty && !chainOut s k n && !chained then
    s.modStall k n fun x => { x with passed := passed, blocked := some (BitVec.ofNat 3 g), grant := none }
  else
    let s := s.modStall k n fun x =>
      { x with passed := passed, blocked := none, grant := grantAfter g acks (!acks.isEmpty || chained),
               held := takeHeld x.held e (heldMcs s k n e) }
    let s := if chained then s.setChan (carryKey k (n - 64)) {} else s
    let s := if chainOut s k n then s.setChan (carryKey k n) { rails := BitVec.ofNat 16 (2 ^ e.carry) } else s
    let s := outs.foldl (fun s o => present s (.out k n o) (evalOut e o)) s
    let a := acks.foldl (fun (a : State × List Move) p =>
      let b := ackLeaf a.1 (.port k n p); (b.1, a.2 ++ b.2.map Move.freed)) (s, [])
    settle a.1 (outs.map (fun o => Move.shown (.out k n o)) ++ a.2)

/-- `FIRING` of stall `n` of paddock `k`. A bad token on a port it uses is a stall fault (R21); a code violation on a used
output is one too, and then nothing is presented, acknowledged or held (R26). Where both outputs violate, X is recorded
(the model's choice, log entry 100). Where the fire conditions do not hold, no firing occurs (log entry 1). -/
def execFiring (k : Fin 64) (n : Fin 2048) (grant : BitVec 3) (s : State) : Host.Outcome State Fault Refusal :=
  .next <|
    if !running s k || (stallSt s k n).fault then s
    else match badPort s k n with
    | some (p, r) => stallFault s k n (faultKind r) p
    | none =>
      if !fires s k n grant.toNat then s
      else
        let held := (stallSt s k n).held.toNat
        let e := evalStall s k n (fireRails s k n grant.toNat) held ((carryIn s k n).getD 0)
        match (List.range 2).find? fun o => usedOut s k n o && outcomeOf (evalOut e o) == .violation with
        | some o => stallFault s k n 1 (4 + o)
        | none => fireStall s k n grant.toNat e

/-! ### Gangs -/

/-- The gang whose head is stall `n` is complete (R38, R41). -/
def gangOk (s : State) (k n : Nat) : Bool :=
  gangRole s k n == 1 && gangPos s k n == 0 &&
    (List.range (gangSize s k n)).all fun i =>
      decide (n + 64 * (i + 1) < 2048) && gangRole s k (n + 64 * (i + 1)) == 2 && gangPos s k (n + 64 * (i + 1)) == i + 1

/-- Gang input `i`: a port of the stall at position i / 2 (R38). -/
def gangInput (k n i : Nat) : Leaf := .port k (n + 64 * (i / 2)) (i % 2)

/-- The first bad token on a port of a stall of the gang that is not held already (R21); of several, the first in position
order, which is the model's choice (R46, log entry 100). -/
def gangBad (s : State) (k n : Nat) : Option (Nat × Nat × BitVec 16) :=
  (List.range (gangSize s k n + 1)).findSome? fun i =>
    if (stallSt s k (n + 64 * i)).fault then none else (badPort s k (n + 64 * i)).map fun x => (n + 64 * i, x)

/-- The gang whose head is stall `n` fires on input `i` (R39): its token goes unchanged to the head's X, which holds its
digits (R40; DEDUCED, log entry 7). An X without a fork lane passes it to nobody (log entry 8). An X in clocked mode takes the
digits without an edge of its tree: the model's choice (R39, log entry 100). -/
def fireGang (s : State) (k n i : Nat) : State :=
  let inp := seen s (gangInput k n i)
  let s1 := s.modStall k n fun x => { x with held := setFld x.held 0 8 (tokenOf inp) }
  let s1 := if (forks s k n 0).isEmpty then s1 else present s1 (.out k n 0) inp
  let a := ackLeaf s1 (.port k n 3)
  let b := ackLeaf a.1 (gangInput k n i)
  settle b.1 ((if (forks s k n 0).isEmpty then [] else [Move.shown (.out k n 0)]) ++ (a.2 ++ b.2).map Move.freed)

/-- `GANG_FIRING` of the gang whose head is stall `n` (R39). A head's X that holds an initial token without a fork lane keeps
the gang from firing (log entry 100). -/
def execGangFiring (k : Fin 64) (n : Fin 2048) (s : State) : Host.Outcome State Fault Refusal :=
  .next <|
    if !running s k || (stallSt s k n).fault || !gangOk s k n then s
    else match gangBad s k n with
    | some (m, p, r) => stallFault s k m (faultKind r) p
    | none =>
      let ctl := seen s (.port k n 3)
      let i := tokenOf ctl % 16 % (2 * (gangSize s k n + 1))
      if complete ctl && !(stallSt s k (n.val + 64 * (i / 2))).fault && complete (seen s (gangInput k n i))
          && idleSrc s (.out k n 0) then fireGang s k n i
      else s

/-! ### Gate cells -/

/-- A token discarded by a paddock's gate cells counts in its drain count (R73). -/
def drainCount (s : State) (k : Fin 64) (n : Nat) : State := s.modPdk k fun d => { d with drain := satAdd d.drain n }

/-- `GATE_CELL_DISCARD` on the lane that leaves edge tile `n / 8` of paddock `k` in direction `n / 2 mod 4`, class
`n mod 2`: an isolating gate cell set to DRAIN acknowledges, discards and counts a token offered to it (R69). The levels of a
level lane, on which the spec is silent, it takes once as if they were a token: the model's choice (log entry 100). -/
def execGateCellDiscard (k : Fin 64) (n : Fin 16384) (s : State) : Host.Outcome State Fault Refusal :=
  let tile := n.val / 8
  let d := n.val / 2 % 4
  .next <|
    match (if ahead (tile / 64) (tile % 64) d = 0 then borderOut k (tile / 64) (tile % 64) d (n.val % 2) else .none) with
    | .lane e =>
      if !gatePasses s e && outDrain s e && arrived (seen s (.gate e)) && !cutHeld s k then
        take (drainCount s k 1) (.gate e)
      else s
    | _ => s

/-! ### Row taps and USER trees -/

/-- The row taps that take events of a tree: `src` as `TAP_SRC` (Table 3-5), and for LINE the generator. -/
def tapsOf (s : State) (src gen : Nat) : List Nat :=
  (List.range 2048).filter fun t =>
    let cfg := tapCfg s (t / 32) (t % 32)
    cfg % 8 == src && (src != 1 || cfg.testBit 5 || cfg / 64 % 64 == gen)

/-- An event set out on a tree (R81). -/
def treeEvent (s : State) (src : Nat) (e : TapEv) : State :=
  let taps := tapsOf s src e.gen.toNat
  if taps.isEmpty then s else { s with fab.tree := s.fab.tree ++ [{ ev := e, taps := taps }] }

/-- A place on the LINE tree: events of one engine cycle in ascending generator order (R285). -/
def treeInsert (e : TreeEv) : List TreeEv → List TreeEv
  | [] => [e]
  | x :: l => if x.line.isSome ∧ x.line = e.line ∧ e.ev.gen < x.ev.gen then e :: x :: l else x :: treeInsert e l

/-- A LINE event leaves in engine cycle `cycle`. -/
def lineEvent (s : State) (e : TapEv) (cycle : Nat) : State :=
  let taps := tapsOf s 1 e.gen.toNat
  if taps.isEmpty then s else { s with fab.tree := treeInsert { ev := e, taps := taps, line := some cycle } s.fab.tree }

/-- The oldest event that has still to reach a tap, and the events after it has. -/
def takeTreeEvent : List TreeEv → Nat → Option (TapEv × List TreeEv)
  | [], _ => none
  | e :: r, t =>
    if e.taps.contains t then
      let left := e.taps.filter (· != t)
      some (e.ev, if left.isEmpty then r else { e with taps := left } :: r)
    else (takeTreeEvent r t).map fun x => (x.1, e :: x.2)

/-- `ROW_TAP_EVENT`: the oldest event on its way to the tap of a row arrives: ignored before the paddock's WRITE release,
queued, or discarded beyond 15 pending events with the overrun flag and count (R82). -/
def execRowTapEvent (k : Fin 64) (row : Fin 32) (s : State) : Host.Outcome State Fault Refusal :=
  .next <|
    match takeTreeEvent s.fab.tree (tapNo k row) with
    | none => s
    | some (e, rest) =>
      let s := { s with fab.tree := rest }
      if !(pdkAt s k).relWrite then s
      else
        let t := tget ({} : TapSt) s.fab.taps (tapNo k row)
        if 15 ≤ tapPending s k row then s.modPdk k fun d => { d with tapOverrun := true, tapCount := satAdd d.tapCount 1 }
        else settleShown (tapPresent
          { s with fab.taps := tput {} s.fab.taps (tapNo k row) { t with q := t.q ++ [e] } } k row)

/-- The rails that a clocked output samples: those of every port of its own, read as levels without completion
(R33, R40). -/
def levelRailsOf (s : State) (k n : Nat) : Fin 4 → BitVec 16 := fun p =>
  if portRole s k n p.val = 0 ∨ gangPort s k n p.val then 0 else levelAt s (.port k n p.val)

/-- The held digits of a stall after a sample of output `o`: valid digits stored, null and violating ones unchanged; and
the number of violations (R33). Where the output is in carry mode, an operand digit that is null or violates counts as 0 at the
edge, and so does a chained carry that is not presented: R33 and R36 do not say, and this is the model's choice (log entry
108). -/
def sampleOut (s : State) (k n o : Nat) (held : BitVec 16) : BitVec 16 × Nat :=
  let e := evalStall s k n (levelRailsOf s k n) (stallSt s k n).held.toNat ((carryIn s k n).getD 0)
  let ms := (List.range 4).map fun i => 4 * o + i
  (takeHeld held e ms, (ms.filter fun m => evalMc e m != 0 && (digitVal (evalMc e m)).isNone).length)

/-- The clocked outputs that an edge of a tree reaches: of paddocks that run. An edge between the release of RESET and that of
WRITE, or within a muster cut, is sampled by none: the model's choice (R33, log entry 100). A stall that a stall fault holds
still samples: R46 stops its acknowledges and tokens, R33 is silent, and this is the model's choice (log entry 108). -/
def clockedBy (s : State) (tree : Nat) (rise : Bool) : List (Fin 64 × Nat × Nat) :=
  (List.finRange 64).flatMap fun (k : Fin 64) =>
    if running s k then
      (writtenStalls s k).flatMap fun n => (List.range 2).filterMap fun o =>
        if outClocked s k n o && outClkSel s k n o == tree && outClkEdge s k n o == !rise then some (k, n, o) else none
    else []

/-- One edge of a USER tree: every clocked output on it samples at once, violations are counted (R33), and a rising edge
goes to the row taps (R81). -/
def treeEdge (s : State) (tree : Nat) (rise : Bool) : State :=
  let t := s
  let s := (clockedBy t tree rise).foldl (fun s x =>
    let (k, n, o) := x
    let r := sampleOut t k n o (stallSt s k n).held
    (List.range r.2).foldl (fun s _ => pdkCount s k) (s.modStall k n fun y => { y with held := r.1 })) s
  let s := (clockedBy t tree rise).foldl (fun s x => settle s [.shown (.out x.1 x.2.1 x.2.2)]) s
  let s := padEdges t { s with pins.trees := vmodN s.pins.trees tree fun x => { x with level := rise } }
  if rise then treeEvent s (2 + tree) {} else s

/-- The source of USER tree `n` gives an edge to the level `rise` (R80, Table 3-12): never a tree held low or fed by the
pulse register; a pin only as fabric user I/O that has that level; of a generator's pulses the falling edges, since the
rising ones come with its nominal instants (R285). A tree that is high when its source is set to 0 stays high, because that
source has no edge: the spec says both 'held low' and that the level holds until the next edge of the new source, and this is
the model's choice (log entry 100). -/
def treeMayMove (s : State) (n : Fin 3) (rise : Bool) : Bool :=
  let t := s.pins.trees[n]
  match t.src.toNat with
  | 1 => true
  | 3 => !rise && !t.stale
  | 2 => pinIsUser s t.pin.toNat && padLevel s t.pin.toNat == rise
  | _ => false

/-- An edge of USER tree `n` that changes its level. -/
def treeMove (s : State) (n : Fin 3) (rise : Bool) : State :=
  let s := { s with pins.trees := vmod s.pins.trees n fun t => { t with stale := false } }
  if s.pins.trees[n].level == rise then s else treeEdge s n rise

/-- The pulse that a nominal instant of generator `g` starts on the USER trees it feeds (R285): 10 ns long, so the pulse of
an earlier instant is over. A tree that is still high from an earlier source stays high through the first pulse (R80). -/
def genPulse (s : State) (g : Nat) : State :=
  (List.finRange 3).foldl (fun s n =>
    if s.pins.trees[n].src = 3 ∧ s.pins.trees[n].gen.toNat = g then
      treeMove (if s.pins.trees[n].stale then s else treeMove s n false) n true
    else s) s

/-- `USER_TREE_EDGE`: an edge of USER tree `n`; the tree's level alternates, and with the first edge of a new source that
source has it (R80). -/
def execUserTreeEdge (n : Fin 3) (rise : Bool) (s : State) : Host.Outcome State Fault Refusal :=
  .next (if treeMayMove s n rise then treeMove s n rise else s)

/-! ### Reset of a paddock's fabric -/

/-- Keys of the channels that the stalls of a paddock drive. -/
def stallChan (k : Nat) (x : Nat) : Bool :=
  (decide (4096 * k ≤ x) && decide (x < 4096 * (k + 1)))
    || (decide (carryKey k 0 ≤ x) && decide (x < carryKey (k + 1) 0))

/-- A select of a stall or a bin of the paddock. -/
def leafOfPdk (k : Nat) (x : Nat) : Bool :=
  (decide (8192 * k ≤ x) && decide (x < 8192 * (k + 1)))
    || (decide (524288 + 1280 * k ≤ x) && decide (x < 524288 + 1280 * (k + 1)))

/-- RESET asserted in a paddock (R31, R32): its stalls' state elements, held values and fault holds are cleared, its output
lanes return to spacer, and its stalls and bins raise no acknowledge. -/
def stallReset (s : State) (k : Nat) : State :=
  let chans := (tdrop (stallChan k) s.fab.chans).filterMap fun e =>
    let c := { e.2 with acked := e.2.acked.filter fun l => !leafOfPdk k l }
    if c = ({} : Chan) then none else some (e.1, c)
  { s with fab.chans := chans,
           fab.stalls := tdrop (fun x => 2048 * k ≤ x && x < 2048 * (k + 1)) s.fab.stalls }

/-- RESET released (R31): each output with `INIT_VALID` loads its initial token as held value and state element. A clocked
output holds its value as levels. Without a fork lane nothing takes the token, and the state element stays full: the model's
choice (log entry 100). -/
def loadInitial (s : State) (k : Nat) : State :=
  (writtenStalls s k).foldl (fun s n =>
    (List.range 2).foldl (fun s o =>
      if outInitValid s k n o then
        let v := outInit s k n o
        let s := s.modStall k n fun x => { x with held := setFld x.held (8 * o) 8 v }
        if outClocked s k n o then s else present s (.out k n o) (railsOf v)
      else s) s) s

/-- The initial tokens, once presented, move on (R31). -/
def showOutputs (s : State) (k : Nat) : State :=
  (writtenStalls s k).foldl (fun s n => settle s [.shown (.out k n 0), .shown (.out k n 1)]) s

end Sys2Proof.Machine
end

