-- ==== Sys2Proof/Machine/Paddock.lean ====
section
/-! DEFINITION. Machine/Paddock.lean: the states of a paddock (R384): LOADING, LIVE, ISOLATED, FAULTED, EMPTY; its release
stages; isolation and release (R71, R382, R383); the user global reset (R79). -/

namespace Sys2Proof.Machine

open Sys2Proof

/-- A resource refusal for a paddock. -/
def denyPdk (st : Status) (s : State) (k : Nat) : Deny := denyRes st 1 (pdkCode (pdkAt s k).state) k

/-! ### Borders (R69 to R73) -/

/-- Border lanes turn to isolating by `f`: their last levels are kept, what they show falls or becomes a park value, and the
pads that it drives follow. -/
def isolateLanes (s : State) (es : List End) (f : State → State) : State :=
  padEdges s (es.foldl (fun s e => fallLevel s (.gate e)) (f (keepPark s es)))

/-- The lanes into a paddock isolate. -/
def isolateIn (s : State) (k : Fin 64) : State :=
  isolateLanes s (arrivalLanes k.val) fun s => s.modPdk k fun d => { d with inIso := true }

/-- The lanes out of a paddock isolate. -/
def isolateOut (s : State) (k : Fin 64) : State :=
  isolateLanes s (departureLanes k.val) fun s => s.modPdk k fun d => { d with outIso := true }

/-- The lane arriving at `e` carries tokens, not levels (R68). -/
def tokenLane (s : State) (e : End) : Bool := (leafSources s (.gate e)).all fun x => (levelRails s x).isNone

/-- A lane out of the paddock that still passes, carrying tokens. -/
def laneOut (s : State) (e : End) : Bool := gatePasses s e && tokenLane s e

/-- Such a lane has a token in its latch or at its input (R71). -/
def laneBusy (s : State) (e : End) : Bool :=
  laneOut s e && ((s.chan (srcKey (.gate e))).rails != 0 || (s.chan (farKey e)).rails != 0 || seen s (.gate e) != 0)

/-- Tokens at the inputs of the lanes out with some rails raised but not all: discarded at park. -/
def partialLanes (s : State) (k : Nat) : List End :=
  (departureLanes k).filter fun e => tokenLane s e && seen s (.gate e) != 0 && !arrived (seen s (.gate e))

/-! ### Operation ports (R202, R480) -/

/-- Records in a port's crossing, whole or partly received: one for each kind token, and those begun on `SUB_DATA` whose kind
token has not come (R186, R202). -/
def heldRecords (x : OpPort) : Nat :=
  let opened := (x.ctl.filter fun k => complete k && decide (tokenOf k ≤ 9)).length
  let begun := ((x.data.toList.map List.length).foldl max 0 + 7) / 8
  x.ctl.length + (begun - opened)

/-- A port submits nothing more: what its crossing holds is discarded and counted. -/
def dropRecords (s : State) (n : Nat) : State :=
  let x := vget ({} : OpPort) s.sch.ports n
  let s := schDiscard s (heldRecords x)
  { s with sch.ports := vmodN s.sch.ports n fun x =>
      { x with ctl := [], data := Vector.replicate 8 [], holding := false } }

/-- The eight ports of a paddock. -/
def portsOf (k : Nat) : List Nat := (List.range 8).map fun p => 8 * k + p

def dropPorts (s : State) (k : Nat) : State := (portsOf k).foldl dropRecords s

/-- A record held back is discarded when its paddock leaves LIVE (R480). -/
def dropHeld (s : State) (k : Nat) : State :=
  (portsOf k).foldl (fun s n =>
    match (vget ({} : OpPort) s.sch.ports n).holding, portRecord (vget ({} : OpPort) s.sch.ports n) with
    | true, some r =>
      { schDiscard s 1 with sch.ports := vmodN s.sch.ports n fun x =>
          { x with ctl := x.ctl.drop 1, data := x.data.map (fun l => l.drop r.bytes), holding := false } }
    | _, _ => s) s

/-- The items delivered to a paddock's ports and not done. -/
def portItems (s : State) (k : Nat) : List (Nat × Nat × Nat) :=
  (portsOf k).flatMap fun n => (vget ({} : OpPort) s.sch.ports n).items

/-- They return with no charge (R202). -/
def returnPorts (s : State) (k : Nat) : State :=
  let l := portItems s k
  let s := { s with sch.ports := vmapI s.sch.ports fun n x => if n / 8 = k then { x with items := [] } else x }
  l.foldl (fun s i => returnItem s i.1 i.2.1 false) s

/-! ### Reset of a paddock (R31, R375, R449) -/

/-- The pins whose ports lie in a paddock. -/
def pinsOf (k : Nat) : List (Fin 96) := (List.finRange 96).filter fun g => (pinPort g.val).1 == k

/-- Every crossing of a paddock is empty (R449): the tokens that the island sides hold towards it, its row taps' events, and the
pending events of its tick inputs and its muster request port. -/
def emptyCrossings (s : State) (k : Nat) : State :=
  let taps := (List.range 32).map fun r => srcKey (.tap k r)
  let dels := (portsOf k).flatMap fun n => (List.range 8).map fun j => srcKey (.del n j)
  let pins := (pinsOf k).map fun g => srcKey (.pin g.val)
  let adapters := ((List.range 128).filter fun l => (adapterEnd l 0).k == k).flatMap fun l =>
    (List.range 4).map fun j => srcKey (.adapter l j)
  let gone := taps ++ dels ++ pins ++ adapters
  let s := { s with fab.chans := tdrop (gone.contains ·) s.fab.chans,
                    fab.taps := tdrop (fun t => t / 32 == k) s.fab.taps,
                    sch.ports := vmapI s.sch.ports fun n x => if n / 8 = k then { x with del := Vector.replicate 8 [] } else x,
                    pins.tickPend := vmapI s.pins.tickPend fun t x => if 32 * (t / 4) = k then 0 else x,
                    pins.musPend := vmapI s.pins.musPend fun d x => if 32 * d = k then 0 else x }
  (pinsOf k).foldl (fun s g => s.modGpio g fun p =>
    { p with pend := [], resync := false, buf := [], cmd := none, drv := if p.actFunc = 1 then false else p.drv }) s

/-- The three release stages withdrawn: RESET asserted, WRITE and OUTPUT held (R375). -/
def withdraw (s : State) (k : Fin 64) : State :=
  let s := s.modPdk k fun d => { d with relReset := false, relWrite := false, relOutput := false, urst := false }
  dropPorts (emptyCrossings (binsHold (stallReset s k.val) k.val) k.val) k.val

/-- The arrays of a paddock's bins written to zero, with valid check bits. -/
def zeroBins (s : State) (k : Nat) : State :=
  { s with fab.binMem := tdrop (fun a => a / 1048576 == k) s.fab.binMem,
           fab.binBad := tdrop (fun w => w / 131072 == k) s.fab.binBad }

/-- Corrections that the fettler holds in the paddock are discarded; with the last of a die goes its lift (R381). -/
def dropCorrection (s : State) (k : Nat) : State :=
  let d := dieOfPdk k
  let l := s.cfg.ftlHeld[d].filter fun a => a / 8192 != k
  let s := { s with cfg.ftlHeld := vset s.cfg.ftlHeld d l }
  if l.isEmpty then s.modGov d fun g => { g with fettlerLift := false } else s

/-- A paddock becomes LOADING (R374, R375, R460); `secure`: its mark in the new header. -/
def toLoading (s : State) (secure : Bool) (k : Fin 64) : State :=
  let s := adaptersDrop (isolateOut (isolateIn s k) k) k.val
  let s := dropCorrection (withdraw s k) k.val
  let s := if s.pdk[k].secure || secure then zeroBins s k.val else s
  let s := { s with cfg.stateFrames := tdrop (fun n => n / 2048 == k.val) s.cfg.stateFrames }
  s.modPdk k fun d =>
    { d with state := .loading, secure := secure, tornWhy := 0, lastIdx := 0, poured := false, wrote := 0, deliver := true,
             hiz := false, isolating := none, err := 0, drain := 0, tapOverrun := false, tapCount := 0,
             paceCount := Vector.replicate 8 0 }

/-- A paddock becomes EMPTY (R394): its frames hold a zero payload, nothing in it acts. -/
def toEmpty (s : State) (k : Fin 64) : State :=
  let s := adaptersDrop (isolateOut (isolateIn s k) k) k.val
  let s := dropCorrection (returnPorts (withdraw s k) k.val) k.val
  let s := { s with cfg.frames := tdrop (fun a => a / 8192 == k.val) s.cfg.frames,
                    gov.pace := s.gov.pace.filter fun e => e.pdk != k.val,
                    gov.vmin := vset s.gov.vmin k 0 }
  (unusedNotices s k.val).modPdk k fun d =>
    { d with state := .empty, poured := false, isolating := none, deliver := true, hiz := false }

def allEmpty (s : State) : State := (List.finRange 64).foldl toEmpty { s with mus.deferred := [] }

/-! ### Release stages (R78, R379) -/

/-- The stages in the order of a code (Table 13-9). -/
def stageOrder : Nat → List Stage
  | 0 => [.output, .write, .reset]
  | 1 => [.output, .reset, .write]
  | 2 => [.write, .output, .reset]
  | 3 => [.write, .reset, .output]
  | 4 => [.reset, .output, .write]
  | _ => [.reset, .write, .output]

/-- The order in force for a paddock: the override of SET_RELEASE_ORDER, else its header's. -/
def orderOf (s : State) (k : Nat) : List Stage :=
  let d := pdkAt s k
  stageOrder ((d.order.map (·.1)).getD d.hdrOrder.1)

/-- The pins of a paddock show the levels they were last given (R379, OUTPUT). -/
def showPins (s : State) (k : Nat) : State :=
  (pinsOf k).foldl (fun s g =>
    let p := s.pins.gpio[g]
    if p.actFunc = 1 ∧ p.drv ∧ p.fout = false then s.emitPad (.pin g.val p.lvl) else s) s

/-- What waits in a paddock moves once RESET and WRITE are both released. -/
def wakeFabric (s : State) (k : Nat) : State := if released s k then resumeLanes (resumePaddock s k) (arrivalLanes k) else s

/-- A stage is released in a paddock; the pads that its levels reach follow (R438). -/
def releaseStage (s : State) (k : Fin 64) (g : Stage) : State :=
  padEdges s (match g with
    | .output => showPins (s.modPdk k fun d => { d with relOutput := true, hiz := false }) k.val
    | .write => wakeFabric (s.modPdk k fun d => { d with relWrite := true }) k.val
    | .reset => wakeFabric (binsInitial (loadInitial (s.modPdk k fun d => { d with relReset := true }) k.val) k.val) k.val)

/-- A paddock becomes LIVE: its gate cells pass, its ports are served, its pace entries are tested (R72, R122), and its
pattern's `VMIN_MV` raises a rail that stands below it (R135). -/
def toLive (s : State) (k : Fin 64) : State :=
  let old := s
  let s := s.modPdk k fun d => { d with state := .live, inIso := false, outIso := false, deliver := true, hiz := false }
  let s := floorRaise (testEntries s k.val) (dieOfPdk k.val)
  padEdges old (resumePaddock (resumeLanes s (arrivalLanes k.val ++ departureLanes k.val)) k.val)

/-- One stage more of every paddock of a release sequence; those that have no stage left are LIVE together. -/
def stepRelease (s : State) (job : Nat) : State :=
  let mine := s.cfg.rels.filter fun r => r.job == job
  let s := mine.foldl (fun s r => match r.stages with
    | g :: _ => releaseStage s (Fin.ofNat 64 r.pdk) g
    | [] => s) s
  { s with cfg.rels := s.cfg.rels.map fun r => if r.job == job then { r with stages := r.stages.drop 1 } else r }

/-- The release sequence of a job has ended. -/
def releaseEnded (s : State) (job : Nat) : Bool :=
  (s.cfg.rels.any fun r => r.job == job) && (s.cfg.rels.filter fun r => r.job == job).all fun r => r.stages.isEmpty

/-- Its paddocks, LOADING or ISOLATED, become LIVE (Table 14-7). -/
def endRelease (s : State) (job : Nat) : State :=
  let mine := s.cfg.rels.filter fun r => r.job == job
  mine.foldl (fun s r => toLive s (Fin.ofNat 64 r.pdk)) { s with cfg.rels := s.cfg.rels.filter fun r => r.job != job }

/-- The paddock can no longer be released: it became FAULTED while its `RELEASE_PADDOCK` waited (R384). -/
def notIsolated (s : State) (k : Fin 64) : Bool := s.pdk[k].state != .isolated

/-- `RELEASE_PADDOCK` takes effect: the paddock resumes as it stands, and job `id` is done. -/
def releaseNow (s : State) (id : Nat) (k : Fin 64) : State :=
  if notIsolated s k then finishJob s id .aborted 0 [] else finishJob (toLive s k) id .done 0 []

/-- `RELEASE_PADDOCK` with bit 0 takes effect: the stages are withdrawn, and job `id`'s release sequence begins. -/
def releaseAgain (s : State) (id : Nat) (k : Fin 64) : State :=
  if notIsolated s k then finishJob s id .aborted 0 [] else
    let s := withdraw s k
    { s with cfg.rels := s.cfg.rels ++ [{ job := id, pdk := k.val, stages := orderOf s k.val }] }

/-- A release sequence that a fault of its paddock overtakes ends, and its command with it: ABORTED, since no rule gives it a
reply (log entry 109). -/
def dropRelease (s : State) (k : Fin 64) : State :=
  match s.cfg.rels.find? fun r => r.pdk == k.val with
  | some r => finishJob { s with cfg.rels := s.cfg.rels.filter fun x => x.job != r.job } r.job .aborted 0 []
  | none => s

/-! ### FAULTED (R385, R386) -/

/-- A LIVE or ISOLATED paddock becomes FAULTED, after the cut that holds it, if any (R418). -/
def toFaulted (s : State) (k : Fin 64) : State :=
  if cutHeld s k.val then { s with mus.deferred := s.mus.deferred ++ [(.faulted, k.val)] }
  else if s.pdk[k].state = .live ∨ s.pdk[k].state = .isolated then
    let s := dropRelease (dropHeld (adaptersDrop (isolateOut (isolateIn s k) k) k.val) k.val) k
    padEdges s (s.modPdk k fun d => { d with state := .faulted, hiz := true })
  else s

/-! ### Isolation (R71, R382) -/

/-- Admission stop. -/
def admissionStop (s : State) (k : Fin 64) : State :=
  if cutHeld s k.val then { s with mus.deferred := s.mus.deferred ++ [(.admissionStop, k.val)] } else isolateIn s k

/-- Park: the lanes out isolate, partial tokens are discarded and counted, sources stop, a forced isolation returns its
items, the command completes. -/
def parkPaddock (s : State) (k : Fin 64) (expired : Bool) : State :=
  match s.pdk[k].isolating with
  | none => s
  | some job =>
    let part := partialLanes s k.val
    let s := drainCount (isolateOut (isolateIn s k) k) k part.length
    let s := part.foldl (fun s e => take s (.gate e)) s
    let s := dropPorts (adaptersDrop s k.val) k.val
    let s := match findJob s job with
      | some { kind := .isolate _ true, .. } => returnPorts s k.val
      | _ => s
    let s := s.modPdk k fun d => { d with state := .isolated, isolating := none }
    finishOut s job (b2n expired) (leBytes 4 part.length)

/-- An outgoing lane of the paddock still carries a token. -/
def outBusy (s : State) (k : Nat) : Bool := (departureLanes k).any (laneBusy s)

/-- `PARK` (R71): when the outgoing lanes are empty. -/
def execPark (k : Fin 64) (s : State) : Host.Outcome State Fault Refusal :=
  .next (if s.pdk[k].isolating.isNone || cutHeld s k.val || outBusy s k.val then s else parkPaddock s k false)

/-- `ISOLATE_LIMIT_EXPIRY` (R382): the limit runs out; a park that a cut holds back follows its release (R418). -/
def execIsolateLimitExpiry (k : Fin 64) (s : State) : Host.Outcome State Fault Refusal :=
  .next (if s.pdk[k].isolating.isNone then s
    else if cutHeld s k.val then { s with mus.deferred := s.mus.deferred ++ [(.limitExpired, k.val)] }
    else parkPaddock s k (outBusy s k.val))

def isolateSpec : CmdSpec where
  opcode := 0x0102
  states := stS
  target := some (1, 64)
  size := sizeIs 8
  isLong := fun _ _ => true
  touches := fun c _ => [.pdk c.tindex.toNat]
  params := fun c _ =>
    let l := orDefault (par c 4 4) 10000
    paramChecks (par c 0 1 / 2 == 0 && resZero c 1 3) (decide (100 ≤ l) && decide (l ≤ 10000000))

/-- A command that an isolation or a release of the paddock keeps out (R351). -/
def pdkBusy (s : State) (k : Nat) : Bool := (pdkAt s k).isolating.isSome || s.cfg.rels.any fun r => r.pdk == k

def isolateBody (c : Cmd) (s : State) : Except Deny State :=
  let k : Fin 64 := Fin.ofNat 64 c.tindex.toNat
  let force := par c 0 1 % 2 == 1
  if s.pdk[k].state ≠ .live ∧ s.pdk[k].state ≠ .faulted then .error (denyPdk .stateRefused s k.val)
  else if pdkBusy s k.val then .error (denyPdk .busy s k.val)
  else if !force && !(portItems s k.val).isEmpty then .error (denyPdk .busy s k.val)
  else
    let id := s.cmdp.nextId
    let s := startJob c s (.isolate k.val force) []
    .ok (admissionStop (s.modPdk k fun d => { d with deliver := false, isolating := some id }) k)

/-- `ISOLATE_PADDOCK` (R382). -/
def execIsolatePaddock (c : Cmd) (s : State) : Host.Outcome State Fault Refusal := .next (runCmd isolateSpec isolateBody c s)

/-! ### Release (R383) -/

def releasePdkSpec : CmdSpec where
  opcode := 0x0103
  states := stS
  target := some (1, 64)
  size := sizeIs 4
  isLong := fun _ _ => true
  touches := fun c _ => [.pdk c.tindex.toNat]
  params := fun c _ => paramChecks (par c 0 1 / 2 == 0 && resZero c 1 3) true

/-- The paddock resumes as it stands, or through its release sequence; during a cut that holds it, after the release (R418). -/
def releasePdkBody (c : Cmd) (s : State) : Except Deny State :=
  let k : Fin 64 := Fin.ofNat 64 c.tindex.toNat
  let id := s.cmdp.nextId
  if s.pdk[k].state ≠ .isolated ∨ !s.pdk[k].poured then .error (denyPdk .stateRefused s k.val)
  else if pdkBusy s k.val then .error (denyPdk .busy s k.val)
  else
    let s := startJob c s (.release k.val) []
    .ok (match par c 0 1 % 2 == 0, cutHeld s k.val with
      | true, false => releaseNow s id k
      | false, false => releaseAgain s id k
      | plain, true =>
        { s with mus.deferred := s.mus.deferred ++ [(if plain then .release else .reRelease, k.val)] })

/-- `RELEASE_PADDOCK` (R383). -/
def execReleasePaddock (c : Cmd) (s : State) : Host.Outcome State Fault Refusal := .next (runCmd releasePdkSpec releasePdkBody c s)

/-! ### SET_RELEASE_ORDER (R359) -/

def releaseOrderSpec : CmdSpec where
  opcode := 0x0108
  states := stHPS
  size := sizeIs 16
  touches := fun c _ => (bitsOf 64 (par c 0 8)).map Res.pdk
  params := fun c _ => paramChecks (par c 9 1 / 2 == 0 && resZero c 14 2) (decide (par c 8 1 ≤ 5))

def releaseOrderBody (c : Cmd) (s : State) : Except Deny State :=
  let o := if par c 9 1 % 2 = 1 then none else some (par c 8 1, par c 10 2, par c 12 2)
  .ok (doneWith c (s.modPdks (bitsOf 64 (par c 0 8)) fun d => { d with order := o }) [])

/-- `SET_RELEASE_ORDER`. -/
def execSetReleaseOrder (c : Cmd) (s : State) : Host.Outcome State Fault Refusal :=
  .next (runCmd releaseOrderSpec releaseOrderBody c s)

/-! ### The user global reset (R32, R79, R110, R418) -/

/-- RESET asserted on a LIVE paddock. -/
def assertReset (s : State) (k : Fin 64) : State :=
  if s.pdk[k].state ≠ .live then s
  else if cutHeld s k.val then { s with mus.deferred := s.mus.deferred ++ [(.userReset, k.val)] }
  else
    let t := binsUserReset (stallReset (s.modPdk k fun d => { d with urst := true }) k.val) k.val
    padEdges s ((departureLanes k.val).foldl (fun s e => fallLevel s (.gate e)) t)

/-- RESET released: initial tokens load. -/
def releaseReset (s : State) (k : Fin 64) : State :=
  if !s.pdk[k].urst then s
  else if cutHeld s k.val then { s with mus.deferred := s.mus.deferred ++ [(.resetRelease, k.val)] }
  else
    let t := loadInitial (s.modPdk k fun d => { d with urst := false }) k.val
    padEdges s (wakeFabric (showOutputs t k.val) k.val)

/-- Registers take writes: not before the device leaves STARTING (R452), nor without power. -/
def regsOpen (s : State) : Bool := served s

/-- A write of `PDK_CTL` (Table 14-9). -/
def pdkCtlWrite (s : State) (k : Fin 64) (v : BitVec 32) : State := if v.getLsbD 0 then assertReset s k else s

/-- `URST`: a write of `PDK_CTL` (Table 14-9). -/
def execUrst (k : Fin 64) (v : BitVec 32) (s : State) : Host.Outcome State Fault Refusal :=
  .next (if regsOpen s then pdkCtlWrite s k v else s)

/-- `USER_RESET_RELEASE`: 100 ns after the reset was asserted. -/
def execUserResetRelease (k : Fin 64) (s : State) : Host.Outcome State Fault Refusal := .next (releaseReset s k)

end Sys2Proof.Machine
end

