-- ==== Sys2Proof/Machine/Jobs.lean ====
section
/-! DEFINITION. Machine/Jobs.lean: how a long-running command ends ABORTED (R351), the device's states (R392), the zeroise
(R426) and the entry to RECOVERY (R399). -/

namespace Sys2Proof.Machine

open Sys2Proof

/-! ### Flash bytes (R362, R364); a byte is held as its complement, so that an erased byte is not listed -/

def flashByte (f : FlashDev) (a : Nat) : Byte := ~~~(tget 0 f.bytes a)

/-- NOR flash programs 1 to 0 only. -/
def flashProgram (f : FlashDev) (a : Nat) : List Byte → FlashDev
  | [] => f
  | b :: r => flashProgram { f with bytes := tput 0 f.bytes a (tget 0 f.bytes a ||| ~~~b) } (a + 1) r

/-- The sectors erased. -/
def flashErase (f : FlashDev) (a len : Nat) : FlashDev := { f with bytes := tdrop (fun x => a ≤ x && decide (x < a + len)) f.bytes }

/-- Device and address of an address of the combined space (R363). -/
def stripe (a : Nat) : Nat × Nat := (a / 256 % 2, 256 * (a / 512) + a % 256)

/-- A byte as a device number addresses it: 2 is the combined space. -/
def flashAt (s : State) (dev a : Nat) : Byte :=
  if dev = 2 then flashByte (vget {} s.cfg.flash (stripe a).1) (stripe a).2 else flashByte (vget {} s.cfg.flash dev) a

def flashRead (s : State) (dev a len : Nat) : List Byte := (List.range len).map fun i => flashAt s dev (a + i)

/-- Bytes programmed, and a range erased, as a device number addresses them. -/
def flashPut (s : State) (dev a : Nat) (l : List Byte) : State :=
  if dev = 2 then
    { s with cfg.flash := (List.range l.length).foldl (fun v i =>
        vmodN v (stripe (a + i)).1 fun f => flashProgram f (stripe (a + i)).2 [byteAt l i]) s.cfg.flash }
  else { s with cfg.flash := vmodN s.cfg.flash dev fun f => flashProgram f a l }

def flashClear (s : State) (dev a len : Nat) : State :=
  if dev = 2 then { s with cfg.flash := s.cfg.flash.map fun f => flashErase f (a / 2) (len / 2) }
  else { s with cfg.flash := vmodN s.cfg.flash dev fun f => flashErase f a len }

/-! ### Ending ABORTED (R351) -/

/-- What stands of a command's work when it is cut short; `pour` is not among them. -/
def undoJob (s : State) (j : Job) : State :=
  match j.kind with
  | .isolate p _ => s.modPdk (Fin.ofNat 64 p) fun d => { d with isolating := none }
  | .release _ => { s with cfg.rels := s.cfg.rels.filter fun r => r.job != j.id }
  | .flashWrite dev a erase data =>
    let (n, s) := s.drawNat
    flashPut (if erase then flashClear s dev a data.length else s) dev a (data.take (n % (data.length + 1)))
  | .discover mask =>
    ((List.finRange 128).filter fun n => mask.getLsbD n.val && waitJob s.cxp.links[n].wait == some j.id).foldl linkOff s
  | .setLink _ _ =>
    ((List.finRange 128).filter fun n => waitJob s.cxp.links[n].wait == some j.id).foldl (fun s n =>
      s.modLink n fun l => { l with state := .lost, wait := .none, rate := 0, eq := 0 }) s
  | .ctrl m =>
    let g : Fin 128 := Fin.ofNat 128 m
    let first := (s.cxp.groups[g].ctrl.head?.map (·.job)) == some j.id
    let s := s.modGroup g fun x => { x with ctrl := x.ctrl.filter fun c => c.job != j.id }
    if first then ctrlSend s g else s
  | .kernelLoad .. | .casterRetire .. => undrain s j.id
  | _ => s

/-- A long-running command other than a pour ends ABORTED: its work done so far stands. -/
def abortJob (s : State) (j : Job) : State := finishJob (undoJob s j) j.id .aborted 0 []

/-- A pour's job is ended by the pour itself. -/
def isPour (j : Job) : Bool := j.kind == .pour

/-- Every long-running command that `p` names ends ABORTED. -/
def abortJobs (s : State) (p : Job → Bool) : State :=
  ((longJobs s).filter fun j => !isPour j && p j).foldl abortJob s

/-- The job's opcode is not legal in a state. -/
def illegalIn (st : DevState) (j : Job) : Bool := !(longStates j.opcode.toNat).contains st

/-- The device enters a state: the event, and the commands that it ends (R351). -/
def enterState (s : State) (st : DevState) : State :=
  abortJobs (raiseEvent { s with dev.state := st } 11) (illegalIn st)

/-- An entry of the fault log, of which the last 1,024 stay; dropped while the studbook is read-only (R411). -/
def logFault (s : State) (e : FaultEntry) : State :=
  if s.dev.sbRo then s
  else bookWrite { s with book.faults := (s.book.faults ++ [e]).drop (s.book.faults.length + 1 - 1024) } .faultLog

/-! ### Zeroise and RECOVERY (R426, R399) -/

/-- A caster IDLE with no kernel, unless it is RETIRED or EXCLUDED. -/
def idleCaster (h : Caster) : Caster :=
  let h := clearMems (clearRegs h)
  { h with mode := if h.mode = .retired ∨ h.mode = .excluded then h.mode else .idle, kernel := 0, clockStopped := false,
           slots := Vector.replicate 2 {}, outHalf := [], sent := 0, waitc := 0 }

def zeroise (s : State) : State :=
  let s := { s with sec.keyReg := 0, sec.zeroised := true, cast := s.cast.map idleCaster }
  (List.finRange 64).foldl (fun s k => if s.pdk[k].secure then zeroBins s k.val else s) s

/-- The scheduler as it is after STARTING (R204, R399). -/
def resetSched (s : State) : State :=
  { s with sch := { nextId := s.sch.nextId, cycle := s.sch.cycle }, cool := {},
           cast := s.cast.map fun h => { h with slots := Vector.replicate 2 {}, outHalf := [] } }

/-- Steps 2 to 5 of R399. -/
def clearSecrets (s : State) : State := resetSched (allEmpty (zeroise s))

/-- The device enters RECOVERY from a running state, with a cause of Table 15-10. A pour has been stopped before. -/
def enterRecovery (s : State) (cause : Nat) : State :=
  clearSecrets (enterState { s with dev.rcause := BitVec.ofNat 4 cause } .recovery)

end Sys2Proof.Machine
end

