-- ==== Sys2Proof/Machine/Flash.lean ====
section
/-! DEFINITION. Machine/Flash.lean: the serial flash: its devices, the slot directory and the golden record (R362 to R367),
and the flash commands. -/

namespace Sys2Proof.Machine

open Sys2Proof

/-- Bytes of the space that a device number addresses; none where it is absent (R363). -/
def flashSize (s : State) (dev : Nat) : Option Nat :=
  if dev = 2 then if s.cfg.parallel then some (2 * 2 ^ s.cfg.flash[0].log2cap) else none
  else
    let f := vget ({} : FlashDev) s.cfg.flash dev
    if dev < 2 ∧ f.present then some (2 ^ f.log2cap) else none

/-- The space that the loader reads: the combined one, else device 0 alone, else the one that is present (R362). -/
def loaderDev (s : State) : Option Nat :=
  if s.cfg.parallel then some 2 else if s.cfg.flash[0].present then some 0 else if s.cfg.flash[1].present then some 1 else none

def loaderRead (s : State) (a len : Nat) : List Byte :=
  match loaderDev s with
  | some d => flashRead s d a len
  | none => List.replicate len 0xFF

/-! ### The directory (R365, R366) -/

def dirOk (l : List Byte) : Bool :=
  l.take 4 == ascii "KZDR" && leAt l 4 2 == 1 && leAt l 4092 4 == crc32c (l.take 4092)

/-- The two copies read: the directory in force, and whether exactly one copy is invalid. -/
def directory (s : State) : Option (List Byte) × Bool :=
  let a := loaderRead s 0 4096
  let b := loaderRead s 0x1000 4096
  match dirOk a, dirOk b with
  | true, true => (some (if leAt a 16 4 < leAt b 16 4 then b else a), false)
  | true, false => (some a, true)
  | false, true => (some b, true)
  | false, false => (none, false)

/-- A slot's image: address and length; none for a slot that is not valid. -/
def dirSlot (l : List Byte) (k : Nat) : Option (Nat × Nat) :=
  if leAt l (64 + 16 * k + 12) 1 % 2 = 1 then some (leAt l (64 + 16 * k) 8, leAt l (64 + 16 * k + 8) 4) else none

/-- Bits of `CFG_ERR` (Table 14-13). -/
def cfgErr (s : State) (bit : Nat) : State := { s with cfg.err := s.cfg.err ||| BitVec.twoPow 32 bit }
def cfAuth : Nat := 31
def cfCheck : Nat := 30
def cfOor : Nat := 29
def cfTorn : Nat := 28
def cfDir : Nat := 27
def cfDirAlt : Nat := 26
def cfFtlUe : Nat := 25

/-- The life-cycle states in which the golden record follows the directory (R366). -/
def goldenOpen (s : State) : Bool := s.fuse.lcs == .factory || s.fuse.lcs == .owned

/-- The golden entry that a directory makes the loader record: one that differs from the record. -/
def newGolden (s : State) (l : List Byte) : Option (Nat × Nat × Nat) :=
  if !goldenOpen s then none
  else
    let g := leAt l 6 1
    match dirSlot l g with
    | some (a, n) => if s.book.golden == some (g, a, n) then none else some (g, a, n)
    | none => none

/-- The golden record after a directory has been read; the record stands while the studbook is read-only (R411). -/
def recordGolden (s : State) (l : List Byte) : State :=
  match newGolden s l with
  | some g => if s.dev.sbRo then s else bookWrite { s with book.golden := some g } .golden
  | none => s

/-- The directory as a pour reads it. -/
def readDirectory (s : State) : State × Option (List Byte) :=
  match directory s with
  | (none, _) => (cfgErr s cfDir, none)
  | (some l, alt) => (recordGolden (if alt then cfgErr s cfDirAlt else s) l, some l)

/-- The golden slot's number: the directory's in FACTORY and OWNED, later the record's. -/
def goldenSlot (s : State) (l : List Byte) : Nat :=
  if goldenOpen s then leAt l 6 1 else match s.book.golden with | some g => g.1 | none => 8

/-- The image of a slot, the golden one from the record outside FACTORY and OWNED. -/
def slotImage (s : State) (l : List Byte) (k : Nat) : Option (Nat × Nat) :=
  if !goldenOpen s && k == goldenSlot s l then s.book.golden.map (·.2) else if k < 8 then dirSlot l k else none

/-- The slots that a pour from 0xFF tries (R367): those of `BOOT`, then the golden one; invalid slots are skipped. -/
def bootSlots (s : State) (l : List Byte) : List Nat :=
  (((List.range (min 7 (leAt l 7 1))).map fun i => leAt l (8 + i) 1) ++ [goldenSlot s l]).filter fun k => (slotImage s l k).isSome

/-! ### FLASH_WRITE and FLASH_READ (R364, R359) -/

/-- Device `d`'s bytes among those below combined address `x`. -/
def below (d x : Nat) : Nat := 256 * (x / 512) + min 256 (x % 512 - 256 * d)

/-- The byte ranges that a range of a device number's space touches, by device. -/
def touched (dev a len : Nat) : List (Nat × Nat × Nat) :=
  if dev = 2 then [(0, below 0 a, below 0 (a + len)), (1, below 1 a, below 1 (a + len))] else [(dev, a, a + len)]

/-- A range meets the recorded golden image. -/
def goldenHit (s : State) (dev a len : Nat) : Bool :=
  match s.book.golden, loaderDev s with
  | some (_, ga, gl), some ld =>
    (touched dev a len).any fun x => (touched ld ga gl).any fun y =>
      x.1 == y.1 && decide (x.2.1 < y.2.2) && decide (y.2.1 < x.2.2)
  | _, _ => false

/-- The devices that a device number names. -/
def devsOf (dev : Nat) : List Nat := if dev = 2 then [0, 1] else [dev]

/-- The first named device that a pour from flash reads (R359), or, for a write, that an unfinished FLASH_WRITE changes
(R351). -/
def flashBusy (s : State) (dev : Nat) (write : Bool) : Option Nat :=
  let poured := match s.cfg.pour, loaderDev s with
    | some p, some d => if p.fromHost then [] else devsOf d
    | _, _ => []
  let written := s.cmdp.jobs.flatMap fun j => match j.kind with
    | .flashWrite d _ _ _ => devsOf d
    | _ => []
  (devsOf dev).find? fun d => poured.contains d || (write && written.contains d)

def flashRangeOk (c : Cmd) (s : State) : Bool :=
  match flashSize s (par c 0 1) with
  | some n => decide (par c 4 4 + par c 8 4 ≤ n)
  | none => false

def flashWriteSpec : CmdSpec where
  opcode := 0x0106
  states := stHSR
  size := sizeIs 16
  isLong := fun _ _ => true
  buffer := true
  life := fun c s => goldenOpen s || !goldenHit s (par c 0 1) (par c 4 4) (par c 8 4)
  params := fun c s =>
    paramChecks (par c 1 1 / 2 == 0 && resZero c 2 2 && resZero c 12 4)
      (flashRangeOk c s && (par c 1 1 % 2 == 0 || (par c 4 4 % 4096 == 0 && par c 8 4 % 4096 == 0)))
      |>.orElse fun _ => inputFits c (par c 8 4)

def flashWriteBody (c : Cmd) (s : State) : Except Deny State :=
  match flashBusy s (par c 0 1) true with
  | some d => .error (denyRes .busy 0x0B 0 d)
  | none =>
    match inBuf c (par c 8 4) with
    | .error d => .error d
    | .ok l => .ok (startJob c s (.flashWrite (par c 0 1) (par c 4 4) (par c 1 1 % 2 == 1) (l.take (par c 8 4))) [])

/-- `FLASH_WRITE` (R364). -/
def execFlashWrite (c : Cmd) (s : State) : Host.Outcome State Fault Refusal := .next (runCmd flashWriteSpec flashWriteBody c s)

def flashReadSpec : CmdSpec where
  opcode := 0x0107
  states := stHSR
  size := sizeIs 16
  isLong := fun _ _ => true
  buffer := true
  params := fun c s => paramChecks (resZero c 1 3 && resZero c 12 4) (flashRangeOk c s) |>.orElse fun _ => inlineFits c (par c 8 4)

def flashReadBody (c : Cmd) (s : State) : Except Deny State :=
  let len := par c 8 4
  match flashBusy s (par c 0 1) false with
  | some d => .error (denyRes .busy 0x0B 0 d)
  | none =>
    if c.hlen.toNat ≠ 0 ∧ c.hlen.toNat < len then .error (denyDev .noSpace s)
    else .ok (startJob c s (.flashRead (par c 0 1) (par c 4 4) len) [])

/-- `FLASH_READ` (R363). -/
def execFlashRead (c : Cmd) (s : State) : Host.Outcome State Fault Refusal := .next (runCmd flashReadSpec flashReadBody c s)

/-- `FLASH_TRANSFER_COMPLETE`: the work of a flash command has ended; `ok` false: the flash failed in it. What was written
is read back, and must be what was asked for (R364). -/
def execFlashTransferComplete (job : Nat) (ok : Bool) (s : State) : Host.Outcome State Fault Refusal :=
  .next (match findJob s job with
  | none => s
  | some j =>
    match j.kind with
    | .flashWrite dev a erase data =>
      if !ok then finishJob (undoJob s j) job .check 0x000B []
      else
        let s := flashPut (if erase then flashClear s dev a data.length else s) dev a data
        if flashRead s dev a data.length == data then finishJob s job .done 0 [] else finishJob s job .check 0x000B []
    | .flashRead dev a len =>
      if ok then finishOut s job 0 (flashRead s dev a len) else finishJob s job .check 0x000C []
    | _ => s)

end Sys2Proof.Machine
end

