-- ==== Sys2Proof/Machine/FrameForm.lean ====
section
/-! DEFINITION. Machine/FrameForm.lean: when a stall configuration frame or a bin control frame is well formed (R52, R64,
R106). A frame is checked by itself: each group of fields that the rules check lies in one frame (R51, R65). -/

namespace Sys2Proof.Machine

open Sys2Proof

/-- Exactly one bit of a select is 1, and it is one that `ok` admits (R64). -/
def oneHot (w v : Nat) (ok : Nat → Bool) : Bool :=
  match bitsOf w v with
  | [b] => ok b
  | _ => false

/-- A track of direction `d` and class `c` ends at a tile: one starts at a tile of the paddock behind it, or a border
position of Table 3-6 arrives there (R57). Die-side and outer-edge positions count, whatever feeds them (R67). -/
def endExists (k row col d c : Nat) : Bool :=
  if behind row col d ≠ 0 then !(startsOf ⟨k, row, col, d, c⟩).isEmpty
  else match d with
    | 0 => c == 0 || (c == 1 && decide (28 ≤ k % 32))
    | 2 => c == 0
    | _ => decide (c < 2)

/-- The track of direction `d` and class `c` that starts at a tile exists (R57). -/
def startExists (k row col d c : Nat) : Bool :=
  ahead row col d != 0 || (decide (c < 8) && borderOut k row col d c != .none)

/-- The direction opposite to `d`. -/
def opposite (d : Nat) : Nat := (d + 2) % 4

/-- Bits 3 upward of a driver select, or 1 upward of an input select, name a track end. -/
def namesEnd (k row col i : Nat) : Bool := decide (i < 52) && endExists k row col (i / 13) (i % 13)

/-- `DRV_j` (Table 3-3). -/
def drvOk (k row col j v : Nat) : Bool :=
  oneHot 64 v fun b =>
    b == 0 || (startExists k row col (j / 13) (j % 13) &&
      (b == 1 || b == 2 || (decide (3 ≤ b) && namesEnd k row col (b - 3) && (b - 3) / 13 != opposite (j / 13))))

/-- `IN_SEL_p` (Table 3-4). -/
def inSelOk (k row col v : Nat) : Bool :=
  oneHot 64 v fun b => b == 0 || b == 53 || namesEnd k row col (b - 1)

/-- Two drivers of one direction do not name one fork slot; `f` gives the select of each. -/
def forksOk (d : Nat) (f : Nat → Nat) : Bool :=
  [1, 2].all fun b => decide (((List.range 13).filter fun c => (f (13 * d + c)).testBit b).length ≤ 1)

/-- The slots of a stall's `BORDER` field that are not reserved; the two sides have the same ones (R68). Positions on an
up or down edge come first, and an outer-edge position keeps its slot; die-side positions come last. -/
def borderSlots (k row col : Nat) : List Nat :=
  let q := k % 32
  let first := if row = 0 then 1 else if row = 31 then (if 28 ≤ q then 2 else 1) else 0
  let onEdge := if row = 0 ∧ q < 4 then [] else List.range first
  let onSide := if (col = 0 ∧ q % 4 ≠ 0) ∨ (col = 63 ∧ q % 4 ≠ 3) then [first, first + 1] else []
  onEdge ++ onSide

/-- No reserved slot of `BORDER` is set (R63, R64, R68). -/
def borderOk (k row col v : Nat) : Bool :=
  decide (v < 4096) &&
  (List.range 4).all fun s =>
    (borderSlots k row col).contains s || (v / 2 ^ (4 + 2 * s) % 4 == 0 && !v.testBit s)

/-- `TAP_CFG` (Table 3-5), which only a stall of column 0 has. -/
def tapOk (col v : Nat) : Bool :=
  if col ≠ 0 then v == 0 else decide (v < 4096) && v / 8 % 4 != 3 && decide (v % 8 ≤ 4)

/-! ### The first part of a stall: steering, macrocells, outputs, carry, gang, ports (R24, Tables 2-5, 2-6) -/

/-- The term's steering code lends it within macrocells 0 to 7. -/
def steerOk (steer : Nat) : Bool :=
  let code := fun t => steer / 4 ^ t % 4
  let target := fun t =>
    match code t with
    | 0 => some (t / 12)
    | 1 => if t / 12 = 0 then none else some (t / 12 - 1)
    | 2 => some (t / 12 + 1)
    | _ => none
  ((List.range 96).all fun t => !(code t == 1 && t / 12 == 0) && !(code t == 2 && t / 12 == 7)) &&
  (List.range 32).all fun r =>
    decide (((List.range 96).filter fun t => target t == some (r / 4) && t % 12 / 3 == r % 4).length ≤ 8)

/-- Table 2-5 and the rules on it (R40, R52). -/
def cellOk (v : Nat) : Bool :=
  let f := fun lo len => v / 2 ^ lo % 2 ^ len
  let role := f 104 2
  ((List.range 8).all fun m => f (8 * m + 3) 5 == 0) &&
  ((List.range 2).all fun o => f (64 + 16 * o + 13) 3 == 0 && f (64 + 16 * o + 10) 2 != 3) &&
  f 99 5 == 0 && f 112 16 == 0 && f 96 2 != 3 && role != 3 &&
  (f 98 1 == 0 || f 56 1 == 1) &&
  (match role with
   | 0 => f 106 3 == 0 && f 109 3 == 0
   | 1 => f 106 3 == 0
   | _ => f 106 3 != 0 && f 109 3 == 0) &&
  (role == 0 || (f 96 2 != 2 && f 98 1 == 0))

/-- Table 2-6 for a port. -/
def portOk (v : Nat) : Bool :=
  let role := v % 4
  let cons := v / 4 % 4
  v / 512 % 128 == 0 && role != 3 && (role != 0 || decide (cons < 2))

/-- The steering, macrocell and port bits of a stall, 384 from its bit 6,144. -/
def stallPartOk (v : Nat) : Bool :=
  steerOk (v % 2 ^ 192) && cellOk (v / 2 ^ 192 % 2 ^ 128) &&
  (List.range 4).all fun p => portOk (v / 2 ^ (320 + 16 * p) % 2 ^ 16)

/-! ### Frames -/

/-- Drivers of the directions `ds`, whose selects stand from routing offset `lo` in `v`. -/
def driversOk (k row col : Nat) (ds : List Nat) (lo v : Nat) : Bool :=
  let f := fun j => v / 2 ^ (64 * j - lo) % 2 ^ 64
  ds.all fun d => forksOk d f && (List.range 13).all fun c => drvOk k row col (13 * d + c) (f (13 * d + c))

/-- The rest of a routing part: input selects, `BORDER`, `TAP_CFG` and the reserved bits; `v` from offset `lo`. -/
def restOk (k row col lo v : Nat) : Bool :=
  ((List.range 4).all fun p => inSelOk k row col (v / 2 ^ (3328 + 64 * p - lo) % 2 ^ 64)) &&
  borderOk k row col (v / 2 ^ (3584 - lo) % 2 ^ 16) && tapOk col (v / 2 ^ (3600 - lo) % 2 ^ 16) &&
  v / 2 ^ (3616 - lo) % 2 ^ 96 == 0

/-- A stall configuration frame is well formed (R51, R52, R65). -/
def stallFrameOk (k idx : Nat) (payload : BitVec 4096) : Bool :=
  let v := payload.toNat
  let n := 2 * (idx / 5) + (if idx % 5 = 4 then 1 else 0)
  let row := n / 64
  let col := n % 64
  match idx % 5 with
  | 1 => stallPartOk (v / 2 ^ 2048 % 2 ^ 384) && driversOk k row col [0, 1] 0 (v / 2 ^ 2432)
  | 2 => driversOk k row col [2, 3] 1664 (v % 2 ^ 2048) && restOk k row col 1664 (v % 2 ^ 2048)
  | 4 => stallPartOk (v % 2 ^ 384) && driversOk k row col [0, 1, 2, 3] 0 (v / 2 ^ 384) && restOk k row col 0 (v / 2 ^ 384)
  | _ => true

/-- A bin input select, of a bin whose tiles are `west` and `west + 1` (Table 4-3). -/
def binSelOk (k row west v : Nat) : Bool :=
  oneHot 128 v fun b =>
    b == 0 || b == 105 || (decide (b < 53) && namesEnd k row west (b - 1)) ||
      (decide (53 ≤ b) && namesEnd k row (west + 1) (b - 53))

/-- The inputs that a mode and two widths use (Table 4-2). -/
def inputsUsed (mode w0 w1 : Nat) : List Nat :=
  let data := fun p w => (List.range w).map fun i => 10 * p + 2 + i
  match mode with
  | 0 => [0, 1] ++ data 0 w0
  | 1 => [0, 1] ++ data 0 w0 ++ [10, 11] ++ data 1 w1
  | 2 => data 0 w0
  | _ => [0, 1] ++ data 0 w0 ++ [10, 11]

/-- A bin control frame is well formed (R106). -/
def binFrameOk (k b : Nat) (payload : BitVec 4096) : Bool :=
  let f := fun lo len => fld payload lo len
  let west := if b < 32 then 15 else 47
  let sel := fun i => f (128 * i) 128
  let mode := f 2560 2
  let w0 := 2 ^ f 2562 2
  let w1 := 2 ^ f 2564 2
  let used := f 2568 1 == 1
  let high := f 2592 15
  let low := f 2608 15
  f 2569 7 == 0 && f 2591 1 == 0 && f 2607 1 == 0 && f 2623 1 == 0 && f 2624 1472 == 0 &&
  ((List.range 20).all fun i => binSelOk k (b % 32) west (sel i)) &&
  (if !used then f 2560 8 == 0 && f 2576 48 == 0 && (List.range 20).all fun i => sel i == 1
   else
    ((List.range 20).all fun i => sel i == 1 || (inputsUsed mode w0 w1).contains i) &&
    !(mode == 0 && (f 2564 2 != 0 || f 2567 1 != 0)) &&
    !(decide (2 ≤ mode) && f 2562 2 != f 2564 2) &&
    !((mode == 1 || mode == 3) && f 2566 1 == f 2567 1) &&
    !(high != 0 && decide (high ≤ low)) &&
    !(decide (mode < 2) && (high != 0 || low != 0)) &&
    !(f 2576 15 != 0 && (mode != 2 || decide (16384 / w0 < f 2576 15))))

/-- A frame of a pour is well formed: content frames always are (R376). -/
def frameOk (k idx : Nat) (payload : BitVec 4096) : Bool :=
  if idx < 5120 then stallFrameOk k idx payload
  else if 5152 ≤ idx ∧ idx < 5216 then binFrameOk k (idx - 5152) payload
  else true

end Sys2Proof.Machine
end

