-- ==== Sys2Proof/Machine/Pour.lean ====
section
/-! DEFINITION. Machine/Pour.lean: a pour: the checks of a pattern (R374), acceptance (R375), its segments and frames
(R376), stops and tries (R367, R377, R378), and the release sequence (R379). -/

namespace Sys2Proof.Machine

open Sys2Proof

/-- How a try ends: status, detail and data of a final reply, `TORN_WHY`, the failing frame, bits of `CFG_ERR`. -/
structure PourEnd where
  st : Status := .check
  detail : Nat := 0
  data : List Byte := []
  why : Nat := 4
  addr : Option Nat := none
  bits : List Nat := [cfCheck]
  dma : Bool := false
  deriving DecidableEq, Repr

def pourEnd (st : Status) (detail : Nat) : PourEnd := { st := st, detail := detail }
def pourAuth (detail : Nat) : PourEnd := { st := .auth, detail := detail, bits := [cfAuth, cfCheck] }
def pourAborted : PourEnd := { st := .aborted, bits := [] }
def pourStop (st : Status) (detail why : Nat) (addr : Option Nat) : PourEnd :=
  { st := st, detail := detail, why := why, addr := addr, bits := if why = 2 then [cfCheck, cfOor] else if why = 4 then [] else [cfCheck] }

/-- What a try leaves in `CFG_STATUS` and `CFG_ERR`. -/
def noteEnd (s : State) (e : PourEnd) : State :=
  let s := { s with cfg.lstatus := BitVec.ofNat 4 (statusCode e.st), cfg.ldetail := BitVec.ofNat 16 e.detail }
  e.bits.foldl cfgErr s

/-! ### The image (R368 to R370) -/

/-- `len` bytes of the image from offset `off`. -/
def imageRead (s : State) (p : Pour) (off len : Nat) : List Byte :=
  if p.fromHost then padTo len (p.image.drop off) else loaderRead s (p.base + off) len

def headerOf (s : State) (p : Pour) : List Byte := imageRead s p 0 512

def hdFrames (h : List Byte) : Nat := leAt h 36 4
def hdSegments (h : List Byte) : Nat := leAt h 40 2
def hdPace (h : List Byte) : Nat := leAt h 168 4
def hdTag (h : List Byte) : Nat := leAt h 176 4
def hdBody (h : List Byte) : Nat := leAt h 180 4

/-- The sections of an image: header, pace table, tag table, body. -/
def sections (h : List Byte) : List (Nat × Nat) :=
  [(0, 512), (hdPace h, leAt h 172 4), (hdTag h, 16 * hdSegments h), (hdBody h, 256 * hdSegments h + 512 * hdFrames h)]

/-- The length of an image. -/
def imageLen (h : List Byte) : Nat := (sections h).foldl (fun m x => max m (x.1 + x.2)) 0

/-- No two sections overlap. -/
def apart : List (Nat × Nat) → Bool
  | [] => true
  | x :: r => (r.all fun y => decide (x.1 + x.2 ≤ y.1) || decide (y.1 + y.2 ≤ x.1)) && apart r

def allZero (l : List Byte) : Bool := l.all (· == 0)

/-- Step 4 of R374; `paceCount` as the pace table gives it. -/
def headerOk (h : List Byte) (paceCount : Nat) : Bool :=
  h.take 4 == ascii "KZPT" && leAt h 4 2 == 1 && leAt h 6 2 == 0 && decide (leAt h 18 1 ≤ 1) && decide (leAt h 19 1 < 4) &&
  decide (leAt h 42 1 < 16) && decide (leAt h 43 1 ≤ 5) && leAt h 163 1 == 0 && allZero ((h.drop 329).take 7) &&
  allZero ((h.drop 432).take 80) && hdSegments h == (hdFrames h + 1023) / 1024 && leAt h 172 4 == 16 + 16 * paceCount &&
  hdPace h % 16 == 0 && hdTag h % 16 == 0 && hdBody h % 16 == 0 && apart (sections h)

/-- A stepping byte that a 16-bit mask accepts. -/
def stepOk (mask b : Nat) : Bool := decide (b / 16 < 4) && decide (b % 16 < 4) && mask.testBit (4 * (b / 16) + b % 16)

/-- Step 5: the pattern is for this unit. -/
def unitOk (s : State) (h : List Byte) : Bool :=
  let step := fun d => fld (vget 0 s.fuse.die d) 8 8
  leAt h 8 2 == 0x0117 && leAt h 10 2 == 0x0080 && leAt h 16 2 == 1 && stepOk (leAt h 12 2) (step 0) &&
  stepOk (leAt h 12 2) (step 1) && stepOk (leAt h 14 2) (step 2)

/-- The unit identity (R368): 72 bytes. -/
def unitIdentity (s : State) : List Byte :=
  leBytes 4 s.fuse.serial.toNat ++ leBytes 8 s.fuse.lot.toNat ++
    s.fuse.die.toList.flatMap fun r => leBytes 20 r.toNat

/-- Step 6: the public key is the fused one and the signature holds. `SIG_R` and `SIG_S` are fields of 48 bytes, byte 0 the least
significant (00_scope, "Conventions"); the key's form is SEC1's. -/
def signatureOk (s : State) (h : List Byte) : Bool :=
  let key := (h.drop 232).take 97
  sha384 key == leBytes 48 s.fuse.pkHash.toNat &&
  ecdsaOk key (sha384 (h.take 336)) ((h.drop 336).take 48).reverse ((h.drop 384).take 48).reverse

/-- The device key of a slot; none while it is not programmed or may not be used (R425, R427). -/
def deviceKey (s : State) (slot : Nat) : Option (BitVec 256) :=
  if s.sec.scan then none
  else match (if s.fuse.keysOff then none else vget none s.fuse.keys slot) with
  | some k => some k
  | none => if s.fuse.keysOff then none else tget none s.book.wrapped slot

def keyBytes (k : BitVec 256) : List Byte := leBytes 32 k.toNat
def keyOf (l : List Byte) : BitVec 256 := BitVec.ofNat 256 (leNat l)

/-! ### The pace table (R119, R120) -/

def paceEntry (l : List Byte) (i : Nat) : PaceEntry :=
  let a := 16 + 16 * i
  { pdk := leAt l a 1, slot := leAt l (a + 1) 1, stall := leAt l (a + 2) 2, drv := leAt l (a + 4) 1,
    governs := leAt l (a + 5) 1 % 2 == 1, spans := (leAt l (a + 5) 1).testBit 1, refPs := leAt l (a + 8) 2,
    fixPs := leAt l (a + 10) 2, rateK := leAt l (a + 12) 4 }

def paceEntries (l : List Byte) : List PaceEntry := (List.range (leAt l 0 2)).map (paceEntry l)

/-- No two entries name one paddock and slot. -/
def paceApart : List PaceEntry → Bool
  | [] => true
  | e :: r => (r.all fun x => x.pdk != e.pdk || x.slot != e.slot) && paceApart r

def paceOk (l : List Byte) (mask : BitVec 64) : Bool :=
  let v := leAt l 2 2
  decide (leAt l 0 2 ≤ 512) && decide (600 ≤ v) && decide (v ≤ 900) && v % 5 == 0 && allZero ((l.drop 4).take 12) &&
  paceApart (paceEntries l) &&
  (List.range (leAt l 0 2)).all fun i =>
    let e := paceEntry l i
    decide (e.pdk < 64) && mask.getLsbD e.pdk && decide (e.slot < 8) && decide (e.stall < 2048) && decide (e.drv ≤ 51) &&
      decide (leAt l (16 + 16 * i + 5) 1 < 4) && leAt l (16 + 16 * i + 6) 2 == 0 && e.refPs != 0 && e.rateK != 0

/-! ### Step 13: blocks that the pattern requires -/

/-- The first required block that is not there, with its class and state code. -/
def missing (s : State) (h : List Byte) : Option PourEnd :=
  let res := fun cls code i => some { st := .retired, detail := cls * 256 + code, data := leBytes 4 i }
  match (bitsOf 256 (leAt h 112 32)).find? (casterGone s) with
  | some c => res 2 (casterCode (vget {} s.cast c)) c
  | none =>
  match (bitsOf 128 (leAt h 144 16)).find? fun n => (vget ({} : Link) s.cxp.links n).state == .failed with
  | some n => res 3 (linkCode .failed) n
  | none =>
  match (bitsOf 8 (leAt h 160 1)).find? fun n =>
      [ChState.retired, .excluded, .failedTrain].contains (vget ({} : Channel) s.ddr.chan n).state with
  | some n => res 7 (chCode (vget ({} : Channel) s.ddr.chan n).state) n
  | none =>
  match (bitsOf 8 (leAt h 161 1)).find? fun n => (vget ({} : Encoder) s.trig.enc n).failed with
  | some n => res 4 1 n
  | none =>
  match (bitsOf 8 (leAt h 162 1)).find? fun n => (vget ({} : Encoder) s.trig.enc n).tdcf with
  | some n => res 4 2 n
  | none =>
  match (bitsOf 32 (leAt h 164 4)).find? fun n => (vget ({} : TrigOut) s.trig.out n).dlf with
  | some n => res 0x11 1 n
  | none => none

/-! ### The checks (R374) -/

/-- Steps 4 to 13 for the try `p`, whose mask is the command's; `len`: the bytes that the source gives the image. -/
def checkImage (s : State) (p : Pour) (len : Nat) : Except PourEnd Pour :=
  let h := headerOf s p
  let count := leAt (imageRead s p (hdPace h) 2) 0 2
  let flags := leAt h 19 1
  let mask := BitVec.ofNat 64 (leAt h 20 8)
  let secure := BitVec.ofNat 64 (leAt h 28 8)
  if !headerOk h count ∨ len < imageLen h then .error (pourEnd .check 7)
  else if !unitOk s h then .error (pourEnd .check 8)
  else if !signatureOk s h then .error (pourAuth 1)
  else if flags % 2 = 1 ∧ sha384 (unitIdentity s) ≠ (h.drop 64).take 48 then .error (pourAuth 2)
  else if leAt h 18 1 ≠ (if p.full then 0 else 1) ∨ mask ≠ p.mask ∨ secure &&& ~~~mask ≠ 0 then .error (pourEnd .badParam 0x11)
  else if s.dev.state = .recovery ∧ !flags.testBit 1 ∧
      (p.fromHost ∨ (directory s).1.map (goldenSlot s) ≠ some p.slot) then
    .error { st := .stateRefused, detail := devCode s.dev.state, data := leBytes 4 0 }
  else if (deviceKey s (leAt h 42 1)).isNone then .error (pourAuth 3)
  else
    let pace := imageRead s p (hdPace h) (leAt h 172 4)
    if sha384 (pace ++ imageRead s p (hdTag h) (16 * hdSegments h)) ≠ (h.drop 184).take 48 then .error (pourEnd .check 6)
    else if !paceOk pace mask then .error (pourEnd .badParam 0x12)
    else match missing s h with
    | some e => .error e
    | none => .ok { p with secure := secure }

/-- Step 3 for a flash slot, then the rest; the try's image and slot. -/
def trySlot (s : State) (p : Pour) (k : Nat) : Except PourEnd Pour :=
  match (directory s).1 with
  | none => .error (pourEnd .check 0x0A)
  | some d =>
    match slotImage s d k, loaderDev s with
    | some (a, n), some dev =>
      if (match flashSize s dev with
          | some z => decide (z < a + n)
          | none => true) then .error (pourEnd .check 0x0A)
      else
        checkImage s { p with slot := k, base := a } n
    | _, _ => .error (pourEnd .check 0x0A)

/-- The slots are tried in turn until one passes its checks (R367, R378); a failure is recorded as the last pour's. -/
def openTries : List Nat → PourEnd → State → Pour → State × Except PourEnd Pour
  | [], e, s, _ => (s, .error e)
  | k :: r, _, s, p =>
    let s := { s with cfg.host := false, cfg.slot := BitVec.ofNat 3 k }
    match trySlot s p k with
    | .ok q => (s, .ok { q with slots := r })
    | .error e => openTries r e (noteEnd s e) { p with first := false }

/-- A pour from a flash slot: the directory is read, and the slots tried. -/
def openFlash (s : State) (p : Pour) (slot : Nat) : State × Except PourEnd Pour :=
  match readDirectory s with
  | (s, none) => let e := pourEnd .check 0x0A; (noteEnd { s with cfg.host := false } e, .error e)
  | (s, some d) =>
    let e := pourEnd .check 0x0A
    let l := if slot = 0xFF then bootSlots s d else [slot]
    let r := openTries l e s { p with any := slot == 0xFF }
    if l.isEmpty then (noteEnd r.1 e, r.2) else r

/-- A pour from a host buffer. -/
def openHost (c : Cmd) (s : State) (p : Pour) : State × Except PourEnd Pour :=
  let s := { s with cfg.host := true, cfg.slot := 0 }
  let r : Except PourEnd Pour := match c.buf with
    | none => .error { pourAborted with dma := true }
    | some l =>
      let q := { p with fromHost := true, image := padTo c.hlen.toNat l }
      if c.hlen.toNat < 512 ∨ c.hlen.toNat < imageLen (headerOf s q) then .error (pourEnd .badParam 5)
      else checkImage s q c.hlen.toNat
  match r with
  | .error e => (noteEnd s e, .error e)
  | .ok q => (s, .ok q)

/-! ### Acceptance (R374, R375) -/

/-- The paddocks of a mask become LOADING; one that a cut holds does so after its release (R418). -/
def loadPaddock (s : State) (secure : BitVec 64) (k : Fin 64) : State :=
  if cutHeld s k.val then { s with mus.deferred := s.mus.deferred ++ [(.loading, k.val)] }
  else toLoading s (secure.getLsbD k.val) k

def maskList (m : BitVec 64) : List (Fin 64) := (List.finRange 64).filter fun k => m.getLsbD k.val

/-- A try whose checks have all passed begins; the lift of a pour's first try lasts through its later ones (R378). -/
def acceptTry (s : State) (p : Pour) : State :=
  let h := headerOf s p
  let pace := imageRead s p (hdPace h) (leAt h 172 4)
  let key := (deviceKey s (leAt h 42 1)).getD 0
  let order := (leAt h 43 1, leAt h 44 2, leAt h 46 2)
  let s := { s with cfg.pour := some { p with accepted := true, seg := 0, frames := [], last := none,
                                              lifted := match s.cfg.pour with | some q => q.lifted | none => Vector.replicate 2 false,
                                              releasing := false },
                    cfg.host := p.fromHost, cfg.slot := BitVec.ofNat 3 (if p.fromHost then 0 else p.slot),
                    sec.keyReg := keyOf (keyFirst (keyBytes key) ((h.drop 48).take 16)), sec.zeroised := false,
                    gov.pourFreeze := 2,
                    gov.pace := (s.gov.pace.filter fun e => !p.mask.getLsbD e.pdk) ++ paceEntries pace,
                    gov.vmin := vmapI s.gov.vmin fun k v => if p.mask.getLsbD k then leAt pace 2 2 else v }
  let s := (maskList p.mask).foldl (fun s k => loadPaddock s p.secure k) s
  let s := s.modPdks ((maskList p.mask).map (·.val)) fun d => { d with hdrOrder := order }
  let s := (List.finRange 2).foldl (fun s d => if (maskList p.mask).any (fun k => dieOfPdk k.val == d) then pourLift s d else s) s
  let s := floorRaise (floorRaise s 0) 1
  if p.full && s.dev.state == .halter then enterState s .pouring else s

/-! ### Stops (R377, R378) -/

def tornPaddock (s : State) (why : Nat) (k : Fin 64) : State :=
  if s.pdk[k].state = .loading then
    (withdraw s k).modPdk k fun d => { d with state := .torn, tornWhy := BitVec.ofNat 4 why }
  else s

/-- Every paddock of the mask becomes TORN. -/
def tearTry (s : State) (p : Pour) (e : PourEnd) : State :=
  let s := (maskList p.mask).foldl (fun s k => tornPaddock s e.why k) s
  let s := { s with cfg.rels := s.cfg.rels.filter fun r => r.job != p.job, sec.keyReg := 0,
                    cfg.lastAddr := match e.addr with | some a => BitVec.ofNat 19 a | none => s.cfg.lastAddr }
  raiseEvent (logFault (cfgErr s cfTorn) (.torn s.dev.yard s.cfg.lastAddr.toNat)) 2

/-- The pour has ended without completing: its final reply, and the freeze with its lifts. -/
def closePour (s : State) (p : Pour) (e : PourEnd) : State :=
  endPourFreeze (finishJob { s with cfg.pour := none, sec.keyReg := 0 } p.job e.st e.detail e.data)

/-- No slot is left: a full pour leaves POURING, and a start-up pour has failed (R377, R397). -/
def failPour (s : State) (p : Pour) (e : PourEnd) : State :=
  let s := closePour s p e
  if p.job = 0 then enterRecovery s 2
  else if p.full && s.dev.state == .pouring then enterState s .halter else s

/-- A try stops after ACCEPTED: its paddocks are TORN. While a slot is left to try, the pour goes on, with its paddocks shown TORN
until the next try begins writing (R378); with the last, it fails. -/
def stopTry (s : State) (e : PourEnd) : State :=
  match s.cfg.pour with
  | none => s
  | some p =>
    let s := tearTry (noteEnd s e) p e
    if p.any && !p.slots.isEmpty then
      { s with cfg.pour := some { p with accepted := false, first := false, frames := [], last := none, releasing := false } }
    else failPour s p e

/-- The next try of a pour between two tries: the first slot left whose checks pass, else the pour fails. `ok` false: the first
of them cannot be read, which fails its check of step 3. -/
def nextTry (s : State) (p : Pour) (ok : Bool) : State :=
  let e := pourEnd .check 0x0A
  let s := if ok then s else noteEnd s e
  match openTries (if ok then p.slots else p.slots.drop 1) e s p with
  | (s, .ok q) => acceptTry s q
  | (s, .error e) => failPour s p e

/-- A device state change or a shutdown ends the pour, whatever slots are left (R367). -/
def abortPour (s : State) : State :=
  match s.cfg.pour with
  | none => s
  | some p => closePour (if p.accepted then tearTry (noteEnd s pourAborted) p pourAborted else noteEnd s pourAborted) p pourAborted

/-- The device enters a state in which the pour in progress is not legal, or any other (R351). -/
def changeState (s : State) (st : DevState) : State :=
  let ends := match s.cfg.pour with
    | some p => !(longStates (if p.full then 0x0100 else 0x0101)).contains st
    | none => false
  enterState (if ends then abortPour s else s) st

/-! ### POUR_PATTERN and POUR_PARTIAL -/

/-- A pour begins with no frame written (R390). -/
def noFrames (s : State) : State := { s with cfg.written := 0 }

/-- Checks 3 on, and, when they pass, ACCEPTED and the first try. A pour that would record a new golden entry in a read-only
studbook is refused (R366, R411). `CFG_FRAMES` counts this pour's frames from here on (R390). -/
def startPour (c : Cmd) (s : State) (p : Pour) (source slot : Nat) : State :=
  if source ≠ 1 ∧ s.dev.sbRo ∧ ((directory s).1.bind (newGolden s)).isSome then refuse c s (denyDev .noSpace s)
  else match if source = 1 then openHost c (noFrames s) p else openFlash (noFrames s) p slot with
  | (s, .error e) => refuse c s { st := e.st, detail := e.detail, data := e.data, dma := e.dma }
  | (s, .ok q) => acceptTry (startJob c s .pour []) { q with job := s.cmdp.nextId }

def pourPatternSpec : CmdSpec where
  opcode := 0x0100
  states := stHR
  size := sizeIs 8
  isLong := fun _ _ => true
  buffer := true
  params := fun c _ => paramChecks (resZero c 2 6) (decide (par c 0 1 ≤ 1) && (decide (par c 1 1 < 8) || par c 1 1 == 0xFF))

/-- A pour that step 1 or 2 of R374 refuses: `CFG_ERR.CHECK` sets, as for any check of R374 (Table 14-13). -/
def pourDeny (c : Cmd) (s : State) (d : Deny) : Except Deny State := .ok (refuse c (cfgErr s 30) d)

def pourPatternBody (c : Cmd) (s : State) : Except Deny State :=
  if s.cfg.pour.isSome then pourDeny c s (denyDev .busy s)
  else .ok (startPour c s { full := true, mask := BitVec.allOnes 64 } (par c 0 1) (par c 1 1))

/-- `POUR_PATTERN`. -/
def execPourPattern (c : Cmd) (s : State) : Host.Outcome State Fault Refusal := .next (runCmd pourPatternSpec pourPatternBody c s)

def pourPartialSpec : CmdSpec where
  opcode := 0x0101
  states := stS
  size := sizeIs 16
  isLong := fun _ _ => true
  buffer := true
  touches := fun c _ => (bitsOf 64 (par c 4 8)).map Res.pdk
  params := fun c _ =>
    paramChecks (resZero c 2 2 && resZero c 12 4) (decide (par c 0 1 ≤ 1) && decide (par c 1 1 < 8) && par c 4 8 != 0)

/-- Step 2 for one paddock. -/
def partialDeny (s : State) (k : Fin 64) : Option Deny :=
  if s.pdk[k].state = .live ∨ s.pdk[k].state = .loading then some (denyPdk .stateRefused s k.val)
  else if pdkBusy s k.val || !(portItems s k.val).isEmpty then some (denyPdk .busy s k.val)
  else none

def pourPartialBody (c : Cmd) (s : State) : Except Deny State :=
  let mask := BitVec.ofNat 64 (par c 4 8)
  if s.cfg.pour.isSome then pourDeny c s (denyDev .busy s)
  else match (maskList mask).findSome? (partialDeny s) with
  | some d => pourDeny c s d
  | none => .ok (startPour c s { full := false, mask := mask } (par c 0 1) (par c 1 1))

/-- `POUR_PARTIAL`. -/
def execPourPartial (c : Cmd) (s : State) : Host.Outcome State Fault Refusal := .next (runCmd pourPartialSpec pourPartialBody c s)

/-- The start-up pour (R397): a POUR_PATTERN from slot 0xFF that no host asked for. -/
def startUpPour (s : State) : State :=
  if (loaderDev s).isNone then { s with dev.noFlash := true }
  else
    let p : Pour := { full := true, mask := BitVec.allOnes 64 }
    match openFlash (noFrames s) p 0xFF with
    | (s, .error _) => enterRecovery s 2
    | (s, .ok q) => acceptTry s q

/-! ### Segments and frames (R376) -/

/-- A frame written: its payload with a correct check field, or the 512 bytes of a bin's array. -/
def putFrame (s : State) (a : Nat) (v : BitVec 4096) : State :=
  let k := a / 8192
  let idx := a % 8192
  if idx < 6144 then { s with cfg.frames := tput {} s.cfg.frames a { good := v } }
  else
    let b := (idx - 6144) / 32
    let f := (idx - 6144) % 32
    { s with fab.binMem := writeBytes s.fab.binMem (binByte k b (512 * f)) (leBytes 512 v.toNat),
             fab.binBad := tdrop (fun w => decide (binWord k b (64 * f) ≤ w) && decide (w < binWord k b (64 * f + 64))) s.fab.binBad }

/-- The indices that a pour may write (Table 14-4). -/
def pourIndex (idx : Nat) : Bool := decide (idx < 5120) || (decide (5152 ≤ idx) && decide (idx < 5216)) || decide (6144 ≤ idx)

/-- A paddock of the mask has all its stall configuration and bin control frames. -/
def pdkWritten (s : State) (k : Fin 64) : Bool := s.pdk[k].wrote == 5184

/-- The checks of one frame, in their order. Its address shows that the frames of every earlier paddock of the mask have ended,
which stops the pour when one of them is incomplete. -/
def frameFault (s : State) (p : Pour) (a : Nat) (v : BitVec 4096) : Option PourEnd :=
  if !(decide (a < 2 ^ 19) && p.mask.getLsbD (a / 8192)) then some (pourStop .badParam 0x10 2 (some a))
  else if !pourIndex (a % 8192) || (match p.last with | some l => decide (a ≤ l) | none => false) then
    some (pourStop .check 9 5 (some a))
  else if (maskList p.mask).any fun k => decide (k.val < a / 8192) && !pdkWritten s k then some (pourStop .check 9 5 none)
  else if !frameOk (a / 8192) (a % 8192) v then some (pourStop .check 5 1 (some a))
  else none

/-- One frame counted as written. -/
def countFrame (s : State) (a : Nat) : State :=
  let s := { s with cfg.written := s.cfg.written + 1, cfg.lastAddr := BitVec.ofNat 19 a,
                    cfg.pour := s.cfg.pour.map fun (p : Pour) => { p with last := some a } }
  s.modPdk (Fin.ofNat 64 (a / 8192)) fun d =>
    { d with lastIdx := BitVec.ofNat 13 a, wrote := if a % 8192 < 6144 then d.wrote + 1 else d.wrote }

/-- Frames written in order, until one fails its checks or its die's rail has still to rise (R131). -/
def writeFrames : List (Nat × BitVec 4096) → State → State × Option PourEnd
  | [], s => ({ s with cfg.pour := s.cfg.pour.map fun (p : Pour) => { p with frames := [] } }, none)
  | (a, v) :: r, s =>
    match s.cfg.pour with
    | none => (s, none)
    | some p =>
      match frameFault s p a v with
      | some e => (s, some e)
      | none =>
        if p.lifted[dieOfPdk (a / 8192)] then writeFrames r (countFrame (putFrame s a v) a)
        else ({ s with cfg.pour := some { p with frames := (a, v) :: r } }, none)

/-- Every paddock of the mask has all its stall configuration and bin control frames. -/
def allWritten (s : State) (p : Pour) : Bool := (maskList p.mask).all (pdkWritten s)

/-- What follows once frames have been written: after the last, the release sequence is due. -/
def afterFrames (r : State × Option PourEnd) : State :=
  match r with
  | (s, some e) => stopTry s e
  | (s, none) =>
    match s.cfg.pour with
    | none => s
    | some p =>
      if !p.frames.isEmpty || p.seg < hdSegments (headerOf s p) then s
      else if allWritten s p then { s with cfg.pour := some { p with releasing := true } }
      else stopTry s (pourStop .check 9 5 none)

/-- Run `j` of a segment header: its first address and count. -/
def runOf (h : List Byte) (j : Nat) : Nat × Nat := (leAt h (8 + 8 * j) 4, leAt h (12 + 8 * j) 2)

/-- Step 3 of a segment of `n` frames. -/
def segmentOk (h : List Byte) (seg n : Nat) : Bool :=
  let runs := List.range (leAt h 6 2)
  leAt h 0 4 == seg && leAt h 4 2 == n && decide (1 ≤ leAt h 6 2) && decide (leAt h 6 2 ≤ 31) &&
  (runs.map fun j => (runOf h j).2).foldl (· + ·) 0 == n &&
  runs.all fun j => decide ((runOf h j).1 < 2 ^ 19) && leAt h (14 + 8 * j) 2 == 0

/-- The addresses of a segment's frames. -/
def segmentAddrs (h : List Byte) : List Nat :=
  (List.range (leAt h 6 2)).flatMap fun j => (List.range (runOf h j).2).map fun i => (runOf h j).1 + i

/-- A segment has been read: decrypted, its tag and header checked, its frames written (R376). -/
def pourSegment (s : State) (p : Pour) : State :=
  let h := headerOf s p
  if hdSegments h ≤ p.seg then afterFrames (s, none)
  else
    let n := min 1024 (hdFrames h - 1024 * p.seg)
    let at_ := hdBody h + p.seg * 524544
    let sh := imageRead s p at_ 256
    let key := keyBytes s.sec.keyReg
    let tag := imageRead s p (hdTag h + 16 * p.seg) 16
    match gcmOpen key (beBytes 4 p.seg ++ List.replicate 8 0) sh (imageRead s p (at_ + 256) (512 * n)) tag with
    | none => stopTry s (pourStop .check 4 3 none)
    | some l =>
      if !segmentOk sh p.seg n then stopTry s (pourStop .check 9 3 none)
      else
        let s := { s with sec.keyReg := keyOf (keyNext key p.seg), cfg.pour := some { p with seg := p.seg + 1 } }
        afterFrames (writeFrames ((segmentAddrs sh).zip ((blocks 512 n l).map fun b => BitVec.ofNat 4096 (leNat b))) s)

/-- The loader may go on: no paddock of the pour waits for a cut to become LOADING. -/
def loaderReady (s : State) : Bool := !(s.mus.deferred.any fun d => d.1 == .loading)

/-- `SEGMENT_READ`: `ok` false: the read from flash or from the host buffer failed. Between two tries it begins the next one. -/
def execSegmentRead (ok : Bool) (s : State) : Host.Outcome State Fault Refusal :=
  .next (match s.cfg.pour with
  | none => s
  | some p =>
    if p.releasing || !p.frames.isEmpty || !loaderReady s then s
    else if !p.accepted then nextTry s p ok
    else if ok then pourSegment s p
    else if p.fromHost then
      let s := match (findJob s p.job).bind fun j => portOf j.src with
        | some h => hpErr s h hpDma
        | none => s
      stopTry s (pourStop .aborted 0 4 none)
    else stopTry s (pourStop .check 0x0C 4 none))

/-- `POUR_LIFT_READY` (R131): the rail of die `d` reads back at least 0.75 V. The last value read counts, also one read before
the lift was set: the model's choice (log entry 108). -/
def execPourLiftReady (d : Fin 2) (s : State) : Host.Outcome State Fault Refusal :=
  .next (match s.cfg.pour with
  | none => s
  | some p =>
    if s.gov.die[d].vread < 750 || !s.gov.die[d].pourLift || p.releasing || !p.accepted || !loaderReady s then s
    else
      let s := { s with cfg.pour := some { p with lifted := vset p.lifted d true } }
      if p.frames.isEmpty then s else afterFrames (writeFrames p.frames s))

/-! ### The release sequence (R379) -/

/-- The mask of the paddocks that are LIVE. -/
def liveMask (s : State) : Nat := maskOf ((List.range 64).filter fun k => (pdkAt s k).state == .live)

/-- The device enters SERVICE; the time from the start is kept when it first does (Table 15-10). -/
def enterService (s : State) : State :=
  let s := if s.dev.toService = 0 then
      { s with dev.toService := BitVec.ofNat 16 (min 65535 ((s.dev.yard - s.dev.startAt) / 1000000)) } else s
  enterState s .service

/-- A pour completes: its paddocks are LIVE, it replies DONE, and a full pour moves the device to SERVICE. -/
def completePour (s : State) (p : Pour) : State :=
  let s := s.modPdks ((maskList p.mask).map (·.val)) fun d => { d with poured := true }
  let s := endRelease s p.job
  let gold := !p.fromHost && (directory s).1.map (goldenSlot s) == some p.slot
  let gold := if p.full then gold else s.cfg.golden
  let fell := if p.any then !p.first else s.cfg.fallback
  let s := { s with cfg.pour := none, cfg.pours := s.cfg.pours + 1, cfg.lstatus := 0, cfg.ldetail := 0, sec.keyReg := 0,
                    cfg.golden := gold, cfg.fallback := fell }
  let head := if p.full then leBytes 4 (if p.fromHost then 0xFF else p.slot) else leBytes 4 0
  let s := finishJob s p.job .done 0 (head ++ leBytes 8 (liveMask s))
  if p.full && s.dev.state == .pouring then enterService s else s

/-- The paddocks of a pour enter the release sequence, in the order in force now. -/
def startRelease (s : State) (p : Pour) : State :=
  { s with cfg.rels := s.cfg.rels ++ (maskList p.mask).map fun k => { job := p.job, pdk := k.val, stages := orderOf s k.val } }

/-- The release of a command's paddocks ends. -/
def afterStage (s : State) (job : Nat) : State :=
  if !releaseEnded s job then s
  else match s.cfg.pour with
  | some p => if p.job = job then completePour s p else finishJob (endRelease s job) job .done 0 []
  | none => finishJob (endRelease s job) job .done 0 []

/-- `RELEASE_STAGE`: the next stage of a pour (job 0: the start-up pour) or of a RELEASE_PADDOCK takes effect. A pour's first
stage waits until every clock loop is locked, and every stage for the release of a cut that holds its paddock. -/
def execReleaseStage (job : Nat) (s : State) : Host.Outcome State Fault Refusal :=
  .next (if s.cfg.rels.any fun r => r.job == job && cutHeld s r.pdk then s
    else if s.cfg.rels.any fun r => r.job == job then afterStage (stepRelease s job) job
    else match s.cfg.pour with
    | some p =>
      if p.job = job && p.releasing && s.pins.lock == 0xFFFF then afterStage (stepRelease (startRelease s p) job) job else s
    | none => s)

end Sys2Proof.Machine
end

