-- ==== Sys2Proof/Machine/Lifecycle.lean ====
section
/-! DEFINITION. Machine/Lifecycle.lean: identity (R422), the life cycle (R425 to R428), signed tails (R360), keys, the
self-tests (R406, R407), PPS (R424) and the JTAG port (R427). -/

namespace Sys2Proof.Machine

open Sys2Proof

/-! ### GET_IDENTITY and LC_STATUS (Tables 13-7, 13-8, 13-14) -/

/-- The 92 bytes of `GET_IDENTITY`. -/
def identityBytes (s : State) : List Byte :=
  leBytes 2 0x0117 ++ leBytes 2 0x0080 ++ leBytes 4 s.fuse.serial.toNat ++ leBytes 8 s.fuse.lot.toNat ++
    leBytes 2 s.fuse.fwver.toNat ++ leBytes 1 (lcCode s.fuse.lcs) ++ leBytes 1 0 ++
    s.fuse.die.toList.flatMap fun r => leBytes 24 r.toNat

def getIdentitySpec : CmdSpec where
  opcode := 0x0001
  states := stAll
  size := sizeIs 0
  buffer := true

def getIdentityBody (c : Cmd) (s : State) : Except Deny State := doneOut c s (identityBytes s)

/-- `GET_IDENTITY` (R422). -/
def execGetIdentity (c : Cmd) (s : State) : Host.Outcome State Fault Refusal :=
  .next (runCmd getIdentitySpec getIdentityBody c s)

/-- Slot `k` holds a key, in fuses or wrapped in the studbook. -/
def slotProgrammed (s : State) (k : Nat) : Bool :=
  (vget none s.fuse.keys k).isSome || (tget none s.book.wrapped k).isSome

/-- The 16 bytes of `LC_STATUS`. -/
def lcStatusBytes (s : State) : List Byte :=
  leBytes 1 (lcCode s.fuse.lcs) ++ leBytes 1 (b2n s.sec.scan + 2 * b2n s.sec.zeroised) ++ leBytes 2 s.book.signed.toNat ++
    leBytes 8 s.book.nonce.toNat ++ leBytes 2 (maskOf ((List.range 16).filter (slotProgrammed s))) ++ leBytes 2 0

def lcStatusSpec : CmdSpec where
  opcode := 0x0800
  states := stAll
  size := sizeIs 0

def lcStatusBody (c : Cmd) (s : State) : Except Deny State := .ok (doneWith c s (lcStatusBytes s))

/-- `LC_STATUS` (R357, Table 13-14). -/
def execLcStatus (c : Cmd) (s : State) : Host.Outcome State Fault Refusal := .next (runCmd lcStatusSpec lcStatusBody c s)

/-! ### Signed tails (R360) -/

/-- The digest that a tail's signature covers. -/
def tailDigest (c : Cmd) (s : State) : List Byte :=
  sha384 (leBytes 2 c.opcode.toNat ++ leBytes 4 s.fuse.serial.toNat ++ c.params.take 16)

/-- The result of a checked tail; none: it passes. -/
def tailCheck (c : Cmd) (s : State) : Option Deny :=
  let key := (c.params.drop 16).take 97
  if sha384 key ≠ leBytes 48 s.fuse.pkHash.toNat then some { st := .auth, detail := 1 }
  else if !ecdsaOk key (tailDigest c s) ((c.params.drop 116).take 48).reverse ((c.params.drop 164).take 48).reverse then
    some { st := .auth, detail := 2 }
  else if BitVec.ofNat 64 (par c 8 8) ≠ s.book.nonce then some { st := .auth, detail := 3 }
  else none

/-- The nonce advances after every checked tail, in the life-cycle record. -/
def advanceNonce (s : State) : State := bookWrite { s with book.nonce := Config.nextNonce s.book.nonce } .lifeCycle

/-- A signed command accepted: the studbook's counter (Table 15-8), which `LC_STATUS` shows, and the count of `HUB_LC`, which
every start leaves at 0 (R452). That the two are kept apart is the model's choice (log entry 100). -/
def countSigned (s : State) : State :=
  { s with book.signed := s.book.signed + 1, sec.signed := s.sec.signed + 1 }

/-- The command goes on when its tail passes, counted as accepted; else it is refused. -/
def withTail (c : Cmd) (s : State) (f : State → State) : State :=
  match tailCheck c s with
  | some d => refuse c (advanceNonce s) d
  | none => let s := advanceNonce s; f (countSigned s)

/-- What the zeroise would change while a long-running command changes it (R351): the key registers of a pour, or a
caster. -/
def zeroiseBusy (s : State) : Option Deny :=
  if s.cfg.pour.isSome then some (denyDev .busy s)
  else (s.cast.toList.findIdx? fun h => h.drain.isSome).map (denyCaster .busy s)

/-! ### LC_ADVANCE (R425) -/

/-- The transitions of Table 16-8. -/
def lcMay : LcState → LcState → Bool
  | .factory, .owned | .factory, .field | .owned, .field | .field, .ret => true
  | .factory, .scrapped | .owned, .scrapped | .field, .scrapped | .ret, .scrapped => true
  | _, _ => false

def lcAllowed (c : Cmd) (s : State) : Bool :=
  match lcOfCode (par c 0 1) with
  | some t => lcMay s.fuse.lcs t
  | none => false

def lcAdvanceSpec : CmdSpec where
  opcode := 0x0801
  states := stHR
  size := sizeIs 212
  life := lcAllowed
  params := fun c _ => paramChecks (resZero c 1 7 && resZero c 113 3) true

/-- The zeroise and the actions of Table 16-8's last column, then the new state. -/
def lcEnter (s : State) (t : LcState) : State :=
  let s := zeroise s
  let s := if t = .ret ∨ t = .scrapped then
      allEmpty (bookWrite { s with book.wrapped := [], fuse.keysOff := true } .wrappedKeys)
    else s
  bookWrite { s with fuse.lcs := t, book.sealed := t == .scrapped } .lifeCycle

def lcAdvanceBody (c : Cmd) (s : State) : Except Deny State :=
  match lcOfCode (par c 0 1), zeroiseBusy s with
  | none, _ => .error { st := .lifecycle }
  | _, some d => .error d
  | some t, none =>
    if s.dev.sbRo then .error (denyDev .noSpace s)
    else .ok (withTail c s fun s => doneWith c (lcEnter s t) [])

/-- `LC_ADVANCE` (R425). -/
def execLcAdvance (c : Cmd) (s : State) : Host.Outcome State Fault Refusal := .next (runCmd lcAdvanceSpec lcAdvanceBody c s)

/-! ### KEY_PROVISION (Tables 13-14, 13-15) -/

/-- FACTORY and OWNED. -/
def lcOpen (s : State) : Bool := s.fuse.lcs == .factory || s.fuse.lcs == .owned

def keyProvisionSpec : CmdSpec where
  opcode := 0x0802
  states := [.halter]
  size := sizeIs 80
  life := fun _ s => lcOpen s
  params := fun c _ => paramChecks (resZero c 2 6 && resZero c 48 32) (decide (par c 0 1 ≤ 15) && decide (par c 1 1 ≤ 1))

def keyProvisionBody (c : Cmd) (s : State) : Except Deny State :=
  let slot := par c 0 1
  let fuse := par c 1 1 == 0
  if fuse && (vget none s.fuse.keys slot).isSome then .error (denyRes .noSpace 0x10 0 slot)
  else if !fuse && s.dev.sbRo then .error (denyDev .noSpace s)
  else match keyUnwrap (keyBytes s.fuse.provKey) ((c.params.drop 8).take 40) with
  | none => .error { st := .auth }
  | some k =>
    let s := if fuse then { s with fuse.keys := vmodN s.fuse.keys slot fun _ => some (keyOf k) }
      else bookWrite { s with book.wrapped := tput none s.book.wrapped slot (some (keyOf k)) } .wrappedKeys
    .ok (doneWith c s [])

/-- `KEY_PROVISION` (R357). -/
def execKeyProvision (c : Cmd) (s : State) : Host.Outcome State Fault Refusal :=
  .next (runCmd keyProvisionSpec keyProvisionBody c s)

/-! ### SCAN_ENABLE (R427) -/

def scanEnableSpec : CmdSpec where
  opcode := 0x0804
  states := stHR
  size := sizeIs 212
  isLong := fun _ _ => true
  life := fun _ s => s.fuse.lcs == .factory || s.fuse.lcs == .ret
  params := fun c _ => paramChecks (resZero c 0 8 && resZero c 113 3) true

/-- The zeroise, then scan; both replies. -/
def scanEnableDo (c : Cmd) (s : State) : State :=
  let id := s.cmdp.nextId
  let s := zeroise (startJob c s .setState [])
  finishJob { s with sec.scan := true } id .done 0 []

def scanEnableBody (c : Cmd) (s : State) : Except Deny State :=
  match zeroiseBusy s with
  | some d => .error d
  | none => if s.dev.sbRo then .error (denyDev .noSpace s) else .ok (withTail c s (scanEnableDo c))

/-- `SCAN_ENABLE` (R427). -/
def execScanEnable (c : Cmd) (s : State) : Host.Outcome State Fault Refusal := .next (runCmd scanEnableSpec scanEnableBody c s)

/-! ### Exclusion (R406, R407, Table 15-6) -/

/-- A link FAILED: its group stops, and it takes no more commands. -/
def failLink (s : State) (n : Fin 128) : State :=
  if s.cxp.links[n].state == .failed then s
  else setFifo ((leaveGroup s n).modLink n fun l => { l with state := .failed, gsize := 0, grouped := false }) n []

/-- A channel EXCLUDED. -/
def excludeChannel (s : State) (c : Fin 8) : State :=
  (leaveActive s c).modChan c fun h => { h with state := .excluded, training := none }

/-- The blocks that a failing block stands for: those of a clock loop, numbered as in `HUB_CLK` (Tables 15-6, 17-7, 17-12), else
itself. -/
def standsFor : Block → List Block
  | .loop n =>
    if n = 8 ∨ n = 14 then (List.range 4).map fun i => .channel ((if n = 8 then 0 else 4) + i)
    else if n = 9 ∨ n = 15 then (List.range 128).map fun i => .caster ((if n = 9 then 0 else 128) + i)
    else if 4 ≤ n ∧ n < 14 then (List.range 16).map fun i => .link ((if n < 10 then 16 * (n - 4) else 64 + 16 * (n - 10)) + i)
    else []
  | b => [b]

/-- A block excluded as Table 15-6 says; a clock loop stands for its blocks. -/
def excludeBlock (s : State) : Block → State
  | .caster n => { s with cast := vmodN s.cast n fun h => { retireCaster h with mode := .excluded } }
  | .link n => if h : n < 128 then failLink s ⟨n, h⟩ else s
  | .channel n => if h : n < 8 then excludeChannel s ⟨n, h⟩ else s
  | .enc n => { s with trig.enc := vmodN s.trig.enc n fun x => { x with failed := true } }
  | .tdc n => { s with trig.enc := vmodN s.trig.enc n fun x => { x with tdcf := true } }
  | .delayLine n => if n < 32 then { s with trig.out := vmodN s.trig.out n fun x => { x with dlf := true } } else s
  | .sensor n => { s with pins.sensors := vmodN s.pins.sensors n fun x => { x with failed := true, valid := false } }
  | .monitor n => { s with pins.rails := vmodN s.pins.rails n fun x => { x with fail := true } }
  | .loop _ => s

/-- A block of the retired-block list at a start: excluded by a failed test, or retired by command. -/
def excludeEntry (s : State) (e : RetEntry) : State :=
  if e.tests ≠ 0 then excludeBlock s e.block
  else match e.block with
  | .caster n => { s with cast := vmodN s.cast n fun h => { retireCaster h with persist := true } }
  | .channel n => if h : n < 8 then s.modChan ⟨n, h⟩ fun x => { x with state := .retired, persist := true } else s
  | b => excludeBlock s b

/-- The tests whose failure names a block (Table 15-6); an encoder input is found by the TDC test (log entry 57). -/
def testNames (b : Nat) : Block → Bool
  | .caster _ => b == 8
  | .link _ => b == 0 || b == 1
  | .channel _ => b == 2
  | .loop _ => b == 3
  | .enc _ | .tdc _ => b == 6
  | .delayLine _ => b == 7
  | .sensor _ => b == 5
  | .monitor _ => b == 4

/-- The tests among those run that a block fails, in the bits of Table 15-6. A failed bit 8 of a mask stands for any test of the
shutdown set. -/
def blockFails (tests : List Nat) (failed : Nat) (b : Block) : Nat :=
  maskOf (tests.filter fun t => failed.testBit t && testNames t b)

/-- The blocks that fail, each with the tests it fails. A test fails exactly if its bit is set and it names a block: an operand
that sets a bit and lists no block of that test reports no failure (log entry 46). -/
def failingBlocks (tests : List Nat) (failed : Nat) (l : List Block) : List RetEntry :=
  ((l.filter fun b => blockFails tests failed b != 0).flatMap fun b =>
    (standsFor b).map fun x => ({ block := x, tests := BitVec.ofNat 9 (blockFails tests failed b) } : RetEntry)).foldl bookMerge []

/-- The tests that fail, among the bits of `failed`. -/
def failedTests (tests : List Nat) (failed : Nat) (l : List Block) : Nat :=
  maskOf ((List.range 9).filter fun t => failed.testBit t &&
    l.any fun b => blockFails tests failed b != 0 && (testNames t b || t == 8))

/-- Blocks excluded as Table 15-6 says and entered in the retired-block list (R406, R407). -/
def excludeBad (s : State) (bad : List RetEntry) : State :=
  bookEnter (bad.foldl (fun s e => excludeBlock s e.block) s) bad

/-- A BIST result in the studbook: the last 16 stay. -/
def bookVerdict (s : State) (passed failed : Nat) : State :=
  if s.dev.sbRo then s
  else bookWrite { s with book.verdicts := (s.book.verdicts ++ [(BitVec.ofNat 32 passed, BitVec.ofNat 32 failed)]).drop
                            (s.book.verdicts.length + 1 - 16) } .verdicts

/-! ### The shutdown record (R408) -/

/-- Bytes 0 to 123 of the shutdown record (Table 15-7). -/
def shutBytes (r : ShutRecord) : List Byte :=
  leBytes 4 r.magic.toNat ++ leBytes 4 r.gen ++ leBytes 2 r.fwver.toNat ++ leBytes 1 (lcCode r.lcs)
    ++ leBytes 1 (b2n r.bistRun + 2 * b2n r.consumed) ++ leBytes 8 r.time ++ leBytes 4 r.passed.toNat ++ leBytes 4 r.failed.toNat
    ++ leBytes 2 r.newret ++ leBytes 2 0 ++ leBytes 48 r.calHash.toNat ++ leBytes 44 0

/-- The record with its `CRC`. -/
def sealRecord (r : ShutRecord) : ShutRecord := { r with crc := BitVec.ofNat 32 (crc32c (shutBytes r)) }

/-- `CALHASH`: SHA-384 of the calibration records in force. -/
def calHash (s : State) : BitVec 384 := BitVec.ofNat 384 (leNat (sha384 s.book.cal))

/-! ### BIST_RUN (R406, R407, R428) -/

/-- FIELD permits only bits 0 to 2 and 8 (Table 13-15). -/
def bistLife (c : Cmd) (s : State) : Bool :=
  lcOpen s || (s.fuse.lcs == .field && par c 0 4 &&& 0x107 == par c 0 4)

def bistRunSpec : CmdSpec where
  opcode := 0x0803
  states := stHR
  size := sizeIs 212
  isLong := fun _ _ => true
  life := bistLife
  params := fun c s => paramChecks (resZero c 5 3 && decide (par c 0 4 < 512) && decide (par c 4 1 < 2)
    && (s.fuse.lcs != .field || resZero c 113 3)) true

/-- An unfinished `CXP_DISCOVER` or `CXP_SET_LINK` changes the link (R351). -/
def linkChanges (s : State) (n : Fin 128) : Bool :=
  s.cmdp.jobs.any fun j => match j.kind with
    | .discover mask => mask.getLsbD n.val
    | .setLink m _ => (masterOf s n).val == m
    | _ => false

/-- An unfinished `MEM_TRAIN` changes the channel (R351): its own, or every channel of the die that it describes or retrains. -/
def chanChanges (s : State) (c : Fin 8) : Bool :=
  s.cmdp.jobs.any fun j => match j.kind with
    | .memTrain 0 d _ => (dieOfChan c).val == d
    | .memTrain 2 x _ => c.val / 4 == x / 4
    | .memTrain _ x _ => c.val == x
    | _ => false

/-- A block that the tests would disturb: a link that streams or that a command changes, a channel of a die that holds a region
or that a command changes. -/
def bistBusy (s : State) (tests : List Nat) : Option Deny :=
  let link := if tests.contains 0 || tests.contains 1 then
      (List.finRange 128).find? fun n => s.cxp.links[n].state == .streaming || linkChanges s n
    else none
  match link with
  | some n => some (denyLink .busy s n)
  | none =>
    if !tests.contains 2 then none
    else ((List.finRange 8).find? fun ch => chanChanges s ch || (s.ddr.chan[ch].state != .absent &&
        s.ddr.map.any fun r => dieOf r.base == some (dieOfChan ch))).map (denyChanRes .busy s)

/-- The run would write the studbook whatever the tests find: the retired-block list (R407), or the calibration of tests 4 to 7
(Table 15-8). -/
def bistPersists (c : Cmd) (s : State) : Bool :=
  par c 4 1 == 1 || s.fuse.lcs == .field || (testsOf (par c 0 4)).any fun t => decide (4 ≤ t) && decide (t ≤ 7)

/-- The tests begin, after the zeroise. -/
def bistStart (c : Cmd) (s : State) : State :=
  zeroise (startJob c s (.bist (BitVec.ofNat 32 (par c 0 4)) (par c 4 1 == 1)) [])

def bistRunBody (c : Cmd) (s : State) : Except Deny State :=
  if (jobWhere s isBist).isSome then .error (denyDev .busy s)
  else match zeroiseBusy s, bistBusy s (testsOf (par c 0 4)) with
  | some d, _ => .error d
  | none, some d => .error d
  | none, none =>
    if s.dev.sbRo && bistPersists c s then .error (denyDev .noSpace s)
    else .ok (if s.fuse.lcs == .field then withTail c s (bistStart c) else bistStart c s)

/-- `BIST_RUN`. -/
def execBistRun (c : Cmd) (s : State) : Host.Outcome State Fault Refusal := .next (runCmd bistRunSpec bistRunBody c s)

/-- The tests that a block of the list must pass: those it failed; of a block that a command retired, its own test: the caster
self-test, or the PHY loopback of a channel. -/
def testsOwed (e : RetEntry) : List Nat :=
  bitsOf 9 e.tests.toNat ++ (if e.byCommand then (List.range 9).filter fun t => testNames t e.block else [])

/-- A run passes a block's test: it ran every test that the block owes, and the block fails none (R407). -/
def passedEntry (tests : List Nat) (bad : List RetEntry) (e : RetEntry) : Bool :=
  (testsOwed e).all (fun t => tests.contains t) && !bad.any fun x => x.block == e.block

/-- With the retire flag, in FACTORY and OWNED, a pass removes a block's entry; in FIELD entries are never removed (R407,
R428). -/
def bookPass (s : State) (tests : List Nat) (bad : List RetEntry) : State :=
  let l := s.book.retired.filter fun e => !passedEntry tests bad e
  if lcOpen s ∧ !s.dev.sbRo ∧ l ≠ s.book.retired then
    bookWrite (bookWrite { s with book.retired := l } .retiredList) .retiredList
  else s

/-- What the tests that measure a calibration leave: a new calibration record, whose contents are free (Table 15-8). -/
def bookCal (s : State) : State :=
  if s.dev.sbRo then s
  else
    let (v, s) := s.drawNat
    bookWrite { s with book.cal := leBytes 64 v } .calibration

/-- What a run leaves: failing blocks excluded and entered in the list, the verdict, new calibration records of tests 4 to 7,
and with `retire` the blocks that passed taken from the list. -/
def bistResult (s : State) (mask failed : Nat) (retire : Bool) (blocks : List Block) : State :=
  let tests := testsOf mask
  let bad := failingBlocks tests failed blocks
  let f := failedTests tests failed blocks
  let s := bookVerdict (excludeBad s bad) (mask &&& (511 ^^^ f)) f
  let s := if tests.any fun t => 4 ≤ t && t ≤ 7 then bookCal s else s
  if retire then bookPass s tests bad else s

/-- `BIST_COMPLETE`: the tests of a `BIST_RUN` have finished; `failed` in the mask's bits. -/
def execBistComplete (failed : BitVec 32) (blocks : List Block) (s : State) : Host.Outcome State Fault Refusal :=
  .next (match jobWhere s isBist with
  | none => s
  | some j =>
    match j.kind with
    | .bist mask retire =>
      let f := failedTests (testsOf mask.toNat) (mask.toNat &&& failed.toNat) blocks
      finishJob (bistResult s mask.toNat (mask.toNat &&& failed.toNat) retire blocks) j.id .done 0
        (leBytes 4 (mask.toNat &&& (511 ^^^ f)) ++ leBytes 4 f)
    | _ => s)

/-! ### PPS (R424) -/

/-- The error of an edge at yard time `t`: modulo 10^9, folded. -/
def ppsError (t : Nat) : Int := if t % 1000000000 ≤ 500000000 then (t % 1000000000 : Nat) else ((t % 1000000000 : Nat) : Int) - 1000000000

/-- The 24-bit signed phase, saturating. -/
def ppsPhase (e : Int) : BitVec 24 := BitVec.ofInt 24 (max (-8388608) (min 8388607 e))

/-- An edge follows the one before it by 999 ms to 1,001 ms. -/
def ppsSpaced (s : State) (t : Nat) : Bool :=
  match s.pps.last with
  | none => true
  | some l => decide (l + 999000000 ≤ t) && decide (t ≤ l + 1001000000)

/-- The trim that drives `e` towards 0: at most 200 ppm, its size free (log entry 55). -/
def ppsTrim (s : State) (e : Int) : Int × State :=
  let (v, s) := s.drawNat
  let m : Int := (v % 201 : Nat)
  (if e = 0 then 0 else if 0 < e then -m else m, s)

/-- An edge that counts: its error, a step or a slew, `LOCKED`. -/
def ppsTake (s : State) (t : Nat) : State :=
  let e := ppsError t
  let good := if e.natAbs ≤ 100 then s.pps.good + 1 else 0
  let locked := if 1000 < e.natAbs then false else s.pps.locked || decide (4 ≤ good)
  let s := { s with pps.phase := ppsPhase e, pps.good := good, pps.locked := locked }
  if s.pps.step then
    let by_ : Int := if e < 0 then -e else 1000000000 - e
    { s with dev.yard := s.dev.yard + by_.toNat, pps.last := some (t + by_.toNat), pps.step := false, pps.stepped := true }
  else
    let (v, s) := ppsTrim s e
    { s with pps.trim := v }

/-- The PPS input: `EN`, and the pin that `PIN` names with function 0x9, outside its switch intervals (R435). -/
def ppsOn (s : State) : Bool :=
  let p := vget ({} : Gpio) s.pins.gpio s.pps.pin.toNat
  s.pps.en && p.actFunc == 9 && !p.switching

/-- `PPS_EDGE`: a rising edge of the PPS pin, stamped `t`. -/
def execPpsEdge (t : Nat) (s : State) : Host.Outcome State Fault Refusal :=
  .next (if !ppsOn s then s
  else
    let ok := ppsSpaced s t
    let s := { s with pps.last := some t, pps.lost := false }
    if ok then ppsTake s t else s)

/-- `PPS_LOST`: no edge for 1.5 s; the trim is held. -/
def execPpsLost (s : State) : Host.Outcome State Fault Refusal :=
  .next (if ppsOn s && (match s.pps.last with
      | some l => decide (l + 1500000000 ≤ s.dev.yard)
      | none => decide (1500000000 ≤ s.dev.yard)) then { s with pps.lost := true } else s)

/-! ### JTAG (R427) -/

/-- The instruction selects the boundary register, whose cells it loads (IEEE 1149.1, 1149.6). -/
def selectsBoundary : JtagIns → Bool
  | .sample | .preload | .extest | .extestPulse | .extestTrain => true
  | .bypass | .idcode | .clamp | .highz | .internal _ => false

/-- The levels at the pads of the boundary register, in the order of its cells (Table 19-5, log entry 95): `GP0` to `GP95`,
`TRIG0` to `TRIG31`, A, B and Z of each encoder, `PERST_x_L`, `WAKE_x_L`, `SMB_ALERT_L`, `THERMTRIP_L`, `STBY_L`, `RST_L`,
`RECOVERY_L`, and the receiver and uplink of each link, at whose AC-coupled pads a level is a free value. -/
def boundaryLevels (s : State) : List Bool :=
  (s.pins.gpio.toList.map fun p => p.pad)
    ++ ((List.range 32).map fun o => s.trig.driven && (vget ({} : TrigOut) s.trig.out o).active != (vget ({} : TrigOut) s.trig.out o).pol)
    ++ (s.trig.enc.toList.flatMap fun e => [e.pinA, e.pinB, e.pinZ])
    ++ (s.hosts.port.toList.map fun h => !h.perst) ++ (s.hosts.port.toList.map fun h => !h.wakeOut)
    ++ [!s.dev.alert, s.dev.thermtripL, s.dev.stbyL, s.dev.rstL, s.dev.recoveryL]
    ++ (List.range 256).map fun k => Config.freeBit (s.free + k)

/-- The cells of the pads that the device drives. -/
def boundaryOuts : List Nat :=
  List.range 128 ++ [154, 155, 156, 157, 158] ++ (List.range 128).map (289 + ·)

/-- What the pads are given while a JTAG instruction holds them: their cells' levels, or none under HIGHZ. -/
def boundaryDrives (s : State) : List (Nat × Option Bool) :=
  boundaryOuts.map fun k => (k, if s.sec.jtag = .highz then none else (s.sec.cells[k]?).join)

/-- The bits that an instruction's register shifts out: one 0 for the bypass register, the identification code, or the levels
captured at the pads (log entry 95). -/
def jtagBits (s : State) (i : JtagIns) : List Bool :=
  if selectsBoundary i then boundaryLevels s
  else if i = .idcode then true :: (List.range 31).map fun b => Config.idcode.getLsbD b
  else [false]

/-- An instruction takes effect: the boundary register's cells `cells` are loaded where it selects them, and from EXTEST, CLAMP
and HIGHZ on the pads follow them or are high-impedance. -/
def jtagRun (s : State) (i : JtagIns) (cells : List (Option Bool)) : State :=
  let t : State := if selectsBoundary i then { s with sec.jtag := i, sec.cells := cells.take 417, free := s.free + 256 }
    else { s with sec.jtag := i }
  let t := t.emit (.jtag i (jtagBits s i))
  if padsTested t then t.emit (.jtagPads i (boundaryDrives t)) else t

/-- `JTAG_INSTRUCTION`: in every device state from STARTING onward. -/
def execJtagInstruction (l : JtagLoad) (s : State) : Host.Outcome State Fault Refusal :=
  if s.dev.state = .off ∨ s.dev.heldInReset then .next s
  else match l.ins with
  | .internal code => if s.sec.scan then .refused (.internalScan code) else .next (jtagRun s .bypass l.cells)
  | i => .next (jtagRun s i l.cells)

end Sys2Proof.Machine
end

