-- ==== Sys2Proof/Machine/TrigOps.lean ====
section
/-! DEFINITION. Machine/TrigOps.lean: encoders, the velocity estimator, the grid of a trigger generator, and the firing of
an instant at its outputs (10_encoders_and_triggers.md). Stamps are in 1/64 ns, instants in 2^-20 ns. -/

namespace Sys2Proof.Machine

open Sys2Proof

/-! ### Units -/

/-- Nanoseconds as an instant, and as a stamp. -/
def insNs (n : Nat) : Nat := n * 2 ^ 20
def stampNs (n : Nat) : Nat := n * 64

/-- A stamp as an instant. -/
def insOf (stamp : Nat) : Nat := stamp * 2 ^ 14

/-- The states in which the trigger engine counts, places and fires (R289). -/
def trigRuns (s : State) : Bool :=
  match s.dev.state with
  | .halter | .pouring | .service | .doze | .recovery => true
  | _ => false

/-! ### Encoders -/

/-- Bits of `ENC_ERR` set, and with them `TRG_ERR.ENC` (Table 10-8, Table 10-12). -/
def encErr (s : State) (e : Fin 8) (bit : Nat) : State :=
  let s := s.modEnc e fun x => { x with err := x.err ||| BitVec.twoPow 32 bit }
  { s with trig.err := s.trig.err ||| BitVec.twoPow 32 28 }

/-- Placement from edges whatever `PLACE` (R281). -/
def edgeOnly (x : Encoder) : Bool := x.tdcf || x.par.src

/-- 2^`WIN` times the estimated count period, in 1/64 ns; none while the estimator is not usable (R269). -/
def estimate (x : Encoder) : Option Nat :=
  match x.stamps.head?, x.stamps.getLast? with
  | some a, some b =>
    if x.stamps.length = 2 ^ x.par.win + 1 ∧ a - b ≤ x.par.pmax * 64000 * 2 ^ x.par.win then some (a - b) else none
  | _, _ => none

/-- `x` relative to position `p`, as a signed difference (R266). -/
def relPos (p x : Int) : Int := sInt 64 (uNat 64 (x - p))

/-! ### Outputs of a generator (R271, R282, R236) -/

/-- The head offset of an output: the master link's for a link, 0 for GPIO copies and the nominal instant. -/
def offsetOf (s : State) (o : Nat) : Int :=
  if o < 32 then (vget ({} : TrigOut) s.trig.out o).offset
  else if h : o - 32 < 128 then (vget ({} : TrigOut) s.trig.out (32 + (masterOf s ⟨o - 32, h⟩).val)).offset
  else 0

/-- The outputs that a generator selects. -/
def selected (p : GenParams) : List Nat :=
  bitsOf 32 p.trig.toNat ++ (bitsOf 128 p.link.toNat).map (32 + ·) ++ (bitsOf 96 p.gpio.toNat).map (160 + ·)

/-- The nominal instant, and the outputs that a generator selects. -/
def outputsOf (p : GenParams) : List Nat := 256 :: selected p

/-- The greatest head offset among a generator's outputs (R274); LINE events take 0. -/
def maxOffset (s : State) (p : GenParams) : Int :=
  match (selected p).map (offsetOf s) ++ (if p.line then [0] else []) with
  | [] => 0
  | a :: r => r.foldl max a

/-- Grid points k with `lo < b + k * pitch ≤ hi`, within `COUNT` (R271). -/
def gridIn (p : GenParams) (b lo hi : Int) : List Nat :=
  let first := max 0 (Int.fdiv (lo - b) p.pitch + 1)
  let last := Int.fdiv (hi - b) p.pitch
  ((List.range (last + 1 - first).toNat).map fun i => first.toNat + i).filter fun k => p.count == 0 || decide (k < p.count)

/-- The grid points that a count from `old` to `new` (relative positions) crosses at offset `b` of grid point 0 (R272,
R273); `h` is the high-water position. -/
def crossed (p : GenParams) (b old new h : Int) : List Nat :=
  if old < new then gridIn p b (if p.both then old else max old h) new
  else if p.both then gridIn p b (new - 1) (old - 1) else []

/-- The grid points within one count ahead (R277). -/
def upcoming (p : GenParams) (b old new h : Int) : List Nat :=
  if old < new then gridIn p b (if p.both then new else max new h) (new + 1024)
  else if p.both then gridIn p b (new - 1025) (new - 1) else []

/-! ### Firing one instant (R276, R279, R283 to R287) -/

/-- The nominal position of grid point `k`, as a position word. -/
def nominal (p : GenParams) (k : Nat) : BitVec 64 := p.start + BitVec.ofNat 64 (k * p.pitch)

/-- A suppression counted (R287). -/
def suppress (s : State) (o : Fin 256) : State :=
  let s := s.modTrigOut o fun x => { x with supp := satAdd x.supp 1 }
  { s with trig.supp := s.trig.supp + 1, trig.err := s.trig.err ||| BitVec.twoPow 32 31 }

/-- A late firing counted (R278). -/
def countLate (s : State) : State := { s with trig.late := s.trig.late + 1, trig.err := s.trig.err ||| BitVec.twoPow 32 30 }

/-- The least spacing of an output, as an instant (R287). -/
def spacingOf (s : State) (o : Fin 256) : Nat :=
  let x := 10 * s.trig.out[o].spacing
  insNs (if 32 ≤ o.val ∧ o.val < 160 then max x (if 6 ≤ (vget ({} : Link) s.cxp.links (o.val - 32)).rate then 1000 else 2000) else x)

/-- The engine cycle of 1.25 ns that contains an instant (R279). -/
def engineCycle (t : Nat) : Nat := t / (80 * 2 ^ 14)

/-- The start of a pulse in 1/64 ns: the engine cycle that contains the instant and the nearest of its 80 steps (R279). -/
def pulseStart (t : Nat) : Nat :=
  let c := engineCycle t
  80 * c + min 79 ((t - 80 * 2 ^ 14 * c + 2 ^ 13) / 2 ^ 14)

/-- A pulse on an output. A bypassed delay line places it within ±2 ns of the instant, as a free value (R279, log
entry 3). -/
def startPulse (s : State) (o : Fin 256) (t : Nat) : State :=
  let x := s.trig.out[o]
  let (at_, s) := if x.dlf then let (v, s) := s.drawNat; (pulseStart t + v % 257 - 128, s) else (pulseStart t, s)
  (s.modTrigOut o fun x => { x with active := true, until_ := t + insNs (20 * x.width) }).emitPad (.pulse o.val at_ x.width x.pol)

/-- An entry in a group's trigger log (R236, R239), once per grid point. -/
def logTrigger (s : State) (m : Fin 128) (e : LogEntry) : State :=
  let g := s.cxp.groups[m]
  if s.cxp.links[m].state != .streaming || !g.set.doMatch || g.log.any fun x => x.gen == e.gen && x.k == e.k && x.t == e.t then s
  else enterLog s m e

/-- A partner that a group has lost, or that was taken to OFF: the group sends no trigger packet (R254, Table 9-12). -/
def silences (l : Link) : Bool := l.state == .lost || l.state == .discovering || l.state == .off

/-- Nanoseconds of one unit of a trigger packet's delay field, a 24th of a bit of the uplink, and the latest start of the
packet after its instant (R237, log entry 101). -/
def delayUnit (l : Link) : Nat := if 6 ≤ l.rate then 1 else 2
def latestStart (l : Link) : Nat := if 6 ≤ l.rate then 260 else 500

/-- A trigger packet on a link that is UP or STREAMING (R236): it starts at the next character boundary, which the spec does
not fix, and carries the time from the instant to its start (R237). -/
def trigPacket (s : State) (n : Fin 128) (e : LogEntry) (t : Nat) : State :=
  let l := s.cxp.links[n]
  if l.state = .up ∨ l.state = .streaming then
    let (v, s) := s.drawNat
    let d := v % (latestStart l + 1)
    (s.modLink n fun l => { l with ackWait := l.ackWait ++ [e.t] }).emit
      (.trigPacket n.val (t / 2 ^ 14) ((d + delayUnit l / 2) / delayUnit l))
  else s

/-- A trigger on a link output (R236, R284): the log of its group, and a trigger packet on the link itself. -/
def linkTrigger (s : State) (n : Fin 128) (e : LogEntry) (t : Nat) : State :=
  let m := masterOf s n
  let s := logTrigger s m e
  if (groupLinks s m).any fun x => silences s.cxp.links[x] then s else trigPacket s n e t

/-- A GPIO trigger copy (R284): on the pin while its function is 0x2 and no switch interval holds the pad (R435). Its edge
lies 2.0 ns to 4.5 ns after the instant, through no delay line: where in that range, the spec does not fix. -/
def gpioTrigger (s : State) (o : Fin 256) (t : Nat) : State :=
  let w := s.trig.out[o].width
  if h : o.val - 160 < 96 then
    let n : Fin 96 := ⟨o.val - 160, h⟩
    if s.pins.gpio[n].actFunc = 2 && !s.pins.gpio[n].switching then
      let (v, s) := (s.modGpio n fun p => { p with lvl := true }).drawNat
      (s.modTrigOut o fun x => { x with active := true, until_ := t + insNs (20 * w) }).emitPad
        (.pulse o.val (t / 2 ^ 14 + 128 + v % 161) w false)
    else s
  else s

/-- An output fires a grid point of generator `g`, unless its spacing suppresses it (R287). -/
def fireOutput (s : State) (g : Fin 64) (o : Fin 256) (x : Sched1) : State :=
  let out := s.trig.out[o]
  let close := match out.last with
    | some l => decide (x.t < l + spacingOf s o)
    | none => false
  if close then suppress s o
  else
    let s := s.modTrigOut o fun y => { y with last := some x.t }
    let s := if x.late then countLate s else s
    if o.val < 32 then startPulse s o x.t
    else if h : o.val - 32 < 128 then
      linkTrigger s ⟨o.val - 32, h⟩ { seq := x.seq, pos := x.pos, t := x.t / 2 ^ 20, gen := g.val, k := x.k } x.t
    else gpioTrigger s o x.t

/-- The entry is the grid point of instant `x`, of the same run. -/
def Gone.sameAs (z : Gone) (x : Sched1) : Bool := z.k == x.k && z.old == x.old

/-- The nominal instant of a grid point: suppressed under R276, or the grid point is issued, with its LINE event (R285). -/
def fireNominal (s : State) (g : Fin 64) (x : Sched1) : State :=
  let p := s.trig.gen[g]
  let close := match p.lastNom with
    | some n => decide (x.t < n + insNs 20)
    | none => false
  if close then
    let s := s.modGen g fun y => { y with gsupp := satAdd y.gsupp 1, gone := ⟨x.k, x.t, x.fwd, x.old⟩ :: y.gone.filter fun z => !z.sameAs x }
    { s with trig.supp := s.trig.supp + 1, trig.err := s.trig.err ||| BitVec.twoPow 32 29 }
  else
    let q := x.seq
    let s := s.modGen g fun y =>
      { y with lastNom := some x.t, lastSeq := q, issued := true, gone := y.gone.filter fun z => !z.sameAs x,
               wraps := if y.issued && y.lastSeq == 0xFFFFFFFF && q == 0 then y.wraps + 1 else y.wraps,
               lineCnt := if x.line then y.lineCnt + 1 else y.lineCnt }
    let s := { s with trig.fired := s.trig.fired + 1 }
    let s := genPulse s g.val
    if x.line then lineEvent (if x.late then countLate s else s) { gen := BitVec.ofNat 6 g.val, seq := q } (engineCycle x.t) else s

/-- The grid point was suppressed at its nominal instant, and this instant of it lies at or after that one, in the same
direction of travel (R276). -/
def suppressedAt (y : Gen) (x : Sched1) : Bool := y.gone.any fun z => z.sameAs x && z.fwd == x.fwd && decide (z.t ≤ x.t)

/-- One instant of a generator fires; a grid point suppressed at its nominal instant is suppressed on the outputs that come
at or after it (R276). -/
def fireOne (s : State) (g : Fin 64) (x : Sched1) : State :=
  let s := s.modGen g fun y =>
    { y with sched := y.sched.erase x, ahead := if x.crossed || x.old then y.ahead else (x.out, x.k) :: y.ahead }
  if h : x.out < 256 then
    if suppressedAt s.trig.gen[g] x then s else fireOutput s g ⟨x.out, h⟩ x
  else fireNominal s g x

/-- The order of instants: by time, nominal instants first, then by generator and output (R285, R287). -/
def fireKey (g : Fin 64) (x : Sched1) : Nat := ((x.t * 2 + (if x.out = 256 then 0 else 1)) * 64 + g.val) * 257 + x.out

/-- The first instant scheduled among those that satisfy `p`. -/
def nextInstant (s : State) (p : Sched1 → Bool) : Option (Fin 64 × Sched1) :=
  ((List.finRange 64).flatMap fun g => (s.trig.gen[g].sched.filter p).map fun x => (g, x)).foldl
    (fun b x => match b with
      | none => some x
      | some y => if fireKey x.1 x.2 < fireKey y.1 y.2 then some x else some y) none

/-- Instants fire in their order while one satisfies `p`. -/
def fireWhile (p : Sched1 → Bool) : Nat → State → State
  | 0, s => s
  | k + 1, s =>
    match nextInstant s p with
    | none => s
    | some (g, x) => fireWhile p k (fireOne s g x)

/-- Instants scheduled. -/
def instants (s : State) : Nat := (s.trig.gen.toList.map fun g => g.sched.length).foldl (· + ·) 0

def fireAll (s : State) (p : Sched1 → Bool) : State := fireWhile p (instants s) s

/-- The scheduler cycle that contains an instant: cycles of 5/6 ns, 1.2 GHz (R205). -/
def schedCycle (t : Nat) : Nat := t * 6 / insNs 5

/-- The instants before `t` fire, the scheduler cycle of the earliest first, at most `k` cycles: at the end of each cycle what
it has made due falls due, before the instants of the next (R214, R215). -/
def fireCycles (t : Nat) : Nat → State → State
  | 0, s => s
  | k + 1, s =>
    match nextInstant s fun i => decide (i.t < t) with
    | none => s
    | some (_, x) =>
      fireCycles t k (tickDue (fireAll s fun i => decide (i.t < t) && schedCycle i.t == schedCycle x.t))

/-- Every instant before stamp `t` fires, and what it makes due falls due. -/
def fireBefore (s : State) (t : Nat) : State := fireCycles (insOf t) (instants s) s

end Sys2Proof.Machine
end

