-- ==== Sys2Proof/Machine/Triggers.lean ====
section
/-! DEFINITION. Machine/Triggers.lean: counts, indices and instants, and the encoder and trigger commands
(10_encoders_and_triggers.md; 13_commands.md, Table 13-11). -/

namespace Sys2Proof.Machine

open Sys2Proof

/-! ### A count (R260 to R263, R266, R269, R272 to R278) -/

/-- The Gray sequence of quadrature ×4, numbered in the forward direction (Table 10-2). -/
def gray (a b : Bool) : Nat := match a, b with
  | false, false => 0 | true, false => 1 | true, true => 2 | false, true => 3

/-- What an accepted edge of A (or of B) counts before `INV` (Table 10-2); `a` and `b` are the levels after it. -/
def edgeDelta (mode : Nat) (onB a b : Bool) : Int :=
  match mode with
  | 1 => if onB || b then 0 else if a then 1 else -1
  | 2 => if onB then 0 else if a != b then 1 else -1
  | 3 =>
    let old := if onB then gray a (!b) else gray (!a) b
    if (old + 1) % 4 = gray a b then 1 else -1
  | 4 => if onB || !a then 0 else if b then -1 else 1
  | 5 => if onB || !a then 0 else 1
  | _ => 0

/-- The least time between counted edges in ns (R262). -/
def countLimit (p : EncParams) : Nat := if p.src then 100 else 20

/-- An instant scheduled ahead for grid point `k` of output `o`, which no crossing has reached: an instant of an earlier
crossing is its own (R273). -/
def Sched1.ahead (x : Sched1) (o k : Nat) : Bool := x.out == o && x.k == k && !x.crossed && !x.old

/-- The instant `t` of grid point `k` of a generator at output `o`. -/
def instantOf (y : Gen) (o k t : Nat) (fwd : Bool) : Sched1 :=
  { out := o, k := k, t := t, fwd := fwd, seq := y.seq0 + BitVec.ofNat 32 k, pos := nominal y.par k, line := y.par.line }

/-- Crossed grid points of one output: fired ahead, committed, or to be fired late from the edge at instant `l`. -/
def crossOutput (s : State) (g : Fin 64) (o : Nat) (ks : List Nat) (now l : Nat) (late fwd : Bool) : State :=
  ks.foldl (fun s k =>
    let y := s.trig.gen[g]
    if y.ahead.contains (o, k) then s.modGen g fun y => { y with ahead := y.ahead.erase (o, k) }
    else if y.sched.any fun x => x.ahead o k && decide (x.t < now + insNs 20) then
      s.modGen g fun y => { y with sched := y.sched.map fun x => if x.ahead o k then { x with crossed := true } else x }
    else
      s.modGen g fun y =>
        { y with sched := (y.sched.filter fun x => !x.ahead o k) ++
                   [{ instantOf y o k l fwd with late := late, crossed := true, edge := true }] }) s

/-- An instant that stands whatever comes: a count has reached it, or it lies less than 20 ns after `now` (R277). -/
def stands (now : Nat) (x : Sched1) : Bool := x.crossed || x.old || decide (x.t < now + insNs 20)

/-- Uncommitted instants of a generator are discarded (R277, R278). -/
def cancelUncommitted (s : State) (g : Fin 64) (now : Nat) : State :=
  s.modGen g fun y => { y with sched := y.sched.filter (stands now) }

/-- The grid points within one count ahead of one output are scheduled (R277): `diff` is 2^`WIN` times the period. -/
def scheduleOutput (s : State) (g : Fin 64) (o : Nat) (ks : List Nat) (b new : Int) (now diff win : Nat) : State :=
  s.modGen g fun y =>
    let fresh := ks.filter fun k => !y.ahead.contains (o, k) && !y.sched.any fun x => x.ahead o k
    { y with sched := y.sched ++ fresh.map fun (k : Nat) =>
        instantOf y o k (now + (b + k * y.par.pitch - new).natAbs * diff * 2 ^ (4 - win)) (decide (0 < new)) }

/-- A generator at a count of its encoder from `old` to `new`, in positions relative to `old`; `now` is the edge. -/
def countGen (s : State) (g : Fin 64) (x : Encoder) (new : Int) (now : Nat) : State :=
  let y := s.trig.gen[g]
  let h := relPos x.pos.toInt y.high
  let p := y.par
  let predict := !p.edge && !edgeOnly x
  let l := now + insNs 11 + x.par.filt * 5 * 2 ^ 19
  let base (o : Nat) : Int := relPos x.pos.toInt (p.start.toInt + offsetOf s o)
  let s := (outputsOf p).foldl (fun s o => crossOutput s g o (crossed p (base o) 0 new h) now l predict (decide (0 < new))) s
  cancelUncommitted s g now

/-- The generator schedules ahead after the estimator has taken the edge. -/
def aheadGen (s : State) (g : Fin 64) (x : Encoder) (new : Int) (now diff : Nat) : State :=
  let y := s.trig.gen[g]
  let h := relPos x.pos.toInt y.high
  let p := y.par
  let base (o : Nat) : Int := relPos x.pos.toInt (p.start.toInt + offsetOf s o)
  if p.edge || edgeOnly x then s
  else (outputsOf p).foldl (fun s o => scheduleOutput s g o (upcoming p (base o) 0 new h) (base o) new now diff x.par.win) s

/-- An ARMED forward high-water generator is DONE once H is at or beyond the last grid point of its outputs (R274). -/
def genDone (s : State) (g : Fin 64) : State :=
  let y := s.trig.gen[g]
  let last := (nominal y.par (y.par.count - 1)).toInt + maxOffset s y.par
  if y.state = .armed ∧ !y.par.both ∧ y.par.count ≠ 0 ∧ relPos y.high last ≤ 0 then s.modGen g fun y => { y with state := .done } else s

/-- H after a forward count (R272). -/
def raiseHigh (s : State) (g : Fin 64) (x : Encoder) (new : Int) : State :=
  let y := s.trig.gen[g]
  if y.par.both || new ≤ 0 then s
  else genDone (s.modGen g fun y => { y with high := x.pos.toInt + max (relPos x.pos.toInt y.high) new }) g

/-- The armed generators of an encoder. -/
def armedOf (s : State) (e : Fin 8) : List (Fin 64) :=
  (List.finRange 64).filter fun g => s.trig.gen[g].state == .armed && s.trig.gen[g].par.enc == e.val

/-- A compare unit at a count (R288): met at the first crossing of its position in its direction. -/
def compareUnit (s : State) (e : Fin 8) (x : Encoder) (new : Int) (u : Fin 8) : State :=
  let c := s.trig.cmp[u]
  let y := relPos x.pos.toInt c.pos.toInt
  let fwd := decide (0 < y) && decide (y ≤ new)
  let bwd := decide (new ≤ y) && decide (y < 0)
  if c.armed && c.enc == e.val && ((fwd && c.dir != 1) || (bwd && c.dir != 0)) then
    let s := { s with trig.cmp := vset s.trig.cmp u { c with armed := false, met := true } }
    let s := if c.muster then musterRequest s 2 else s
    if c.msix then raiseEvent s 6 else s
  else s

/-- The estimator takes a counted edge (R269). -/
def takeStamp (x : Encoder) (t : Nat) (back : Bool) : List Nat :=
  let keep := match x.stamps.head? with
    | some n => if x.dir != back || decide (x.par.pmax * 64000 < t - n) then [] else x.stamps
    | none => []
  (t :: keep).take (2 ^ x.par.win + 1)

/-- The stamp of an edge that arrives at `t` (R265): its TDC resolves 62.5 ps, and the engine clock of an encoder without
one, 1.25 ns. The nearest TDC step and the engine cycle that holds the edge are the model's choice (log entry 102). -/
def stampOf (x : Encoder) (t : Nat) : Nat := if edgeOnly x then t / 80 * 80 else (t + 2) / 4 * 4

/-- A count of `d` by an edge at `t`: the position, the triggers it reaches, the instants ahead, the compare units. What it
reaches fires at its instant, in the order of instants (R278, R281, R287). -/
def countBy (s : State) (e : Fin 8) (d : Int) (t : Nat) : State :=
  let x := s.trig.enc[e]
  let new := 1024 * d
  let q := stampOf x t
  let s := s.modEnc e fun x =>
    { x with stamps := takeStamp x q (d < 0), dir := decide (d < 0), lastCnt := some t, pos := x.pos + BitVec.ofInt 64 new }
  let gs := armedOf s e
  let now := insOf q
  let s := gs.foldl (fun s g => countGen s g x new now) s
  let s := match estimate s.trig.enc[e] with
    | some diff => gs.foldl (fun s g => aheadGen s g x new now diff) s
    | none => s
  let s := gs.foldl (fun s g => raiseHigh s g x new) s
  (List.finRange 8).foldl (fun s u => compareUnit s e x new u) s

/-- Two counted edges closer than the limit (R262): counted as overspeed, and what the edge counts is a free value, -1, 0
or 1 (log entry 3). -/
def overspeed (s : State) (e : Fin 8) : State × Int :=
  let s := (encErr s e 30).modEnc e fun x => { x with overspeed := satAdd x.overspeed 1 }
  let (v, s) := s.drawNat
  (s, (v % 3 : Nat) - 1)

/-- The filter time of an encoder's inputs in 1/64 ns (R263). -/
def filterTime (x : Encoder) : Nat := 160 * x.par.filt

/-- A level shorter than the filter time: it is counted, and both of its edges are ignored (R263). -/
def glitchSeen (s : State) (e : Fin 8) : State := (encErr s e 29).modEnc e fun x => { x with glitch := satAdd x.glitch 1 }

/-- The estimator of an encoder is not usable: what its generators have not committed at `now` is discarded, and fires from
the edges that reach it (R278). -/
def fallBack (s : State) (e : Fin 8) (now : Nat) : State :=
  if (estimate s.trig.enc[e]).isSome then s else (armedOf s e).foldl (fun s g => cancelUncommitted s g now) s

/-- The GPIO pin that an encoder with `SRC` 1 takes A (0), B (1) or Z (2) from. -/
def encPin (x : Encoder) : Nat → Nat
  | 0 => x.par.gpA | 1 => x.par.gpB | _ => x.par.gpZ

/-- The input reaches the encoder: always from the differential pins; from a GPIO pin of function 0x3 outside its switch
interval (R435). -/
def encPinOpen (s : State) (e : Fin 8) (i : Nat) : Bool :=
  let p := vget ({} : Gpio) s.pins.gpio (encPin s.trig.enc[e] i)
  !s.trig.enc[e].par.src || (p.actFunc == 3 && !p.switching)

/-- An accepted edge of A (or B, `onB`) at `t`, in 1/64 ns (R261, R262). -/
def encoderEdge (s : State) (e : Fin 8) (onB : Bool) (t : Nat) : State :=
  let x := s.trig.enc[e]
  let other := if onB then x.lastA else x.lastB
  let s := s.modEnc e fun x => if onB then { x with b := !x.b, lastB := some t } else { x with a := !x.a, lastA := some t }
  if !trigRuns s || x.failed || x.par.mode = 0 then s
  else if x.par.mode ≤ 3 && (match other with | some l => decide (t < l + stampNs 20) | none => false) then
    fallBack ((encErr s e 31).modEnc e fun x => { x with illegal := satAdd x.illegal 1, stamps := [] }) e (insOf t)
  else
    let y := s.trig.enc[e]
    let d := edgeDelta x.par.mode onB y.a y.b
    let d := if x.par.inv then -d else d
    if d = 0 then s
    else
      let close := match x.lastCnt with | some l => decide (t < l + stampNs (countLimit x.par)) | none => false
      let r : State × Int := if close then overspeed s e else (s, d)
      if r.2 = 0 then r.1.modEnc e fun x => { x with lastCnt := some t } else countBy r.1 e r.2 t

/-- A transition of input A (or B) at `t`, after which it keeps its new level for `held`: a level shorter than the filter
time is a glitch, and the transition that ends on the accepted level again is ignored with it (R263). -/
def encoderInput (s : State) (e : Fin 8) (onB : Bool) (t held : Nat) : State :=
  let s := s.modEnc e fun x => if onB then { x with pinB := !x.pinB } else { x with pinA := !x.pinA }
  let x := s.trig.enc[e]
  if held < filterTime x then glitchSeen s e
  else if (if onB then x.pinB == x.b else x.pinA == x.a) then s
  else encoderEdge s e onB t

/-- `COUNT` (R260): a transition of phase A, or of B. A pin that is changing its function keeps it from an encoder that takes its
inputs from GPIO pins (R435). -/
def execCount (e : Fin 8) (b : Bool) (x : LevelEdge) (s : State) : Host.Outcome State Fault Refusal :=
  .next (if encPinOpen s e (if b then 1 else 0) then tickDue (encoderInput (fireBefore s x.t) e b x.t x.held) else s)

/-! ### Presets and the index (R264, R267, R275) -/

/-- What a generator keeps when it is armed again or its encoder is preset: the instants that satisfy `p` and the
suppressions they come under, as those of the run before. -/
def closeRun (y : Gen) (p : Sched1 → Bool) : Gen :=
  let kept := y.sched.filter p
  { y with sched := kept.map fun x => { x with old := true }, ahead := [],
           gone := (y.gone.filter fun z => kept.any fun x => z.sameAs x).map fun z => { z with old := true } }

/-- A preset: a jump to a position, which fires nothing. A trigger that a count has reached fires all the same, since within
one edge the count's triggers come before the preset (R264, R275). -/
def preset (s : State) (e : Fin 8) (v : BitVec 64) : State :=
  let s := (encErr s e 28).modEnc e fun x => { x with pos := v, stamps := [] }
  let s := { s with trig.gen := vmapI s.trig.gen fun _ g =>
      if g.par.enc = e.val then
        { closeRun g Sched1.edge with high := if g.par.both then g.high else v.toInt }
      else g }
  (armedOf s e).foldl genDone s

/-- An accepted rise of Z latches the position, and presets it under `ZMODE` 2 and 3. -/
def indexEdge (s : State) (e : Fin 8) : State :=
  let x := s.trig.enc[e]
  if !trigRuns s || x.failed || x.par.mode = 0 || 4 ≤ x.par.mode || x.par.zmode = 0 || x.a || x.b then s
  else
    let s := s.modEnc e fun x => { x with zpos := x.pos, zseen := true, indexed := true }
    if x.par.zmode = 3 || (x.par.zmode = 2 && !x.indexed) then preset s e x.par.preset else s

/-- A transition of input Z, after which it keeps its new level for `held`: a glitch where that is shorter than the filter
time, and ignored where it ends on the accepted level again (R263); an accepted rise is the index (R264). -/
def indexInput (s : State) (e : Fin 8) (held : Nat) : State :=
  let s := s.modEnc e fun x => { x with pinZ := !x.pinZ }
  let x := s.trig.enc[e]
  if held < filterTime x then glitchSeen s e
  else if x.pinZ == x.z then s
  else
    let s := s.modEnc e fun y => { y with z := x.pinZ }
    if x.pinZ then indexEdge s e else s

/-- `INDEX` (R264): a transition of input Z. -/
def execIndex (e : Fin 8) (x : LevelEdge) (s : State) : Host.Outcome State Fault Refusal :=
  .next (if encPinOpen s e 2 then tickDue (indexInput (fireBefore s x.t) e x.held) else s)

/-- `PMAX_EXPIRY` (R269): the estimator empties. -/
def execPmaxExpiry (e : Fin 8) (s : State) : Host.Outcome State Fault Refusal :=
  .next (s.modEnc e fun x => { x with stamps := [] })

/-- `INSTANT_FIRE` (R279): the instants of the earliest time scheduled fire. -/
def execInstantFire (s : State) : Host.Outcome State Fault Refusal :=
  .next (match (if trigRuns s then nextInstant s fun _ => true else none) with
    | none => s
    | some (_, x) => tickDue (fireAll s fun i => i.t == x.t))

/-- `PULSE_END` (R283): the pulse on an output ends; a pad in its switch interval holds its level (R435). -/
def execPulseEnd (o : Fin 256) (s : State) : Host.Outcome State Fault Refusal :=
  .next (if s.trig.out[o].active then
      let s := s.modTrigOut o fun x => { x with active := false }
      if h : o.val < 160 then s.emitPad (.pulseEnd o.val)
      else
        let n : Fin 96 := ⟨o.val - 160, Nat.sub_lt_left_of_lt_add (Nat.not_lt.mp h) o.isLt⟩
        if s.pins.gpio[n].actFunc == 2 && !s.pins.gpio[n].switching then
          (s.modGpio n fun p => { p with lvl := false }).emitPad (.pulseEnd o.val)
        else s
    else s)

/-! ### ENC_CONFIG (R260, R268, R290) -/

def encTarget (c : Cmd) : Fin 8 := Fin.ofNat 8 c.tindex.toNat

def encParams (c : Cmd) : EncParams :=
  { mode := par c 0 1, src := par c 1 1 == 1, gpA := par c 2 1, gpB := par c 3 1, gpZ := par c 4 1, inv := par c 5 1 == 1,
    filt := orDefault (par c 6 1) 2, zmode := par c 7 1, win := orDefault (par c 8 1) 2, pmax := orDefault (par c 12 4) 1000,
    preset := BitVec.ofNat 64 (par c 16 8) }

def encParamsOk (c : Cmd) : Bool :=
  let p := encParams c
  decide (p.mode ≤ 5) && decide (par c 1 1 ≤ 1) && decide (p.gpA ≤ 95) && decide (p.gpB ≤ 95) && decide (p.gpZ ≤ 95)
    && decide (par c 5 1 ≤ 1) && decide (p.filt ≤ 7) && decide (p.zmode ≤ 3) && decide (p.win ≤ 4) && decide (par c 9 1 ≤ 1)
    && decide (p.pmax ≤ 100000) && par c 16 8 % 1024 == 0

def encConfigSpec : CmdSpec where
  opcode := 0x0300
  states := stHPSR
  target := some (4, 8)
  size := sizeIs 32
  touches := fun c _ => [.enc c.tindex.toNat]
  params := fun c _ => paramChecks (resZero c 10 2 && resZero c 24 8) (encParamsOk c)

def genCode : GenState → Nat
  | .unconfigured => 0 | .idle => 1 | .armed => 2 | .done => 3

/-- A refusal with a generator as the resource. -/
def denyGen (st : Status) (s : State) (g : Fin 64) : Deny := denyRes st 5 (genCode s.trig.gen[g].state) g.val

/-- The command changes `MODE`, `SRC` or `INV`. -/
def encChanges (a b : EncParams) : Bool := a.mode != b.mode || a.src != b.src || a.inv != b.inv

def encConfigBody (c : Cmd) (s : State) : Except Deny State :=
  let e := encTarget c
  let x := s.trig.enc[e]
  let p := encParams c
  if x.failed then .error (denyRes .retired 4 1 e.val)
  else match (if encChanges x.par p then (armedOf s e).head? else none) with
  | some g => .error (denyGen .busy s g)
  | none =>
    let s := s.modEnc e fun x =>
      { x with par := p, zseen := false, indexed := false,
               stamps := if encChanges x.par p then [] else x.stamps.take (2 ^ p.win + 1) }
    let s := fallBack s e (insNs s.dev.yard)
    .ok (doneWith c (tickDue (if par c 9 1 = 1 then preset s e p.preset else s)) [])

/-- `ENC_CONFIG` (R260). -/
def execEncConfig (c : Cmd) (s : State) : Host.Outcome State Fault Refusal := .next (runCmd encConfigSpec encConfigBody c s)

/-! ### TRIG_GEN_CONFIG, TRIG_GEN_ARM, TRIG_GEN_STOP (R270, R274, R290) -/

def genTarget (c : Cmd) : Fin 64 := Fin.ofNat 64 c.tindex.toNat

def genParams (c : Cmd) : GenParams :=
  { enc := par c 0 1, both := par c 1 1 == 1, edge := par c 2 1 == 1, line := par c 3 1 == 1, count := par c 4 4,
    start := BitVec.ofNat 64 (par c 8 8), pitch := par c 16 8, trig := BitVec.ofNat 32 (par c 24 4),
    link := BitVec.ofNat 128 (par c 28 16), gpio := BitVec.ofNat 96 (par c 44 12) }

def genParamsOk (c : Cmd) (s : State) : Bool :=
  let p := genParams c
  decide (p.enc ≤ 7) && decide (par c 1 1 ≤ 1) && decide (par c 2 1 ≤ 1) && decide (par c 3 1 ≤ 1) && decide (64 ≤ p.pitch)
    && decide (p.pitch ≤ 2 ^ 47) && (!p.edge || p.pitch % 1024 == 0)
    && (maskLinks c 28).all fun n => !linkFailed s.cxp.links[n]

def trigGenConfigSpec : CmdSpec where
  opcode := 0x0301
  states := stHPSR
  target := some (5, 64)
  size := sizeIs 64
  touches := fun c s => [.gen c.tindex.toNat, .enc (par c 0 1)] ++ linkRes ((maskLinks c 28).flatMap fun n => groupLinks s (masterOf s n))
  params := fun c s => paramChecks (resZero c 56 8) (genParamsOk c s)

def trigGenConfigBody (c : Cmd) (s : State) : Except Deny State :=
  let g := genTarget c
  if s.trig.gen[g].state = .armed then .error (denyGen .stateRefused s g)
  else .ok (doneWith c (s.modGen g fun y =>
    { y with par := genParams c, state := if y.state = .unconfigured then .idle else y.state }) [])

/-- `TRIG_GEN_CONFIG` (R270). -/
def execTrigGenConfig (c : Cmd) (s : State) : Host.Outcome State Fault Refusal := .next (runCmd trigGenConfigSpec trigGenConfigBody c s)

/-- The generators of a mask in the parameter block. -/
def maskGens (c : Cmd) : List (Fin 64) := (List.finRange 64).filter fun g => (par c 0 8).testBit g.val

def trigGenArmSpec : CmdSpec where
  opcode := 0x0302
  states := stHPSR
  size := fun c => decide (8 ≤ c.params.length) && c.params.length == 8 + 4 * (maskGens c).length
  touches := fun c s => (maskGens c).flatMap fun g => [.gen g.val, .enc s.trig.gen[g].par.enc]

/-- A named generator cannot be armed (R290). -/
def armBlocked (s : State) (g : Fin 64) : Bool :=
  let y := s.trig.gen[g]
  y.state == .unconfigured || y.state == .armed || (vget ({} : Encoder) s.trig.enc y.par.enc).par.mode == 0

/-- A generator armed: H from its encoder's position. A committed instant that it still holds from the run before fires all
the same (R277). -/
def armGen (s : State) (g : Fin 64) (seq0 : Nat) : State :=
  genDone (s.modGen g fun y =>
    { closeRun y (stands (insNs s.dev.yard)) with
        state := .armed, seq0 := BitVec.ofNat 32 seq0, high := (vget ({} : Encoder) s.trig.enc y.par.enc).pos.toInt }) g

def trigGenArmBody (c : Cmd) (s : State) : Except Deny State :=
  match (maskGens c).find? (armBlocked s) with
  | some g => .error (denyGen .stateRefused s g)
  | none => .ok (doneWith c ((maskGens c).zipIdx.foldl (fun s x => armGen s x.1 (par c (8 + 4 * x.2) 4)) s) [])

/-- `TRIG_GEN_ARM` (R274). -/
def execTrigGenArm (c : Cmd) (s : State) : Host.Outcome State Fault Refusal := .next (runCmd trigGenArmSpec trigGenArmBody c s)

/-- A generator stops (R274): every instant not yet begun is discarded. -/
def stopGen (s : State) (g : Fin 64) : State :=
  s.modGen g fun y => if y.state = .armed then { y with state := .idle, sched := [], ahead := [], gone := [] } else y

def trigGenStopSpec : CmdSpec where
  opcode := 0x0303
  states := stHPSR
  size := sizeIs 8
  touches := fun c _ => (maskGens c).map fun g => .gen g.val

def trigGenStopBody (c : Cmd) (s : State) : Except Deny State := .ok (doneWith c ((maskGens c).foldl stopGen s) [])

/-- `TRIG_GEN_STOP` (R274). -/
def execTrigGenStop (c : Cmd) (s : State) : Host.Outcome State Fault Refusal := .next (runCmd trigGenStopSpec trigGenStopBody c s)

/-- SHUTTING_DOWN and STABLED (R289): every generator stops and the `TRIG` pins are driven inactive. -/
def stopTriggers (s : State) : State :=
  let s := (List.finRange 64).foldl stopGen s
  let s := { s with trig.gen := s.trig.gen.map fun (y : Gen) => { y with sched := [], ahead := [], gone := [] } }
  { s with trig.out := vmapI s.trig.out fun o x => if o < 32 then { x with active := false } else x }

/-! ### HEAD_OFFSETS (R282) -/

/-- An entry of the parameter block, and the fields it sets. -/
structure HeadEntry where
  out : Nat := 0
  pol : Nat := 0
  sets : Nat := 0
  spacing : Nat := 0
  width : Nat := 0
  offset : Int := 0

/-- Entry `i` of `HEAD_OFFSETS`; a spacing or width of 0, which Table 10-4's range leaves out, is its default (R354, log entry
78). -/
def headEntry (c : Cmd) (i : Nat) : HeadEntry :=
  let a := 8 + 24 * i
  { out := par c a 1, pol := par c (a + 1) 1, sets := par c (a + 2) 1, spacing := orDefault (par c (a + 4) 4) 200,
    width := orDefault (par c (a + 8) 4) 50, offset := sInt 64 (par c (a + 16) 8) }

def headEntries (c : Cmd) : List HeadEntry := (List.range (par c 0 2)).map (headEntry c)

/-- The settings of an output after an entry. -/
def headApply (x : TrigOut) (e : HeadEntry) : TrigOut :=
  { x with offset := if e.sets.testBit 0 then e.offset else x.offset, spacing := if e.sets.testBit 1 then e.spacing else x.spacing,
           width := if e.sets.testBit 2 then e.width else x.width, pol := if e.sets.testBit 3 then e.pol == 1 else x.pol }

/-- Table 10-4 and R282 for one entry. -/
def headOk (s : State) (e : HeadEntry) : Bool :=
  let link := decide (32 ≤ e.out) && decide (e.out < 160)
  let x := headApply (vget {} s.trig.out e.out) e
  (!e.sets.testBit 0 || (decide (-(2 ^ 47) ≤ e.offset) && decide (e.offset < 2 ^ 47) && (decide (e.out < 160) || e.offset == 0)))
    && (!e.sets.testBit 1 || (decide (1 ≤ e.spacing) && decide (e.spacing ≤ 1000000)))
    && (!e.sets.testBit 2 || (!link && decide (1 ≤ e.width) && decide (e.width ≤ 65500)))
    && (!e.sets.testBit 3 || (decide (e.out < 32) && decide (e.pol ≤ 1)))
    && (link || decide (20 * x.width + 10 ≤ 10 * x.spacing))

def headOffsetsSpec : CmdSpec where
  opcode := 0x0304
  states := stHPSR
  size := fun c => decide (1 ≤ par c 0 2) && decide (par c 0 2 ≤ 169) && c.params.length == 8 + 24 * par c 0 2
  touches := fun c s => linkRes ((headEntries c).flatMap fun e =>
    if h : e.out - 32 < 128 then if 32 ≤ e.out then groupLinks s (masterOf s ⟨e.out - 32, h⟩) else [] else [])
  params := fun c s => paramChecks
    (resZero c 2 6 && (List.range (par c 0 2)).all fun i =>
      decide (par c (8 + 24 * i + 2) 1 < 16) && resZero c (8 + 24 * i + 3) 1 && resZero c (8 + 24 * i + 12) 4)
    (decide ((headEntries c).map HeadEntry.out).Nodup && (headEntries c).all (headOk s))

/-- The lowest ARMED generator that selects an output whose offset an entry would change. -/
def headBusy (s : State) (e : HeadEntry) : Option (Fin 64) :=
  if e.sets.testBit 0 && (vget ({} : TrigOut) s.trig.out e.out).offset != e.offset then
    (List.finRange 64).find? fun g => s.trig.gen[g].state == .armed && (selected s.trig.gen[g].par).contains e.out
  else none

def headOffsetsBody (c : Cmd) (s : State) : Except Deny State :=
  match (headEntries c).findSome? (headBusy s) with
  | some g => .error (denyGen .busy s g)
  | none => .ok (doneWith c ((headEntries c).foldl (fun s e => { s with trig.out := vmodN s.trig.out e.out fun x => headApply x e }) s) [])

/-- `HEAD_OFFSETS` (R282). -/
def execHeadOffsets (c : Cmd) (s : State) : Host.Outcome State Fault Refusal := .next (runCmd headOffsetsSpec headOffsetsBody c s)

/-! ### POSITION_COMPARE (R288) -/

def positionCompareSpec : CmdSpec where
  opcode := 0x0305
  states := stHPSR
  size := sizeIs 16
  touches := fun c _ => [.enc (par c 2 1)]
  params := fun c _ => paramChecks (decide (par c 4 1 < 4) && resZero c 5 3)
    (decide (par c 0 1 ≤ 7) && decide (par c 1 1 ≤ 1) && decide (par c 2 1 ≤ 7) && decide (par c 3 1 ≤ 2))

def positionCompareBody (c : Cmd) (s : State) : Except Deny State :=
  let f (u : Compare) : Compare :=
    if par c 1 1 = 0 then { u with armed := false }
    else { u with armed := true, enc := par c 2 1, dir := par c 3 1, muster := (par c 4 1).testBit 0, msix := (par c 4 1).testBit 1,
                  pos := BitVec.ofNat 64 (par c 8 8) }
  .ok (doneWith c { s with trig.cmp := vmodN s.trig.cmp (par c 0 1) f } [])

/-- `POSITION_COMPARE` (R288). -/
def execPositionCompare (c : Cmd) (s : State) : Host.Outcome State Fault Refusal :=
  .next (runCmd positionCompareSpec positionCompareBody c s)

end Sys2Proof.Machine
end

