-- ==== Sys2Proof/Machine/Power.lean ====
section
/-! DEFINITION. Machine/Power.lean: device states and their changes (R392 to R394, R399 to R405): reset, rails, DOZE,
STABLED and wake, shutdown, DEVICE_FAULT, thermal trip, temperature sensors and rail monitors. -/

namespace Sys2Proof.Machine

open Sys2Proof

/-! ### Reset (R393, R467) -/

/-- Everything as after a power-on reset, apart from the fuses, the studbook, the flash devices and the levels at pins;
the model's own counters and record go on. The studbook's counter of signed commands goes on with it, while `HUB_LC` reads 0
again (R8, R452, log entry 100). -/
def coldState (s : State) : State :=
  { fuse := s.fuse, book := s.book, bookWas := s.bookWas, cfg := { flash := s.cfg.flash }, out := s.out, free := s.free, pending := s.pending,
    cmdp := { nextId := s.cmdp.nextId }, dev := { rstL := s.dev.rstL, recoveryL := s.dev.recoveryL },
    pins := { gpio := s.pins.gpio.map fun g => { pad := g.pad } },
    hosts := { port := s.hosts.port.map fun h => { perst := h.perst } } }

/-- STARTING begins: `RECOVERY_L` is sampled, and the start is counted from now. -/
def beginStart (s : State) (wake : Nat) (recoveryLow : Bool) : State :=
  { s with dev := { s.dev with state := .starting, startStep := 1, stuck := false, heldInReset := false, startAt := s.dev.yard,
                               wake := BitVec.ofNat 2 wake, recPin := recoveryLow, recoveryL := !recoveryLow } }

/-- Bank 0 pins set to wake input keep their settings (R404, R436). -/
def keepWakePin (old : Vector Gpio 96) (n : Nat) (g : Gpio) : Gpio :=
  let o := vget ({} : Gpio) old n
  if n < 16 ∧ o.func = 0xB then { o with pend := [], resync := false } else g

/-- Memory contents survive STABLED only if the board kept the components powered, which is a free value (R309). -/
def keptMemory (s t : State) : State :=
  let t := { t with free := s.free + 1 }
  if Config.freeBit s.free then
    { t with ddr.bytes := s.ddr.bytes, ddr.bad := s.ddr.bad,
             ddr.chan := vmapI t.ddr.chan fun c h => { h with kept := true, fill := (vget ({} : Channel) s.ddr.chan c).fill } }
  else t

/-- What a wake from STABLED keeps beside what a reset keeps: yard time, the wake settings, the bank 0 wake inputs, the
sideband's values and an asserted `WAKE_x_L`. -/
def wokenState (s : State) : State :=
  let t := keptMemory s (coldState s)
  { t with dev := { t.dev with yard := s.dev.yard, wakeMask := s.dev.wakeMask, wakeSig := s.dev.wakeSig, wakeSb := s.dev.wakeSb },
           pps := { acc := s.pps.acc },
           pins := { t.pins with gpio := vmapI t.pins.gpio (keepWakePin s.pins.gpio), health := s.pins.health,
                                 temps := s.pins.temps, pec := s.pins.pec },
           hosts := { t.hosts with port := vmapI t.hosts.port fun p h =>
                        { h with wakeOut := (vget ({} : Port) s.hosts.port p).wakeOut } } }

/-- A wake event in STABLED (R404): the cause, `WAKE_x_L`, `STBY_L`, and the wait for the rails. -/
def wakeEvent (s : State) (cause : Nat) (recoveryLow : Bool) : State :=
  if s.dev.waking.isSome then s
  else
    { s with dev := { s.dev with wake := BitVec.ofNat 2 cause, recPin := recoveryLow, recoveryL := !recoveryLow,
                                 stbyL := true, waking := some s.dev.yard },
             hosts.port := vmapI s.hosts.port fun p h => { h with wakeOut := h.wakeOut || s.dev.wakeSig.getLsbD p } }

/-- `RST_L` falls for 1 µs, or rises; `recoveryLow` is the level of `RECOVERY_L` sampled at the rise. In STABLED a rise
is a wake event, also where another wake already waits for the rails: it samples the pin, and the cause is its own (R393,
R404). A device held in reset by a thermal trip, or without rails, stays so. -/
def execRstL (level recoveryLow : Bool) (s : State) : Host.Outcome State Fault Refusal :=
  .next (if s.dev.rstL == level then s
  else
    let s := { s with dev.rstL := level }
    if s.dev.state = .off ∨ !s.dev.thermtripL then s
    else if level then
      if s.dev.state = .stabled then wakeEvent { s with dev.waking := none } 3 recoveryLow
      else beginStart s 3 recoveryLow
    else if s.dev.state = .stabled then
      let t := coldState s
      { t with dev := { t.dev with state := .stabled, stbyL := s.dev.stbyL, waking := s.dev.waking } }
    else
      let t := coldState s
      { t with dev := { t.dev with heldInReset := true } })

/-- A rail that may be removed while `STBY_L` is low (R403). -/
def mayRemove : RailId → Bool
  | .aux | .nv => false
  | .io b => b != 0
  | _ => true

/-- `RAIL_LOST` (R467): the device is OFF, and a studbook write under way may be interrupted (R409). -/
def execRailLost (r : RailId) (s : State) : Host.Outcome State Fault Refusal :=
  .next (if s.dev.state = .off ∨ (!s.dev.stbyL ∧ mayRemove r) then s
  else
    let t := coldState (cutWrites s)
    { t with dev := { t.dev with state := .off, heldInReset := true } })

/-- `POWER_UP` (R468): every rail in tolerance and `RST_L` released. -/
def execPowerUp (recoveryLow : Bool) (s : State) : Host.Outcome State Fault Refusal :=
  .next (if s.dev.state = .off then beginStart { s with dev.rstL := true } 0 recoveryLow else s)

/-- A shutdown record that no start has consumed yet is consumed: the power-up after a trip is a cold start (R475). -/
def spoilShut (s : State) : State :=
  if s.book.shut.any fun r => !r.consumed then
    bookWrite { s with book.shut := s.book.shut.map fun r => sealRecord { r with consumed := true } } .shutdown
  else s

/-- `THERMAL_TRIP` (R475): the trip and its sensor in the fault log, a write under way perhaps interrupted; everything stops
until power is removed. -/
def execThermalTrip (n : Fin 36) (s : State) : Host.Outcome State Fault Refusal :=
  .next (if s.dev.state = .off ∨ s.dev.state = .stabled ∨ !s.dev.thermtripL then s
  else
    let t := coldState (logFault (spoilShut (cutWrites s)) (.trip s.dev.yard n.val))
    { t with dev := { t.dev with heldInReset := true, thermtripL := false } })

/-! ### Wake (R404) -/

/-- A bank 0 pin is a wake input that `WAKE_CONFIG` enables; no switch interval holds its edges back (R435). -/
def wakeInput (s : State) (n : Nat) : Bool :=
  let p := vget ({} : Gpio) s.pins.gpio n
  s.dev.wakeMask.getLsbD n && p.actFunc == 0xB && !p.switching

/-- `WAKE_EVENT` in STABLED: an enabled wake input held low for 10 µs, a sideband SHUTDOWN that may wake, a rise of
`RST_L`. -/
def execWakeEvent (w : WakeKind) (recoveryLow : Bool) (s : State) : Host.Outcome State Fault Refusal :=
  .next (if s.dev.state ≠ .stabled then s
  else match w with
  | .pin n =>
    if wakeInput s n.val then wakeEvent s 1 recoveryLow else s
  | .sideband => if s.dev.wakeSb then wakeEvent s 2 recoveryLow else s
  | .rstRise => if s.dev.rstL then s else wakeEvent { s with dev.rstL := true, dev.waking := none } 3 recoveryLow)

/-- `WAKE_RAILS_GOOD`: STARTING begins as from a power-on reset. -/
def execWakeRailsGood (s : State) : Host.Outcome State Fault Refusal :=
  .next (if s.dev.state = .stabled ∧ s.dev.waking.isSome ∧ s.dev.rstL then
    beginStart (wokenState s) s.dev.wake.toNat s.dev.recPin
  else s)

/-- `WAKE_RAIL_TIMEOUT`: 1 s without the rails. -/
def execWakeRailTimeout (s : State) : Host.Outcome State Fault Refusal :=
  .next (match s.dev.waking with
  | some t =>
    if s.dev.state = .stabled ∧ t + 1000000000 ≤ s.dev.yard then
      logFault { s with dev := { s.dev with stbyL := false, waking := none } } (.failedWake s.dev.yard)
    else s
  | none => s)

/-! ### Leaving a running state -/

/-- The `SET_STATE` to DOZE that still waits for the floor ends. -/
def dozeEnd (s : State) : State :=
  match s.dev.dozeEntry with
  | some id => finishJob { s with dev.dozeEntry := none } id .aborted 0 []
  | none => s

/-- A `SET_STATE` that waits in DOZE ends with the state. -/
def dozeCancel (s : State) : State :=
  let s := dozeEnd s
  match s.dev.dozeExit with
  | some l => l.foldl (fun s id => finishJob s id .aborted 0 []) { s with dev.dozeExit := none }
  | none => s

/-- Every long-running command but `keep` ends ABORTED, a pour too (R351). -/
def abortAll (s : State) (keep : Nat) : State := abortJobs (abortPour (dozeCancel s)) fun j => j.id != keep

/-- Channels to self-refresh (R309). -/
def selfRefresh (h : Channel) : Channel :=
  if h.state = .active ∨ h.state = .recal then
    { h with state := .selfRefresh, powerDown := false, training := none, cntSref := h.cntSref + 1 }
  else h

/-- A general-purpose pin in STABLED (R436): a bank 0 wake input stays live; every other pin is high-impedance. Banks 1 to 5 are
unpowered (R429). -/
def stablePin (n : Nat) (g : Gpio) : Gpio := if n < 16 ∧ g.actFunc = 0xB then g else { g with drv := false }

/-- Entry to STABLED (R394, R403). The governor does not run there, so no transaction of its rails goes on (R134). -/
def enterStabled (s : State) : State :=
  let s := stopTriggers (allLinksOff (allEmpty (enterState (abortAll s 0) .stabled)))
  { s with gov.die := s.gov.die.map fun g => { g with avs := [], tries := 0 },
           ddr.chan := s.ddr.chan.map selfRefresh, pins.gpio := vmapI s.pins.gpio stablePin, dev.stbyL := false,
           pins.banks := vmapI s.pins.banks fun b v => if b = 0 then v else 0,
           hosts.port := s.hosts.port.map fun h => { h with linkUp := false, ready := false } }

/-- Entry to SHUTTING_DOWN (R361, R405), the command's job being `id`. -/
def enterShutdown (s : State) (id : Nat) : State := allLinksOff (stopTriggers (enterState (abortAll s id) .shuttingDown))

/-! ### SET_STATE (R358, R402) -/

def setStateSpec : CmdSpec where
  opcode := 0x0003
  states := stHSDR
  size := sizeIs 4
  params := fun c _ => paramChecks (resZero c 1 3) (devOfCode (par c 0 1)).isSome

/-- SERVICE to DOZE. -/
def toDoze (s : State) : State :=
  let s := dozeStreams (changeState s .doze)
  setRails { s with cast := s.cast.map fun h => { h with dozeStopped := true } } (floorEff s) 7

/-- The return to SERVICE begins: both rails to `CEILING`, and read back. A `SET_STATE` to DOZE whose floor write lowering
holds back still (R132) is overtaken: it ends ABORTED, the model's choice (log entry 65). -/
def leaveDoze (s : State) (jobs : List Nat) : State :=
  let s := if floorEff s 0 < s.gov.die[(0 : Fin 2)].vset ∨ floorEff s 1 < s.gov.die[(1 : Fin 2)].vset then dozeEnd s else s
  let s := setRails { s with dev.dozeExit := some jobs } (fun _ => s.gov.params.ceiling) 7
  avsPush (avsPush s 0 .readV) 1 .readV

/-- A job for a `SET_STATE` that waits: not long-running, and no reply yet. -/
def waitJobOf (c : Cmd) (s : State) : Job :=
  { id := s.cmdp.nextId, src := c.src, opcode := c.opcode, tag := c.tag, reply := c.reply, fence := c.fence,
    epoch := epochOf s c.src, kind := .setState }

/-- SERVICE to DOZE: the reply comes once the floor has been written. -/
def dozeReply (c : Cmd) (s : State) : State :=
  if floorWritten s 0 && floorWritten s 1 then doneWith c s []
  else { s with cmdp.jobs := s.cmdp.jobs ++ [waitJobOf c s], cmdp.nextId := s.cmdp.nextId + 1, dev.dozeEntry := some s.cmdp.nextId }

def setStateBody (c : Cmd) (s : State) : Except Deny State :=
  match s.dev.state, devOfCode (par c 0 1) with
  | .service, some .doze => .ok (dozeReply c (toDoze s))
  | .doze, some .service =>
    let j := waitJobOf c s
    let s := { s with cmdp.jobs := s.cmdp.jobs ++ [j], cmdp.nextId := s.cmdp.nextId + 1 }
    .ok (match s.dev.dozeExit with
      | none => leaveDoze s [j.id]
      | some l => { s with dev.dozeExit := some (l ++ [j.id]) })
  | .halter, some .stabled | .service, some .stabled | .doze, some .stabled | .recovery, some .stabled =>
    .ok (enterStabled (doneWith c s []))
  | _, _ => .error (denyDev .stateRefused s)

/-- `SET_STATE`. -/
def execSetState (c : Cmd) (s : State) : Host.Outcome State Fault Refusal := .next (runCmd setStateSpec setStateBody c s)

/-- `DOZE_WAKE`: an enabled bank 0 wake input held low for 10 µs in DOZE. -/
def execDozeWake (n : Fin 16) (s : State) : Host.Outcome State Fault Refusal :=
  .next (if s.dev.state = .doze && wakeInput s n.val then
    let s := raiseEvent s 11
    if s.dev.dozeExit.isSome then s else leaveDoze s []
  else s)

/-- Both fabric rails read back at `CEILING`. -/
def atCeiling (s : State) : Bool := s.gov.die.toList.all fun g => g.vread == s.gov.params.ceiling

/-- `DOZE_EXIT_COMPLETE`: SERVICE; the casters and the streams resume, and each `SET_STATE` that waits is DONE. -/
def execDozeExitComplete (s : State) : Host.Outcome State Fault Refusal :=
  .next (match s.dev.dozeExit with
  | some jobs =>
    if s.dev.state = .doze ∧ atCeiling s then
      let s := changeState { s with dev.dozeExit := none, cast := s.cast.map fun h => { h with dozeStopped := false } } .service
      jobs.foldl (fun s id => finishJob s id .done 0 []) (resumeStreams s)
    else s
  | none => s)

/-! ### SHUTDOWN (R361, R405, R408) -/

def shutdownSpec : CmdSpec where
  opcode := 0x0901
  states := stHPSDR
  size := sizeIs 4
  isLong := fun _ _ => true
  params := fun c _ => paramChecks (resZero c 1 3 && decide (par c 0 1 < 2)) true

def shutdownBody (c : Cmd) (s : State) : Except Deny State :=
  .ok (enterShutdown (startJob c s (.shutdown (par c 0 1 == 1)) []) s.cmdp.nextId)

/-- `SHUTDOWN`. -/
def execShutdown (c : Cmd) (s : State) : Host.Outcome State Fault Refusal := .next (runCmd shutdownSpec shutdownBody c s)

/-- The shutdown record written, with its checks (Table 15-7); dropped while the studbook is read-only (R411). -/
def writeShutRecord (s : State) (bist : Bool) (failed newret : Nat) : State :=
  if s.dev.sbRo then s
  else
    let gen := (s.book.shut.map fun r => r.gen + 1).getD 0
    let passed := if bist then 511 ^^^ failed else 0
    let r : ShutRecord := { gen := gen, fwver := s.fuse.fwver, lcs := s.fuse.lcs, bistRun := bist, time := s.dev.yard,
                            passed := BitVec.ofNat 32 passed, failed := BitVec.ofNat 32 failed, newret := newret,
                            calHash := calHash s }
    bookWrite { s with book.shut := some (sealRecord r) } .shutdown

/-- The job of the SHUTDOWN in progress, and whether it skips the BIST. -/
def shutJob (s : State) : Option (Job × Bool) :=
  s.cmdp.jobs.findSome? fun j => match j.kind with
    | .shutdown skip => some (j, skip)
    | _ => none

/-- `SHUTDOWN_COMPLETE`: the shutdown set has run, `failed` and `blocks` being what it found; the record is written, the
command completes, and the device enters STABLED. -/
def execShutdownComplete (failed : BitVec 32) (blocks : List Block) (s : State) : Host.Outcome State Fault Refusal :=
  .next (match shutJob s with
  | some (j, skip) =>
    if s.dev.state ≠ .shuttingDown then s
    else
      let bad := if skip then [] else failingBlocks (List.range 9) (failed.toNat &&& 511) blocks
      let f := if skip then 0 else failedTests (List.range 9) (failed.toNat &&& 511) blocks
      let s := excludeBad s bad
      let s := if skip then s else bookCal (bookVerdict s (511 ^^^ f) f)
      let s := writeShutRecord s (!skip) f bad.length
      enterStabled (finishJob { s with dev.alert := true } j.id .done (if bad.isEmpty then 0 else 1) [])
  | none => s)

/-! ### DEVICE_FAULT (R355, R400) -/

/-- The fault recorded: fault log, `HUB_FAULT`, `SMB_ALERT_L`. -/
def noteFault (s : State) (code : BitVec 16) : State :=
  let s := logFault s (.deviceFault s.dev.yard code.toNat)
  { s with dev.faultCnt := satAdd s.dev.faultCnt 1, dev.faultCode := code, dev.alert := true }

/-- What the device then does in its state. `bad`: blocks that failed a test of the shutdown set already finished. -/
def deviceFault (s : State) (code : BitVec 16) (bad : List RetEntry) : State :=
  match s.dev.state with
  | .halter | .pouring | .service | .doze =>
    let dozed := s.dev.state == .doze
    let s := dozeCancel (abortPour (noteFault s code))
    let s := enterRecovery { s with cast := s.cast.map fun h => { h with dozeStopped := false } } 3
    if dozed then resumeStreams s else s
  | .shuttingDown =>
    let s := excludeBad (raiseEvent (noteFault s code) 11) bad
    enterStabled (match shutJob s with
      | some (j, _) => finishJob s j.id .deviceFault 0 []
      | none => s)
  | .recovery => enterRecovery (abortAll (noteFault s code) 0) 3
  | _ => s

/-- `DEVICE_FAULT`. -/
def execDeviceFault (code : BitVec 16) (failed : BitVec 32) (blocks : List Block) (s : State) : Host.Outcome State Fault Refusal :=
  .next (deviceFault s code (failingBlocks (List.range 9) failed.toNat blocks))

/-! ### Sensors and rail monitors (R130, R286, R458, R464) -/

/-- The die of a sensor. -/
def sensorDie (n : Nat) : Option (Fin 2) := if n < 16 then some 0 else if n < 32 then some 1 else none

/-- `THERM`, and with its setting the governor error event and the sideband's alert. -/
def thermWarn (s : State) (d : Fin 2) (temp : Int) : State :=
  if temp < 16 * (s.gov.params.twarn : Int) ∨ s.gov.die[d].therm then s
  else raiseEvent { s.modGov d fun g => { g with therm := true } with dev.alert := true } 3

/-- The trigger wires of a die are measured again when its temperature has moved by more than 10 °C; the compensation
moves by at most one step, which is free. -/
def wireTrim (s : State) (d : Fin 2) : State :=
  let t := hottest s d
  if (t - s.pins.trimAt[d]).natAbs ≤ 160 then s
  else
    let (v, s) := s.drawNat
    let old := fld s.trig.wire (16 * d.val) 16
    { s with pins.trimAt := vset s.pins.trimAt d t,
             trig.wire := setFld s.trig.wire (16 * d.val) 16 (min 65535 (old + v % 3 - 1)) }

/-- `SENSOR_SAMPLE`: every 10 µs for each sensor; one that BIST marked failed stays invalid. -/
def execSensorSample (n : Fin 36) (temp : Int) (s : State) : Host.Outcome State Fault Refusal :=
  .next (if s.dev.state = .off ∨ s.dev.state = .stabled ∨ s.dev.heldInReset ∨ s.pins.sensors[n].failed then s
  else
    let s := { s with pins.sensors := vmod s.pins.sensors n fun x => { x with temp := temp, valid := true } }
    match sensorDie n.val with
    | some d => if served s then wireTrim (thermWarn s d temp) d else s
    | none => s)

/-- The nominal voltage of a monitored rail in mV, and its total tolerance in thousandths (Table 19-2). -/
def railLimits : Nat → Nat × Nat
  | 0 | 1 => (750, 30)
  | 2 => (900, 20)
  | 3 => (1200, 20)
  | 4 => (1100, 30)
  | _ => (1800, 30)

/-- A reading outside the rail's total tolerance. -/
def railOut (r mv : Nat) : Bool :=
  let (n, t) := railLimits r
  decide (mv * 1000 < n * (1000 - t)) || decide (n * (1000 + t) < mv * 1000)

/-- `RAIL_MONITOR_REFRESH`: a monitored rail reads `mv`; it has left its total tolerance when the reading lies outside it, or
when it did so since the last refresh, `oot` (R464, R467). A monitor that failed its test reads 0 and never sets `OOT`; nor
does a rail that may be removed (rails 0 to 4, R403) while `STBY_L` is low. -/
def execRailMonitorRefresh (r : Fin 7) (mv : Nat) (oot : Bool) (s : State) : Host.Outcome State Fault Refusal :=
  .next (if s.dev.state = .off ∨ s.dev.heldInReset then s
  else { s with pins.rails := vmod s.pins.rails r fun x =>
           if x.fail then { x with mv := 0 }
           else { x with mv := BitVec.ofNat 16 mv,
                         oot := x.oot || ((s.dev.stbyL || decide (5 ≤ r.val)) && (oot || railOut r.val mv)) } })

/-! ### WAKE_CONFIG (R357, Table 13-16) -/

/-- Every pin of the mask has the wake input function. -/
def wakePinsOk (c : Cmd) (s : State) : Bool :=
  (bitsOf 16 (par c 0 2)).all fun n => (vget ({} : Gpio) s.pins.gpio n).func == 0xB

def wakeConfigSpec : CmdSpec where
  opcode := 0x0902
  states := stHSDR
  size := sizeIs 8
  params := fun c s => paramChecks (decide (par c 2 1 < 4) && decide (par c 3 1 < 2) && resZero c 4 4) (wakePinsOk c s)

def wakeConfigBody (c : Cmd) (s : State) : Except Deny State :=
  .ok (doneWith c { s with dev.wakeMask := BitVec.ofNat 16 (par c 0 2), dev.wakeSig := BitVec.ofNat 2 (par c 2 1),
                           dev.wakeSb := par c 3 1 == 1 } [])

/-- `WAKE_CONFIG`. -/
def execWakeConfig (c : Cmd) (s : State) : Host.Outcome State Fault Refusal := .next (runCmd wakeConfigSpec wakeConfigBody c s)

end Sys2Proof.Machine
end

