-- ==== Sys2Proof/Machine/DevCmds.lean ====
section
/-! DEFINITION. Machine/DevCmds.lean: the device commands GET_STATE, GET_HEALTH, ECHO and SEM_BIND (Table 13-7, R325), and
the SMBus sideband (R338, R339). -/

namespace Sys2Proof.Machine

open Sys2Proof

/-! ### GET_STATE and ECHO -/

/-- The 48 bytes of `GET_STATE`: a paddock's state code in four bits. -/
def stateBytes (s : State) : List Byte :=
  leBytes 1 (devCode s.dev.state) ++ leBytes 1 (lcCode s.fuse.lcs) ++ leBytes 2 0 ++ leBytes 8 s.dev.yard ++
    ((List.range 32).map fun i =>
      BitVec.ofNat 8 (pdkCode (pdkAt s (2 * i)).state + 16 * pdkCode (pdkAt s (2 * i + 1)).state)) ++ leBytes 4 0

def getStateSpec : CmdSpec where
  opcode := 0x0002
  states := stAll
  size := sizeIs 0
  buffer := true

def getStateBody (c : Cmd) (s : State) : Except Deny State := doneOut c s (stateBytes s)

/-- `GET_STATE`. -/
def execGetState (c : Cmd) (s : State) : Host.Outcome State Fault Refusal := .next (runCmd getStateSpec getStateBody c s)

def echoSpec : CmdSpec where
  opcode := 0x0005
  states := stAll
  size := fun c => decide (c.params.length ≤ 4064)

def echoBody (c : Cmd) (s : State) : Except Deny State := .ok (doneWith c s c.params)

/-- `ECHO`. -/
def execEcho (c : Cmd) (s : State) : Host.Outcome State Fault Refusal := .next (runCmd echoSpec echoBody c s)

/-! ### Health (Table 12-8) -/

/-- A caster retired persistently or excluded, and a channel likewise (Table 18-6). -/
def casterDropped (s : State) (n : Nat) : Bool :=
  let h := vget ({} : Caster) s.cast n
  h.mode == .excluded || h.persist

def chanGone (h : Channel) : Bool := h.state == .excluded || h.persist

/-- Retired blocks. -/
def retiredCount (s : State) : Nat :=
  ((List.range 256).filter (casterDropped s)).length + s.cxp.links.toList.countP (fun l => l.state == .failed)
    + s.ddr.chan.toList.countP chanGone + s.trig.enc.toList.countP (fun e => e.failed) + s.trig.enc.toList.countP (fun e => e.tdcf)
    + (s.trig.out.toList.take 32).countP (fun o => o.dlf) + s.pins.sensors.toList.countP (fun x => x.failed)
    + s.pins.rails.toList.countP (fun x => x.fail)

/-- Byte 0 of HEALTH. -/
def healthFlags (s : State) : Nat :=
  let g := s.gov.die.toList
  b2n (g.any fun d => d.sat) + 2 * b2n (g.any fun d => d.therm) + 4 * b2n (unsafeOn s 0 || unsafeOn s 1)
    + 8 * b2n (s.ddr.chan.toList.any fun h => h.err.getLsbD 31) + 16 * b2n (s.cxp.links.toList.any fun l => l.state == .lost)
    + 32 * b2n (decide (0 < retiredCount s)) + 64 * b2n (s.cast.toList.any fun h => h.mode == .halted)
    + 128 * b2n (g.any fun d => d.avsFault)

/-- Bytes 0 to 6 of HEALTH. -/
def healthBytes (s : State) : List Byte :=
  leBytes 1 (healthFlags s) ++ leBytes 1 (min 255 (retiredCount s)) ++ s.gov.die.toList.flatMap (fun d => leBytes 1 ((d.vset - 600) / 5))
    ++ leBytes 2 s.pins.pec.toNat ++ leBytes 1 0

/-- The temperatures of the valid sensors among `n` from number `lo`. -/
def validTemps (s : State) (lo n : Nat) : List Int :=
  (((s.pins.sensors.toList.drop lo).take n).filter fun x => x.valid && !x.failed).map fun x => x.temp

/-- An extreme of some temperatures as 16 bits; where no sensor is valid, a free value. -/
def tempWord (s : State) (l : List Int) (f : Int → Int → Int) : List Byte × State :=
  match l with
  | [] => let (v, s) := s.drawNat; (leBytes 2 v, s)
  | x :: r => (leBytes 2 (uNat 16 (r.foldl f x)), s)

/-- Bytes 0 to 9 of TEMPS. -/
def tempBytes (s : State) : List Byte × State :=
  let (a, s) := tempWord s (validTemps s 0 16) max
  let (b, s) := tempWord s (validTemps s 0 16) min
  let (c, s) := tempWord s (validTemps s 16 16) max
  let (d, s) := tempWord s (validTemps s 16 16) min
  let (e, s) := tempWord s (validTemps s 32 4) max
  (a ++ b ++ c ++ d ++ e, s)

/-- The 76 bytes of `GET_HEALTH`. Bit 0 of byte 75, which Table 13-7 reserves, reports a read-only studbook: R411 has
`GET_HEALTH` report it and says not where (log entry 91). -/
def getHealthBytes (s : State) : List Byte × State :=
  let (t, s) := tempBytes s
  (healthBytes s ++ [0] ++ t ++ leBytes 2 0
    ++ leBytes 32 (maskOf ((List.range 256).filter fun n =>
        let m := (vget ({} : Caster) s.cast n).mode
        m != .retired && m != .excluded && m != .halted))
    ++ leBytes 1 (maskOf ((List.range 8).filter fun n => (vget ({} : Channel) s.ddr.chan n).state == .active))
    ++ leBytes 16 (maskOf ((List.range 128).filter fun n => (vget ({} : Link) s.cxp.links n).state == .failed))
    ++ leBytes 1 (maskOf ((List.range 8).filter fun n => (vget ({} : Encoder) s.trig.enc n).failed))
    ++ leBytes 1 (maskOf ((List.range 8).filter fun n => (vget ({} : Encoder) s.trig.enc n).tdcf))
    ++ leBytes 4 (maskOf ((List.range 32).filter fun n => (vget ({} : TrigOut) s.trig.out n).dlf)) ++ leBytes 1 (b2n s.dev.sbRo), s)

def getHealthSpec : CmdSpec where
  opcode := 0x0004
  states := stAll
  size := sizeIs 0
  buffer := true

def getHealthBody (c : Cmd) (s : State) : Except Deny State :=
  let (l, s) := getHealthBytes s
  doneOut c s l

/-- `GET_HEALTH`. -/
def execGetHealth (c : Cmd) (s : State) : Host.Outcome State Fault Refusal := .next (runCmd getHealthSpec getHealthBody c s)

/-! ### SEM_BIND (R325) -/

/-- The number of resources of a class, by its code (Table 13-5). -/
def bindCount : Nat → Nat
  | 1 => 64 | 3 => 128 | 4 => 8 | 5 => 64 | 6 => 1048576 | _ => 0

/-- The resources that the parameter block names. -/
def bindNames (c : Cmd) : List Res :=
  let lo := par c 4 4
  let hi := par c 8 4
  if hi < lo ∨ bindCount (par c 2 1) ≤ hi then []
  else
    let l := (List.range (hi + 1 - lo)).map (lo + ·)
    match par c 2 1 with
    | 1 => l.map .pdk
    | 3 => l.map .link
    | 4 => l.map .enc
    | 5 => l.map .gen
    | _ => [.flows lo hi]

/-- The semaphores to hold: the target of a bind, then the present one of each resource named. -/
def bindTouches (c : Cmd) : List Res :=
  (if par c 0 1 = 0 ∧ par c 1 1 < 64 then [.sem (par c 1 1)] else []) ++
    (if par c 2 1 = 6 then
      (if par c 8 4 < par c 4 4 ∨ 1048576 ≤ par c 8 4 then [] else [.flows (par c 4 4) (par c 8 4)])
    else bindNames c)

def semBindSpec : CmdSpec where
  opcode := 0x0010
  states := stHPSDR
  size := sizeIs 16
  touches := fun c _ => bindTouches c
  params := fun c _ => paramChecks (resZero c 3 1 && resZero c 12 4)
    (decide (par c 0 1 ≤ 1) && (par c 0 1 == 1 || decide (par c 1 1 < 64)) && decide (par c 4 4 ≤ par c 8 4)
      && decide (par c 8 4 < bindCount (par c 2 1)))

/-- The bindings of one class with a run of them changed. -/
def bindRun {n : Nat} (v : Vector (Option Nat) n) (lo hi : Nat) (x : Option Nat) : Vector (Option Nat) n :=
  vmapI v fun i y => if lo ≤ i ∧ i ≤ hi then x else y

/-- A flow range bound: a range equal to one bound is bound again, a range that overlaps another is refused. -/
def bindFlows (s : State) (lo hi sem : Nat) : Except Deny State :=
  let l := s.hosts.bind.flows
  if l.any fun r => r.1 == lo && r.2.1 == hi then
    .ok { s with hosts.bind.flows := l.map fun r => if r.1 = lo ∧ r.2.1 = hi then (lo, hi, sem) else r }
  else if l.any fun r => decide (r.1 ≤ hi) && decide (lo ≤ r.2.1) then .error (badParam 4)
  else if 64 ≤ l.length then .error (denyRes .noSpace 0x0E 0 3)
  else .ok { s with hosts.bind.flows := l ++ [(lo, hi, sem)] }

/-- The bound ranges within a range unbound; one that overlaps it in part is refused. -/
def unbindFlows (s : State) (lo hi : Nat) : Except Deny State :=
  let l := s.hosts.bind.flows
  let within := fun (r : Nat × Nat × Nat) => decide (lo ≤ r.1) && decide (r.2.1 ≤ hi)
  if l.any fun r => decide (r.1 ≤ hi) && decide (lo ≤ r.2.1) && !within r then .error (badParam 4)
  else .ok { s with hosts.bind.flows := l.filter fun r => !within r }

/-- The binding or unbinding of the resources named. -/
def semBind (s : State) (unbind : Bool) (sem cls lo hi : Nat) : Except Deny State :=
  let x := if unbind then none else some sem
  match cls with
  | 1 => .ok { s with hosts.bind.pdk := bindRun s.hosts.bind.pdk lo hi x }
  | 3 => .ok { s with hosts.bind.link := bindRun s.hosts.bind.link lo hi x }
  | 4 => .ok { s with hosts.bind.enc := bindRun s.hosts.bind.enc lo hi x }
  | 5 => .ok { s with hosts.bind.gen := bindRun s.hosts.bind.gen lo hi x }
  | _ => if unbind then unbindFlows s lo hi else bindFlows s lo hi sem

def semBindBody (c : Cmd) (s : State) : Except Deny State :=
  match semBind s (par c 0 1 == 1) (par c 1 1) (par c 2 1) (par c 4 4) (par c 8 4) with
  | .error d => .error d
  | .ok s => .ok (doneWith c s [])

/-- `SEM_BIND`. -/
def execSemBind (c : Cmd) (s : State) : Host.Outcome State Fault Refusal := .next (runCmd semBindSpec semBindBody c s)

/-! ### The SMBus sideband (R338, R339) -/

/-- The sideband answers in every state except OFF, and not after a thermal trip, which stops every clock and output (R475). -/
def smbus (s : State) (f : State → State) : State := if s.dev.state = .off ∨ !s.dev.thermtripL then s else f s

/-- The stale marker of HEALTH and TEMPS: the values are live from HALTER on, except in STABLED. -/
def staleMark (s : State) : Byte := if served s then 0x00 else 0xFF

/-- `IDENT`, 16 bytes: the steppings are those of the yard die and the north fabric die. -/
def identBytes (s : State) : List Byte :=
  leBytes 2 0x0117 ++ leBytes 2 0x0080 ++ leBytes 4 s.fuse.serial.toNat ++ leBytes 1 (fld s.fuse.die[2] 8 8)
    ++ leBytes 1 (fld s.fuse.die[0] 8 8) ++ leBytes 1 (lcCode s.fuse.lcs) ++ leBytes 2 s.fuse.fwver.toNat ++ leBytes 3 0

/-- A read of command code `code` answered: a Block Read has its byte count in front of its data, and the Packet Error Code
covers the whole transaction, from the target's address (0x5A, as it goes over the wire) on. -/
def sideReply (s : State) (code : Byte) (block : Bool) (l : List Byte) : State :=
  s.emit (.sideband l (smbusPec ([0xB4, code, 0xB5] ++ (if block then leBytes 1 l.length else []) ++ l)))

/-- `IDENT`. -/
def execIdent (s : State) : Host.Outcome State Fault Refusal :=
  .next (smbus s fun s => sideReply s 0x01 true (identBytes s))

/-- `STATE`. -/
def execState (s : State) : Host.Outcome State Fault Refusal :=
  .next (smbus s fun s => sideReply s 0x02 false (leBytes 1 (devCode s.dev.state)))

/-- `HEALTH`: the values of the last refresh. -/
def execHealth (s : State) : Host.Outcome State Fault Refusal :=
  .next (smbus s fun s => sideReply s 0x03 true (padTo 7 s.pins.health ++ [staleMark s]))

/-- `TEMPS`. -/
def execTemps (s : State) : Host.Outcome State Fault Refusal :=
  .next (smbus s fun s => sideReply s 0x04 true (padTo 10 s.pins.temps ++ [staleMark s]))

/-- `SIDEBAND_REFRESH`, at least every 10 ms while the values are live. -/
def execSidebandRefresh (s : State) : Host.Outcome State Fault Refusal :=
  .next (if served s then
    let (t, s) := tempBytes s
    { s with pins.health := healthBytes s, pins.temps := t }
  else s)

/-- `SHUTDOWN` (0x0901) as the sideband gives it: bit 0 of byte 1 runs the BIST. -/
def sidebandCmd (b1 : Byte) : Cmd :=
  { src := .sideband, opcode := 0x0901, params := [if b1.getLsbD 0 then 0 else 1, 0, 0, 0] }

/-- A command code that Table 12-8 lists. -/
def sideCode (code : Byte) : Bool := decide (1 ≤ code.toNat) && decide (code.toNat ≤ 5)

/-- `SIDEBAND_SHUTDOWN`, with the command code that the board controller sends: a code that Table 12-8 does not list is
NACKed, as it comes, before anything tells a read from a write; a write to the code of a read does nothing. Byte 0 other
than 0x5D is NACKed, a wrong PEC discards the write and is counted. In STABLED the write wakes the device where that is
enabled, and `RECOVERY_L` is sampled (R393, R404). -/
def execSidebandShutdown (b0 b1 : Byte) (w : SideWrite) (s : State) : Host.Outcome State Fault Refusal :=
  .next (smbus s fun s =>
    if !sideCode w.code then s.emit .nack
    else if w.code = 0x05 ∧ b0 ≠ 0x5D then s.emit .nack
    else if !w.pecOk then { s with pins.pec := satAdd s.pins.pec 1 }
    else if w.code ≠ 0x05 then s
    else if s.dev.state = .stabled then (if s.dev.wakeSb then wakeEvent s 2 w.recoveryLow else s)
    else runCmd shutdownSpec shutdownBody (sidebandCmd b1) s)

/-- `ALERT_RESPONSE`: the device answers the Alert Response Address (0x0C) with its own, and releases the alert. -/
def execAlertResponse (s : State) : Host.Outcome State Fault Refusal :=
  .next (smbus s fun s =>
    if s.dev.alert then { s with dev.alert := false }.emit (.sideband [0xB4] (smbusPec [0x19, 0xB4])) else s.emit .nack)

end Sys2Proof.Machine
end

