-- ==== Sys2Proof/Machine/Fettler.lean ====
section
/-! DEFINITION. Machine/Fettler.lean: the check field of a frame (R373), the fettler (R386, R387), readback (R388), and
upsets of configuration memory, bin arrays, caster memories and DDR5. -/

namespace Sys2Proof.Machine

open Sys2Proof

/-! ### Frames and their errors (R373) -/

/-- What the check of a stored frame finds. -/
inductive FrameCheck where
  | good | correctable | uncorrectable
  deriving DecidableEq, Repr

/-- Bits 0-4,095 of a stored frame are its payload; 4,096-4,109 the SECDED code; 4,110-4,141 the CRC; then two zeros. -/
def checkFrame (f : Frame) : FrameCheck :=
  let coded := (f.flips.filter (· < 4110)).length
  let crc := f.flips.any fun b => decide (4110 ≤ b) && decide (b < 4142)
  if coded = 0 ∧ !crc then .good else if coded = 1 ∧ !crc then .correctable else .uncorrectable

/-- The check field of a payload. -/
def checkField (v : BitVec 4096) : BitVec 48 :=
  BitVec.ofNat 48 ((Config.secdedFrame v).toNat + 2 ^ 14 * crc32c (leBytes 512 v.toNat))

/-- The 520 bytes that readback returns of a frame as stored. -/
def frameBytes (f : Frame) : List Byte :=
  let v := (f.flips.filter (· < 4096)).foldl (fun p i => p ^^^ BitVec.twoPow 4096 i) f.good
  let c := (f.flips.filter (4096 ≤ ·)).foldl (fun p i => p ^^^ BitVec.twoPow 48 (i - 4096)) (checkField f.good)
  leBytes 512 v.toNat ++ leBytes 6 c.toNat ++ [0, 0]

/-- The fabric of a paddock takes what its configuration now lets it take, and its bins' notices test their watermarks
(R100). -/
def refit (s : State) (k : Nat) : State :=
  if released s k then testNotices (resumeLanes (resumePaddock s k) (arrivalLanes k ++ departureLanes k)) k else s

/-- A correction written back, and counted. -/
def writeCorrection (s : State) (a : Nat) : State :=
  let s := { s with cfg.frames := tmod {} s.cfg.frames a (fun f => { f with flips := [] }), cfg.ftlCorr := satAdd s.cfg.ftlCorr 1 }
  refit s (a / 8192)

/-- An uncorrectable frame (R386). -/
def reportFrame (s : State) (a : Nat) : State :=
  let addr := if s.cfg.err.getLsbD cfFtlUe then s.cfg.ftlUeAddr else BitVec.ofNat 19 a
  let s := { s with cfg.ftlUncorr := satAdd s.cfg.ftlUncorr 1, cfg.ftlUeAddr := addr }
  toFaulted (raiseEvent (cfgErr s cfFtlUe) 2) (Fin.ofNat 64 (a / 8192))

/-- A frame checked: a correction is written, or held for the rail (R133) or until DOZE ends (R387). -/
def fettleFrame (s : State) (a : Nat) : State :=
  let d := dieOfPdk (a / 8192)
  match checkFrame (tget {} s.cfg.frames a) with
  | .good => s
  | .uncorrectable => reportFrame s a
  | .correctable =>
    if s.cfg.ftlHeld[d].contains a then s
    else if s.dev.state = .doze then { s with cfg.ftlHeld := vmod s.cfg.ftlHeld d (· ++ [a]) }
    else if railOf s.gov.die[d] < 700 then fettlerLift { s with cfg.ftlHeld := vmod s.cfg.ftlHeld d (· ++ [a]) } d
    else writeCorrection s a

/-! ### The sweep (R386, R387) -/

/-- Frames of one die in a sweep. -/
def sweepFrames : Nat := 165888

/-- The address of frame `n` of a die's sweep. -/
def sweepAddr (d n : Nat) : Nat :=
  let j := n % 5184
  frameAddr (32 * d + n / 5184) (if j < 5120 then j else j + 32)

/-- The states in which the fettler runs. -/
def fettlerRuns (s : State) : Bool :=
  s.cfg.ftlEn && [DevState.halter, .pouring, .service, .recovery, .doze].contains s.dev.state

/-- The engine goes on to its next frame; sweeps that both engines have completed are counted. -/
def nextFrame (s : State) (d : Fin 2) : State :=
  let n := s.cfg.ftlPos[d] + 1
  if n < sweepFrames then { s with cfg.ftlPos := vset s.cfg.ftlPos d n }
  else
    let done := vmod s.cfg.ftlDone d (· + 1)
    { s with cfg.ftlPos := vset s.cfg.ftlPos d 0, cfg.ftlDone := done, cfg.ftlSweeps := BitVec.ofNat 32 (min done[0] done[1]) }

/-- `FETTLER_FRAME`: the engine of die `d` deals with one frame; one of a LOADING or TORN paddock is skipped. -/
def execFettlerFrame (d : Fin 2) (s : State) : Host.Outcome State Fault Refusal :=
  .next (if !fettlerRuns s then s
    else
      let a := sweepAddr d.val s.cfg.ftlPos[d]
      let p := (pdkAt s (a / 8192)).state
      nextFrame (if p = .loading ∨ p = .torn then s else fettleFrame s a) d)

/-- `FETTLER_WRITE` (R133): a held correction is written once the rail stands at 0.70 V; with the last, the lift goes. One held
in DOZE sets the lift afterwards where the rail is below that. In DOZE, and while the fettler is stopped, it stays held
(R387). -/
def execFettlerWrite (d : Fin 2) (s : State) : Host.Outcome State Fault Refusal :=
  .next (match s.cfg.ftlHeld[d] with
  | [] => s
  | a :: r =>
    if s.dev.state = .doze || !fettlerRuns s then s
    else if railOf s.gov.die[d] < 700 then (if s.gov.die[d].fettlerLift then s else fettlerLift s d)
    else
      let s := { s with cfg.ftlHeld := vset s.cfg.ftlHeld d r }
      writeCorrection (if r.isEmpty then s.modGov d fun g => { g with fettlerLift := false } else s) a)

def fettlerConfigSpec : CmdSpec where
  opcode := 0x0105
  states := stHPSDR
  size := sizeIs 8
  params := fun c _ =>
    let p := orDefault (par c 4 4) 100
    paramChecks (par c 0 1 / 2 == 0 && resZero c 1 3) (decide (20 ≤ p) && decide (p ≤ 10000))

def fettlerConfigBody (c : Cmd) (s : State) : Except Deny State :=
  .ok (doneWith c { s with cfg.ftlEn := par c 0 1 == 1, cfg.ftlPeriod := orDefault (par c 4 4) 100 } [])

/-- `FETTLER_CONFIG`. -/
def execFettlerConfig (c : Cmd) (s : State) : Host.Outcome State Fault Refusal :=
  .next (runCmd fettlerConfigSpec fettlerConfigBody c s)

/-! ### READBACK_FRAMES (R388) -/

/-- The index exists (Table 14-4). -/
def frameExists (idx : Nat) : Bool := decide (idx < 5216) || decide (6144 ≤ idx)

/-- The addresses of a readback. -/
def readbackAddrs (c : Cmd) : List Nat := (List.range (par c 4 4)).map fun i => par c 0 4 + i

/-- A paddock of the range, within the address space, that `p` names. -/
def rangePdk (c : Cmd) (p : Nat → Bool) : Option Nat :=
  (List.range 64).find? fun k => decide (par c 0 4 < 8192 * (k + 1)) && decide (8192 * k < par c 0 4 + par c 4 4) && p k

/-- Bytes of a bin's array as stored, a 64-bit word at a time (R111); zeros for a priority FIFO, whose array is not touched:
the model's choice (log entry 100). -/
def contentBytes (s : State) (k b f : Nat) : State × List Byte :=
  if binUsed s k b && binMode s k b == 3 then (s, List.replicate 512 0)
  else (List.range 64).foldl (fun (r : State × List Byte) i =>
    let w := 64 * f + i
    let x := arrayRead r.1 k b w
    let v := (tget ([] : List Nat) x.1.fab.binBad (binWord k b w)).foldl
      (fun (v : BitVec 64) j => if j < 64 then v ^^^ BitVec.twoPow 64 j else v) (BitVec.ofNat 64 (leNat (readBytes x.1.fab.binMem (binByte k b (8 * w)) 8)))
    (x.1, r.2 ++ leBytes 8 v.toNat)) (s, [])

/-- One frame read back. -/
def readFrame (s : State) (a : Nat) : State × List Byte :=
  let k := a / 8192
  let idx := a % 8192
  if idx < 5120 ∨ (5152 ≤ idx ∧ idx < 5216) then (fettleFrame s a, frameBytes (tget {} s.cfg.frames a))
  else if idx < 5152 then
    let l := (List.range 64).flatMap fun i => leBytes 8 (tget 0 s.cfg.stateFrames (2048 * k + 64 * (idx - 5120) + i)).toNat
    (s, frameBytes { good := BitVec.ofNat 4096 (leNat l) })
  else
    let r := contentBytes s k ((idx - 6144) / 32) ((idx - 6144) % 32)
    (r.1, frameBytes { good := BitVec.ofNat 4096 (leNat r.2) })

def readbackSpec : CmdSpec where
  opcode := 0x0104
  states := stHPSR
  size := sizeIs 8
  buffer := true
  life := fun c s => s.fuse.lcs != .field || (rangePdk c fun k => (pdkAt s k).secure).isNone
  params := fun c _ =>
    paramChecks (par c 0 4 / 2 ^ 19 == 0)
      (par c 4 4 != 0 && decide (par c 0 4 + par c 4 4 ≤ 2 ^ 19) && (readbackAddrs c).all fun a => frameExists (a % 8192)) |>.orElse fun _ => inlineFits c (520 * par c 4 4)

def readbackBody (c : Cmd) (s : State) : Except Deny State :=
  match rangePdk c fun k => (pdkAt s k).state == .loading with
  | some k => .error (denyPdk .busy s k)
  | none =>
    let r := (readbackAddrs c).foldl (fun (r : State × List Byte) a => let x := readFrame r.1 a; (x.1, r.2 ++ x.2)) (s, [])
    doneOut c r.1 r.2

/-- `READBACK_FRAMES`. -/
def execReadbackFrames (c : Cmd) (s : State) : Host.Outcome State Fault Refusal := .next (runCmd readbackSpec readbackBody c s)

/-! ### Upsets -/

/-- A bit flips; flipped again, it is as it was. -/
def toggle (b : Nat) (l : List Nat) : List Nat := if l.contains b then l.erase b else l ++ [b]

def flipBit (t : Tab (List Nat)) (k b : Nat) : Tab (List Nat) := tmod [] t k (toggle b)

/-- `UPSET`: one stored bit changes. A bit that does not exist is none. -/
def execUpset (u : UpsetAt) (s : State) : Host.Outcome State Fault Refusal :=
  .next (match u with
  | .frame a b =>
    if a < 2 ^ 19 ∧ (a % 8192 < 5120 ∨ (5152 ≤ a % 8192 ∧ a % 8192 < 5216)) ∧ b < 4144 then
      refit { s with cfg.frames := tmod {} s.cfg.frames a fun f => { f with flips := toggle b f.flips } } (a / 8192)
    else s
  | .bin n w b => if n < 4096 ∧ w < 2048 ∧ b < 72 then { s with fab.binBad := flipBit s.fab.binBad (2048 * n + w) b } else s
  | .casterMem c w b => if w < 16384 ∧ b < 72 then s.modCast c fun h => { h with memBad := flipBit h.memBad w b } else s
  | .casterStore c w b => if w < 2048 ∧ b < 72 then s.modCast c fun h => { h with storeBad := flipBit h.storeBad w b } else s
  | .ddr k b => if k < 2 ^ 34 ∧ b < 40 then { s with ddr.bad := flipBit s.ddr.bad k b } else s)

end Sys2Proof.Machine
end

