-- ==== Sys2Proof/Machine/SchedCmds.lean ====
section
/-! DEFINITION. Machine/SchedCmds.lean: the commands of the flow scheduler (R173 to R187, R203, R213) and the scheduling
trace (R219 to R226). -/

namespace Sys2Proof.Machine

open Sys2Proof

/-! ### Graph images (R173, R175) -/

/-- A collector record (Table 7-3); none where a field is outside its encoding. `modes`: the port table. -/
def collectorOf (modes : Nat → Nat) (l : List Byte) : Option Collector :=
  let kind := leAt l 0 1
  let hport := leAt l 1 1
  let ring := leAt l 2 1
  let idx := leAt l 4 2
  let ok := leAt l 3 1 == 0 && leAt l 6 2 == 0 &&
    match kind with
    | 0 => hport == 0 && ring == 0 && idx == 0
    | 1 => decide (hport ≤ 1) && decide (ring ≤ 15) && idx == 0
    | 2 => hport == 0 && ring == 0 && decide (idx ≤ 511) && modes idx == 4
    | 3 => hport == 0 && ring == 0 && decide (idx ≤ 63)
    | _ => false
  if ok then some { kind := kind, hport := hport, ring := ring, index := idx } else none

/-- The edges of an operation record. -/
def edgeOf (l : List Byte) (e : Nat) : Option Nat :=
  let v := leAt l (16 + 2 * e) 2
  if v / 2 ^ 15 = 1 then some (v % 4096) else none

/-- The operation record (Table 7-4) as it stands. -/
def opOf (l : List Byte) : Op :=
  { cls := leAt l 0 1, group := leAt l 1 1, kernel := BitVec.ofNat 16 (leAt l 2 2), patience := leAt l 4 2, mask := leAt l 6 1,
    lenFromItem := leAt l 7 1 % 2 == 1, winLen := leAt l 8 2, target := leAt l 10 2,
    cool := Vector.ofFn fun e => leAt l 12 4 / 16 ^ e.val % 16, edges := Vector.ofFn fun e => edgeOf l e.val }

/-- The form of one operation record: reserved bits, and fields that its class gives no meaning. -/
def opFormOk (l : List Byte) : Bool :=
  let o := opOf l
  let z (lo n : Nat) : Bool := leAt l lo n == 0
  let win := decide (leAt l 7 1 ≤ 1) && decide (o.winLen ≤ 8192)
  let edges := (List.range 8).all fun e =>
    let v := leAt l (16 + 2 * e) 2
    v / 4096 % 8 == 0 && (v / 2 ^ 15 == 1 || (v == 0 && leAt l 12 4 / 16 ^ e % 16 == 0))
  edges &&
  match o.cls with
  | 0 => (l.take 32).all (· == 0)
  | 1 => decide (o.group ≤ 3) && o.kernel != 0 && win && o.target == 0
  | 2 => z 1 6 && win
  | 3 | 4 => z 1 9 && z 12 20
  | _ => false

/-- The checks of one operation against the rest of the graph. -/
def opLinksOk (g : Graph) (o : Op) : Bool :=
  (o.cls != 1 || decide (o.mask < g.masks.length)) &&
  (o.cls != 2 || (decide (o.target ≤ 511) && vget 0 g.ports o.target == 3)) &&
  (match o.cls, g.collectors[o.target]? with
    | 3, some c => c.kind == 1
    | 4, some c => c.kind == 3
    | 3, none | 4, none => false
    | _, _ => true) &&
  o.edges.toList.all fun e =>
    match e with
    | some t => (match g.ops[t]? with | some x => x.cls != 0 | none => false)
    | none => true

/-- Record `i` of `n` bytes from offset `lo`. -/
def recAt (l : List Byte) (lo n i : Nat) : List Byte := (l.drop (lo + n * i)).take n

/-- The graph of an image that passes every check of R175. -/
def graphOf (l : List Byte) : Option Graph :=
  let nOps := leAt l 4 2
  let nMasks := leAt l 6 1
  let nColl := leAt l 8 2
  let masks := 544
  let coll := masks + 32 * nMasks
  let ops := coll + 8 * nColl
  let mode (n : Nat) : Nat := leAt l (32 + n) 1
  let colls := (List.range nColl).filterMap fun i => collectorOf mode (recAt l coll 8 i)
  let recs := (List.range nOps).map fun i => recAt l ops 32 i
  let g : Graph := { id := BitVec.ofNat 16 (leAt l 2 2), ports := Vector.ofFn fun n => mode n.val,
                     masks := (List.range nMasks).map fun i => BitVec.ofNat 256 (leAt l (masks + 32 * i) 32),
                     collectors := colls, ops := recs.map opOf }
  if leAt l 0 2 = 1 ∧ leAt l 2 2 ≠ 0 ∧ 1 ≤ nOps ∧ nOps ≤ 4096 ∧ nMasks ≤ 64 ∧ nColl ≤ 1024 ∧ leAt l 7 1 = 0
      ∧ leAt l 10 2 = 0 ∧ leAt l 16 12 = 0 ∧ leAt l 12 4 = ops + 32 * nOps ∧ imageOk l (leAt l 12 4) = true
      ∧ (((l.drop 32).take 512).all fun b => decide (b.toNat ≤ 4)) = true ∧ colls.length = nColl
      ∧ recs.all opFormOk = true ∧ g.ops.all (opLinksOk g) = true then some g
  else none

/-! ### GRAPH_LOAD (R175) -/

/-- Every caster that a mask names is retired or excluded, or it names none. -/
def maskDead (s : State) (m : BitVec 256) : Bool := (bitsOf 256 m.toNat).all (casterGone s)

/-- The first class 1 operation of a graph whose casters are all gone. -/
def deadOp (s : State) (g : Graph) : Option Nat :=
  (List.range g.ops.length).find? fun k =>
    let o := g.ops.getD k {}
    o.cls == 1 && maskDead s (g.masks.getD o.mask 0)

/-- A valid edge names a profile that is not configured. -/
def badProfile (s : State) (o : Op) : Bool :=
  (List.range 8).any fun e => (vget none o.edges e).isSome && vget 0 o.cool e != 0 &&
    !(vget ({} : Profile) s.cool.profiles (vget 0 o.cool e)).valid

/-- State codes of a flow (Table 7-13). -/
def flowCode : FlowState → Nat
  | .closed => 0 | .open => 1 | .draining => 2

def denyFlow (st : Status) (s : State) (f : Nat) : Deny := denyRes st 6 (flowCode (s.flow f).state) f

/-- A flow's collector is declared, and not with kind 0. -/
def collectorUsed (g : Graph) (c : Nat) : Bool :=
  match g.collectors[c]? with
  | some x => x.kind != 0
  | none => false

/-- The lanes of the ports whose mode changes that keep their routing until the handshake in progress there has completed, each
with the mode that routes it (R440). -/
def keptRoutes (s : State) (g : Graph) : List (Nat × Nat) :=
  ((List.range 512).filter fun n => vget 0 s.sch.graph.ports n != vget 0 g.ports n || s.sch.oldRoute.any fun e => e.1 / 17 == n).flatMap
    fun n =>
    ((List.range 17).filter fun j => !laneQuiet s n j).map fun j => (laneKey n j, laneMode s n j)

/-- The new graph in force. The track ends of ports whose mode changed follow at once, those with a handshake in progress once it
has completed (R440). -/
def setGraph (s : State) (g : Graph) : State :=
  let changed := (List.range 64).filter fun k =>
    (pdkAt s k).state == .live && (List.range 8).any fun p => vget 0 s.sch.graph.ports (8 * k + p) != vget 0 g.ports (8 * k + p)
  changed.foldl resumePaddock { s with sch.graph := g, sch.last := [], sch.oldRoute := keptRoutes s g }

def graphLoadSpec : CmdSpec where
  opcode := 0x0400
  states := stHPS
  size := sizeIs 16
  isLong := fun _ _ => true
  buffer := true
  params := fun c _ => paramChecks (resZero c 1 3) (decide (par c 0 1 ≤ 1))
    |>.orElse fun _ => if par c 0 1 = 0 then inputFits c (par c 12 4) else none

/-- `GRAPH_LOAD` once its image can be read. -/
def graphLoadFrom (c : Cmd) (s : State) : Except Deny State := do
  let (s, l) ← imageBytes c s (par c 0 1 == 1) (par c 4 8) (par c 12 4)
  match graphOf l with
  | none => .error { st := .check }
  | some g =>
    if g.ops.any (badProfile s) then .error (badParam 4)
    else match deadOp s g with
    | some k => .error (denyRes .retired 0x0F 0 k)
    | none =>
      match (s.sch.flows.map Prod.fst).find? (flowHolds s),
          (s.sch.flows.find? fun e => e.2.state != .closed && !collectorUsed g e.2.coll).map Prod.fst with
      | some f, _ => .error (denyFlow .busy s f)
      | none, some f => .error (denyFlow .busy s f)
      | none, none =>
        let job := s.cmdp.nextId
        let s := startJob c s .graphLoad []
        .ok (finishJob (setGraph s g) job .done 0 [])

def graphLoadBody (c : Cmd) (s : State) : Except Deny State :=
  if imageHeld s (par c 0 1 == 1) (par c 4 8) (par c 12 4) then .ok (memHold c s (par c 4 8) (par c 12 4)) else graphLoadFrom c s

/-- `GRAPH_LOAD`. -/
def execGraphLoad (c : Cmd) (s : State) : Host.Outcome State Fault Refusal := .next (runCmd graphLoadSpec graphLoadBody c s)

/-! ### FLOW_CONFIG (R180) -/

/-- The flow range of a command, with its first and last flow at bytes `lo` and `lo` + 4. -/
def rangeOk (c : Cmd) (lo : Nat) : Bool := decide (par c lo 4 ≤ par c (lo + 4) 4) && decide (par c (lo + 4) 4 < 2 ^ 20)

/-- The first flow of a range that fails a test. -/
def firstFlow (lo hi : Nat) (p : Nat → Bool) : Option Nat := ((List.range (hi + 1 - lo)).map (lo + ·)).find? p

/-- Every flow of a range changed. -/
def modRange (s : State) (lo hi : Nat) (g : Flow → Flow) : State :=
  (List.range (hi + 1 - lo)).foldl (fun s i => s.modFlow (lo + i) g) s

def flowConfigSpec : CmdSpec where
  opcode := 0x0401
  states := stHPS
  size := sizeIs 20
  touches := fun c _ => [.flows (par c 4 4) (par c 8 4)]
  params := fun c s => paramChecks (resZero c 3 1 && resZero c 14 2)
    (decide (par c 0 1 ≤ 2) && rangeOk c 4 && (par c 0 1 == 2 || decide (par c 1 1 ≤ 3)) &&
      (par c 0 1 != 0 || (decide (par c 2 1 ≤ 1) && collectorUsed s.sch.graph (par c 12 2))))

def flowConfigBody (c : Cmd) (s : State) : Except Deny State :=
  let lo := par c 4 4
  let hi := par c 8 4
  match par c 0 1 with
  | 0 =>
    match firstFlow lo hi fun f => (s.flow f).state != .closed with
    | some f => .error (denyFlow .stateRefused s f)
    | none => .ok (doneWith c (modRange s lo hi fun _ =>
        { state := .open, keep := par c 2 1 == 1, prio := par c 1 1, coll := par c 12 2,
          last := BitVec.ofNat 32 (par c 16 4) }) [])
  | 1 =>
    match firstFlow lo hi fun f => (s.flow f).state != .open with
    | some f => .error (denyFlow .stateRefused s f)
    | none => .ok (doneWith c (modRange s lo hi fun x => { x with prio := par c 1 1 }) [])
  | _ =>
    match firstFlow lo hi fun f => (s.flow f).state != .open, firstFlow lo hi (flowHolds s) with
    | some f, _ => .error (denyFlow .stateRefused s f)
    | none, some f => .error (denyFlow .busy s f)
    | none, none => .ok (doneWith c (dropClosed (modRange s lo hi fun _ => {}) lo hi) [])

/-- `FLOW_CONFIG`. -/
def execFlowConfig (c : Cmd) (s : State) : Host.Outcome State Fault Refusal := .next (runCmd flowConfigSpec flowConfigBody c s)

/-! ### FLOW_SUBMIT (R183) -/

/-- Consecutive items. -/
def itemsOf (n : Nat) (l : List Byte) : List Item := (List.range n).map fun i => itemOf (l.drop (64 * i))

/-- The items of a submission, as far as its parameter block or its buffer gives them. -/
def submitItems (c : Cmd) : List Item :=
  itemsOf (par c 0 2) (if c.hlen.toNat = 0 then c.params.drop 4 else padTo c.hlen.toNat (c.buf.getD []))

/-- Every item can be admitted at once. -/
def admitsAll (s : State) (c : Cmd) : Bool := (admitItems s (srcOf c.src) 0 (submitItems c)).2.1.isEmpty

def flowSubmitSpec : CmdSpec where
  opcode := 0x0402
  states := stS
  size := fun c => if c.hlen.toNat = 0 then c.params.length == 4 + 64 * par c 0 2 else c.params.length == 4
  isLong := fun c s => c.long && !admitsAll s c
  buffer := true
  touches := fun c _ => (submitItems c).map fun i => .flows (itFlow i) (itFlow i)
  params := fun c _ => paramChecks (resZero c 2 2)
    (decide (1 ≤ par c 0 2) && decide (par c 0 2 ≤ 1024))
      |>.orElse fun _ => if c.hlen.toNat = 0 then none else inputFits c (64 * par c 0 2)

/-- The resource that holds back the first item that cannot be admitted. -/
def submitBlocked (s : State) (i : Item) : Deny :=
  if s.sch.params.hLimit ≤ s.sch.used then denyRes .busy 0x0E 0 0 else denyFlow .busy s (itFlow i)

/-- The checks of R183 on the items. -/
def itemsDeny (s : State) (l : List Item) : Option Deny :=
  if l.any itReserved then some (badParam 3)
  else if l.any fun i => (opRec s (itOp i)).cls == 0 then some (badParam 4)
  else match l.find? fun i => (s.flow (itFlow i)).state != .open with
  | some i => some (denyFlow .stateRefused s (itFlow i))
  | none =>
    match l.find? fun i => (opRec s (itOp i)).cls == 1 && maskDead s (opMask s (opRec s (itOp i))) with
    | some i => some (denyRes .retired 0x0F 0 (itOp i))
    | none => none

/-- The bytes of the items, and a refusal where the buffer is too short or its transfer fails. -/
def submitBuf (c : Cmd) : Except Deny (List Byte) := if c.hlen.toNat = 0 then .ok [] else inBuf c (64 * par c 0 2)

def flowSubmitBody (c : Cmd) (s : State) : Except Deny State := do
  let _ ← submitBuf c
  let items := submitItems c
  match itemsDeny s items with
  | some d => .error d
  | none =>
    let (t, rest, _) := admitItems s (srcOf c.src) 0 items
    match rest with
    | [] => .ok (doneWith c t [])
    | i :: _ =>
      if c.long then
        let job := s.cmdp.nextId
        let s := startJob c s (.flowSubmit items 0) []
        match findJob s job with
        | some j =>
          let r := resumeSubmit s j items 0
          .ok (if rest.length = items.length then holdBegins r (srcOf c.src) 1 i else r)
        | none => .ok s
      else .error (submitBlocked t i)

/-- `FLOW_SUBMIT`. -/
def execFlowSubmit (c : Cmd) (s : State) : Host.Outcome State Fault Refusal := .next (runCmd flowSubmitSpec flowSubmitBody c s)

/-! ### FLOW_DRAIN (R203) -/

def flowDrainSpec : CmdSpec where
  opcode := 0x0403
  states := stS
  size := sizeIs 16
  isLong := fun _ _ => true
  touches := fun c _ => [.flows (par c 4 4) (par c 8 4)]
  params := fun c _ => paramChecks (resZero c 1 3) (decide (par c 0 1 ≤ 1) && rangeOk c 4)

/-- What a flow has queued, spilled and cooling is dropped and counted. -/
def dropQueued (s : State) (f : Nat) : State :=
  let x := s.flow f
  let mine (e : CoolEntry) : Bool := itFlow e.item == f
  let cooling := (s.cool.entries.filter mine).length + (s.cool.dueQ.filter mine).length
  let spilled := (x.spill.map fun p => p.used).sum
  let pooled := x.pool.length + x.tail.length + cooling
  let s := x.spill.foldl (fun s p => freeSpillPage s p.page) s
  let s := { s with cool.entries := s.cool.entries.filter fun e => !mine e, cool.dueQ := s.cool.dueQ.filter fun e => !mine e }
  let s := s.modFlow f fun x => { x with pool := [], spill := [], tail := [] }
  settleTails (poolSub (schDiscard s (pooled + spilled)) pooled)

def flowDrainBody (c : Cmd) (s : State) : Except Deny State :=
  let lo := par c 4 4
  let hi := par c 8 4
  let discard := par c 0 1 == 1
  match firstFlow lo hi fun f => (s.flow f).state != .open with
  | some f => .error (denyFlow .stateRefused s f)
  | none =>
    let s := startJob c s (.flowDrain lo hi) []
    let s := modRange s lo hi fun x => { x with state := .draining, discard := discard }
    let s := if discard then (List.range (hi + 1 - lo)).foldl (fun s i => dropQueued s (lo + i)) s else s
    .ok (dropClosed ((List.range (hi + 1 - lo)).foldl (fun s i => closeIfEmpty s (lo + i)) s) lo hi)

/-- `FLOW_DRAIN`. -/
def execFlowDrain (c : Cmd) (s : State) : Host.Outcome State Fault Refusal := .next (runCmd flowDrainSpec flowDrainBody c s)

/-! ### COOL_CONFIG (R213) -/

/-- A domain as bytes 8 and up give it. -/
def domainOf (c : Cmd) (d : Nat) : Domain :=
  let v := par c (8 + 2 * (d - 9)) 2
  { src := v % 16, gen := v / 16 % 64, tick := v / 1024 % 8 }

/-- A profile as bytes 24 and up give it. -/
def profileOf (c : Cmd) (p : Nat) : Profile :=
  let v := par c (24 + 8 * (p - 1)) 8
  { delay := v % 2 ^ 48, domain := v / 2 ^ 48 % 16, base := v / 2 ^ 52 % 4, valid := v / 2 ^ 54 % 2 == 1 }

def setsPeriod (c : Cmd) : Bool := par c 0 1 % 2 == 1
def setsDomains (c : Cmd) : Bool := par c 0 1 / 2 % 2 == 1
def setsProfile (c : Cmd) (p : Nat) : Bool := (par c 22 2).testBit p

/-- The cooling settings after the command. -/
def coolAfter (c : Cmd) (s : State) : Cooling :=
  { s.cool with
    period := if setsPeriod c then par c 4 4 else s.cool.period,
    domains := vmapI s.cool.domains fun d x => if setsDomains c && decide (9 ≤ d) then domainOf c d else x,
    profiles := vmapI s.cool.profiles fun p x => if setsProfile c p && p != 0 then profileOf c p else x }

/-- The source of a domain: `SRC` 15 for yard time, 14 for an encoder. -/
def domainSrc (k : Cooling) (d : Nat) : Nat := if d = 0 then 15 else if d ≤ 8 then 14 else (vget ({} : Domain) k.domains d).src

/-- A profile within Table 8-3. -/
def profileOk (k : Cooling) (p : Profile) : Bool :=
  p.base != 3 && domainSrc k p.domain != 0 && (p.base != 1 || domainSrc k p.domain == 14) && (p.base != 2 || domainSrc k p.domain == 2)

/-- The block holds no reserved encoding, also where its set bits leave a domain or a profile out (R7). -/
def coolEncodings (c : Cmd) : Bool :=
  ((List.range 7).all fun i => decide ((domainOf c (9 + i)).src ≤ 3)) && (List.range 15).all fun i => (profileOf c (i + 1)).base != 3

/-- The source a domain counts: `GEN` and `TICK` belong to it only where `SRC` uses them (Table 8-2). -/
def domainSource (d : Domain) : Nat × Nat := (d.src, if d.src = 1 ∨ d.src = 2 then d.gen else if d.src = 3 then d.tick else 0)

/-- A domain holds entries. -/
def domainHolds (s : State) (d : Nat) : Bool := (s.cool.entries ++ s.cool.dueQ).any fun e => e.domain == d

/-- A valid edge of the loaded graph names the profile. -/
def profileNamed (s : State) (p : Nat) : Bool :=
  s.sch.graph.ops.any fun o => (List.range 8).any fun e => (vget none o.edges e).isSome && vget 0 o.cool e == p

/-- The encoder or trigger generator from which a tick domain counts (Table 8-1, Table 8-2). -/
def domainNames (k : Cooling) (d : Nat) : List Res :=
  if 1 ≤ d ∧ d ≤ 8 then [.enc (d - 1)]
  else if domainSrc k d = 1 ∨ domainSrc k d = 2 then [.gen (vget ({} : Domain) k.domains d).gen]
  else []

/-- What `COOL_CONFIG` names: the sources of the domains that it sets, and those of the domains that its profiles name,
whatever `VALID` (R213). -/
def coolConfigSpec : CmdSpec where
  opcode := 0x0405
  states := stHPS
  size := sizeIs 144
  touches := fun c s =>
    let k := coolAfter c s
    let named := ((List.range 16).filter fun p => setsProfile c p && p != 0).map fun p => (profileOf c p).domain
    ((List.range 16).filter fun d => (setsDomains c && decide (9 ≤ d)) || named.contains d).flatMap (domainNames k)
  params := fun c s =>
    let k := coolAfter c s
    paramChecks (decide (par c 0 1 < 4) && resZero c 1 3 && par c 22 2 % 2 == 0 &&
        ((List.range 7).all fun i => par c (8 + 2 * i) 2 / 2 ^ 13 == 0) &&
        (List.range 15).all fun i => par c (24 + 8 * i) 8 / 2 ^ 55 == 0)
      (decide (1 ≤ k.period) && decide (k.period ≤ 125000000) && coolEncodings c &&
        (List.range 16).all fun p =>
          let x := vget ({} : Profile) k.profiles p
          (!x.valid && !setsProfile c p) || profileOk k x)

def coolConfigBody (c : Cmd) (s : State) : Except Deny State :=
  let k := coolAfter c s
  if k.period ≠ s.cool.period ∧ domainHolds s 0 = true then .error (denyRes .busy 0x0E 0 1)
  else if (List.range 16).any fun d =>
      domainSource (vget ({} : Domain) k.domains d) != domainSource (vget {} s.cool.domains d) && domainHolds s d then
    .error (denyRes .busy 0x0E 0 1)
  else match (List.range 16).find? fun p =>
      let a := vget ({} : Profile) s.cool.profiles p
      let b := vget ({} : Profile) k.profiles p
      profileNamed s p && (a.domain != b.domain || a.base != b.base || (a.valid && !b.valid)) with
  | some p => .error (denyRes .busy 0x0A 0 p)
  | none => .ok (doneWith c { s with cool := k } [])

/-- `COOL_CONFIG`. -/
def execCoolConfig (c : Cmd) (s : State) : Host.Outcome State Fault Refusal := .next (runCmd coolConfigSpec coolConfigBody c s)

/-! ### SPILL_CONFIG (R187) -/

/-- A pair of watermarks, both from 0 to `top`; a high watermark of 0 disables the notice, any other lies above the low one
(R187, R221). -/
def watermarksOk (high low top : Nat) : Bool := decide (high ≤ top) && decide (low ≤ top) && (high == 0 || decide (low < high))

/-- The parameters of `SPILL_CONFIG`; a threshold of 0 is its default of Table 7-8 (R354, log entry 78). -/
def spillParams (c : Cmd) : SpillParams :=
  { spillHigh := orDefault (par c 0 4) 196608, refillBelow := orDefault (par c 4 4) 131072,
    hLimit := orDefault (par c 8 4) 245760, poolWmh := par c 12 4, poolWml := par c 16 4,
    spillWmh := par c 20 4, spillWml := par c 24 4 }

def spillParamsOk (p : SpillParams) : Bool :=
  decide (p.refillBelow + 64 ≤ p.spillHigh) && decide (p.spillHigh ≤ p.hLimit) && decide (p.hLimit ≤ 253952) &&
  watermarksOk p.poolWmh p.poolWml poolSize && watermarksOk p.spillWmh p.spillWml (2 ^ 25 - 1)

def spillConfigSpec : CmdSpec where
  opcode := 0x0406
  states := stHPS
  size := sizeIs 32
  params := fun c _ => paramChecks (resZero c 28 4) (spillParamsOk (spillParams c))

def spillConfigBody (c : Cmd) (s : State) : Except Deny State :=
  .ok (doneWith c (spillNotify (poolNotify { s with sch.params := spillParams c })) [])

/-- `SPILL_CONFIG`. -/
def execSpillConfig (c : Cmd) (s : State) : Host.Outcome State Fault Refusal := .next (runCmd spillConfigSpec spillConfigBody c s)

/-! ### The trace (R221 to R226) -/

/-- The trace notice at its present level; disabled in WRAP mode. -/
def traceNotify (s : State) : State :=
  let old := s.trc.notice.live
  let n := noticeLevel s.trc.notice (if s.trc.wrap then 0 else s.trc.wmHigh) s.trc.wmLow (s.trc.wrIdx - s.trc.rdIdx).toNat
  let s := { s with trc.notice := n }
  if !old && n.live then raiseEvent s 8 else s

/-- The ring takes no record now. -/
def traceFull (t : Trace) : Bool := t.destLost || (!t.wrap && decide (t.size ≤ (t.wrIdx - t.rdIdx).toNat))

/-- A record's bytes at its destination. -/
def tracePut (s : State) (r : BitVec 128) : State :=
  let a := s.trc.base + 16 * (s.trc.wrIdx.toNat % s.trc.size)
  match s.trc.dest with
  | 0 => ddrStore s .trace a (leBytes 16 r.toNat)
  | 1 => hostOut s 0 [(a, leBytes 16 r.toNat)]
  | _ => hostOut s 1 [(a, leBytes 16 r.toNat)]

/-- The oldest record of the buffer is written, or dropped where the ring is full or lost. -/
def traceDrain (s : State) : State :=
  match s.trc.buf with
  | [] => s
  | r :: l =>
    if traceFull s.trc then
      { s with trc := { s.trc with buf := l, drop := s.trc.drop + 1, dropped := true, lost := true } }
    else
      let s := tracePut s (if s.trc.lost then r ||| BitVec.twoPow 128 62 else r)
      traceNotify { s with trc := { s.trc with buf := l, lost := false, written := s.trc.written + 1, wrIdx := s.trc.wrIdx + 1 } }

/-- Every record in the buffer drains. -/
def traceFlush : Nat → State → State
  | 0, s => s
  | n + 1, s => traceFlush n (traceDrain s)

def traceReady (s : State) : Bool :=
  s.trc.dest != 0 || s.trc.destLost || s.trc.size == 0 || memReady s (s.trc.base + 16 * (s.trc.wrIdx.toNat % s.trc.size)) 16

/-- `TRACE_WRITE`. -/
def execTraceWrite (s : State) : Host.Outcome State Fault Refusal := .next (if traceReady s then traceDrain s else s)

/-- `TRACE_EPOCH`: yard time has reached `t`, whose bits [63:48] are new. -/
def execTraceEpoch (t : Nat) (s : State) : Host.Outcome State Fault Refusal :=
  let s := tickDue { s with dev.yard := max s.dev.yard t }
  .next (if s.trc.en && s.trc.epoch != BitVec.ofNat 16 (s.dev.yard / 2 ^ 48) then traceEpochRecord s else s)

/-- A write of `TRC_RDIDX` (R224): one that would leave more unread records than the ring holds is ignored. -/
def trcRdidxWrite (s : State) (v : BitVec 32) : State :=
  if !s.trc.wrap && decide (s.trc.size < (s.trc.wrIdx - v).toNat) then s else traceNotify { s with trc.rdIdx := v }

/-- `TRC_RDIDX`. -/
def execTrcRdidx (v : BitVec 32) (s : State) : Host.Outcome State Fault Refusal :=
  .next (if served s then trcRdidxWrite s v else s)

/-- The trace region that a DDR5 destination uses: the first of the map. -/
def traceRegion (s : State) : Option Region := s.ddr.map.find? fun r => r.kind == .trace

/-- Capacity in records of the ring that the command names. -/
def traceCap (c : Cmd) (s : State) : Nat :=
  if par c 1 1 = 0 then ((traceRegion s).map fun r => r.len / 16).getD (2 ^ 24) else par c 32 4 / 16

/-- A host ring: 2^k bytes from 4 KiB to 256 MiB at a 4 KiB-aligned address. -/
def hostRingOk (c : Cmd) : Bool :=
  par c 24 8 % 4096 == 0 && (List.range 17).any fun k => par c 32 4 == 2 ^ (12 + k)

def schedTraceSpec : CmdSpec where
  opcode := 0x0404
  states := stHPS
  size := sizeIs 48
  params := fun c s => paramChecks
    (par c 3 1 / 16 % 8 == 0 && resZero c 6 2 && resZero c 18 6 && resZero c 44 4)
    (decide (par c 0 1 ≤ 2) && decide (par c 3 1 % 16 ≤ 10) && (par c 0 1 != 1 ||
      (decide (par c 1 1 ≤ 2) && decide (par c 2 1 ≤ 1) && rangeOk c 8 &&
        (decide (par c 16 2 ≤ 4095) || par c 16 2 == 0xFFFF) && (par c 1 1 == 0 || hostRingOk c) &&
        watermarksOk (par c 36 4) (par c 40 4) (traceCap c s))))

/-- The trace disabled: what is in the buffer is written first. -/
def traceOff (s : State) : State :=
  let s := traceFlush s.trc.buf.length s
  { s with trc := { s.trc with en := false, armed := false } }

/-- The trace enabled as the command says, with an epoch record first. -/
def traceOn (c : Cmd) (s : State) : State :=
  let t := { s.trc with
    en := true, destLost := false, dest := par c 1 1, wrap := par c 2 1 == 1, armed := decide (128 ≤ par c 3 1),
    matchOn := decide (128 ≤ par c 3 1),
    matchKind := BitVec.ofNat 4 (par c 3 1), mask := BitVec.ofNat 16 (par c 4 2), flowLo := par c 8 4, flowHi := par c 12 4,
    opFilter := if par c 16 2 = 0xFFFF then none else some (par c 16 2),
    base := if par c 1 1 = 0 then ((traceRegion s).map fun r => r.base).getD 0 else par c 24 8,
    size := traceCap c s, wmHigh := par c 36 4, wmLow := par c 40 4, wrIdx := 0, rdIdx := 0 }
  traceNotify (traceEpochRecord { s with trc := t })

def schedTraceBody (c : Cmd) (s : State) : Except Deny State :=
  match par c 0 1 with
  | 0 => .ok (doneWith c (traceOff s) [])
  | 1 =>
    if par c 1 1 = 0 ∧ (traceRegion s).isNone then .error (denyRes .stateRefused 0x0C 0 (256 * kindCode .trace))
    else .ok (doneWith c (traceOn c (traceOff s)) [])
  | _ => .ok (doneWith c { s with trc.armed := s.trc.en && s.trc.matchOn } [])

/-- `SCHED_TRACE`. -/
def execSchedTrace (c : Cmd) (s : State) : Host.Outcome State Fault Refusal := .next (runCmd schedTraceSpec schedTraceBody c s)

end Sys2Proof.Machine
end

