-- ==== Sys2Proof/Machine/Status.lean ====
section
/-! DEFINITION. Machine/Status.lean: the status words of the blocks (Tables 5-6, 9-13, 9-17, 12-11) and the muster records
that they latch (R138, R170, R207, R259, R292, R312, R341, R391, R420). -/

namespace Sys2Proof.Machine

open Sys2Proof

/-! ### Status words -/

/-- `GOV_STATUSn` (Table 5-6). -/
def govStatus (s : State) (d : Fin 2) : BitVec 32 :=
  let g := s.gov.die[d]
  BitVec.ofNat 32 (b2n g.sat * 2 ^ 31 + b2n (unsafeOn s d) * 2 ^ 30 + b2n g.avsFault * 2 ^ 29 + b2n g.therm * 2 ^ 28
    + b2n (frozen s) * 2 ^ 27 + g.reason.toNat * 2 ^ 24 + g.minSlack.toNat * 2 ^ 16 + g.vread % 1024 * 2 ^ 6 + (g.vset - 600) / 5)

/-- `HP_STATUS.GRACE_LEFT`: whole milliseconds of the grace that remain. -/
def graceLeft (s : State) (p : Fin 2) : Nat :=
  let h := s.hosts.port[p]
  if h.grace then (h.graceEnd - s.dev.yard) / 1000000 else 0

/-- `HP_STATUS` (Table 12-11). -/
def hpStatus (s : State) (p : Fin 2) : BitVec 32 :=
  let h := s.hosts.port[p]
  BitVec.ofNat 32 (p.val * 2 ^ 31 + b2n h.linkUp * 2 ^ 30 + h.speed * 2 ^ 27 + h.width * 2 ^ 24 + b2n h.l1 * 2 ^ 23
    + b2n h.grace * 2 ^ 22 + b2n h.bme * 2 ^ 21 + graceLeft s p)

/-- `HP_SEMHELD`: bit s: the port owns semaphore s. -/
def semHeld (s : State) (p : Fin 2) : Nat := maskOf ((List.range 64).filter (ownsSem s p))

/-- Entries in the trigger log of a link's group, shown by its master (R239, R258). -/
def logCount (s : State) (n : Fin 128) : Nat := if masterOf s n = n then s.cxp.groups[n].log.length else 0

/-- `CXP_STATUS` (Table 9-13). -/
def cxpStatus (s : State) (n : Fin 128) : BitVec 32 :=
  let l := s.cxp.links[n]
  let m := masterOf s n
  let g := s.cxp.groups[m].set
  BitVec.ofNat 32 (linkCode l.state * 2 ^ 28 + l.rate * 2 ^ 25 + l.gsize * 2 ^ 23 + b2n (isMaster s n) * 2 ^ 22
    + (n.val - m.val) * 2 ^ 19 + b2n (g.lanes == 4) * 2 ^ 18 + b2n g.adapt * 2 ^ 17 + b2n l.pocxp * 2 ^ 16
    + l.eq.toNat * 2 ^ 8 + l.conn.toNat % 256)

/-- `CXP_MUST` (Table 9-17). -/
def cxpMust (s : State) (n : Fin 128) : BitVec 32 :=
  let l := s.cxp.links[n]
  BitVec.ofNat 32 (linkCode l.state * 2 ^ 28 + logCount s n * 2 ^ 17 + fifoLevel l)

/-- The north engine's next frame (`FTL_POS`). -/
def ftlPos (s : State) : Nat := sweepAddr 0 s.cfg.ftlPos[0]

/-! ### Records -/

def recordOfBytes (l : List Byte) : BitVec 256 := BitVec.ofNat 256 (leNat l)

/-- The head of every record: the sequence number and the yard time of the latch. -/
def recordHead (seq t : Nat) : List Byte := leBytes 4 seq ++ leBytes 8 t

/-- A caster's record (Table 6-12). -/
def casterRecord (h : Caster) (seq t : Nat) : BitVec 256 :=
  recordOfBytes (recordHead seq t ++ leBytes 1 (casterCode h) ++ leBytes 1 h.fault.toNat ++ leBytes 2 h.kernel.toNat
    ++ leBytes 2 h.pc.toNat ++ leBytes 2 0 ++ leBytes 4 (curFlow h) ++ leBytes 4 (curSeq h) ++ leBytes 4 h.items.toNat)

/-- A link's record (R259). -/
def linkRecord (s : State) (n : Fin 128) (seq t : Nat) : BitVec 256 :=
  let l := s.cxp.links[n]
  recordOfBytes (recordHead seq t ++ leBytes 1 (linkCode l.state) ++ leBytes 1 (logCount s n) ++ leBytes 2 0
    ++ leBytes 4 (fifoLevel l) ++ leBytes 4 l.lines.toNat ++ leBytes 4 (if masterOf s n = n then l.lastSeq.toNat else 0) ++ leBytes 4 l.lastStart)

/-- A host port's record (R341). -/
def hostRecord (s : State) (p : Fin 2) (seq t : Nat) : BitVec 256 :=
  recordOfBytes (recordHead seq t ++ leBytes 4 (hpStatus s p).toNat ++ leBytes 4 s.hosts.port[p].cntCmd.toNat
    ++ leBytes 8 (semHeld s p) ++ leBytes 4 0)

/-- A paddock's record (Table 16-2). -/
def pdkRecord (d : Paddock) (seq t state : Nat) (took inc : Bool) (unrest : Nat) : BitVec 256 :=
  recordOfBytes (recordHead seq t ++ leBytes 1 state ++ leBytes 1 (b2n took + 2 * b2n inc + 4 * b2n d.secure)
    ++ leBytes 2 unrest ++ leBytes 4 d.drain.toNat ++ leBytes 4 d.tapCount.toNat ++ leBytes 4 d.err.toNat ++ leBytes 4 0)

/-- The common record. -/
def commonRecord (s : State) : List Byte :=
  leBytes 4 s.mus.seq.toNat ++ leBytes 8 s.mus.time.toNat ++ leBytes 1 s.mus.lsrc.toNat
    ++ leBytes 1 (b2n s.mus.cutInc + 2 * b2n (s.mus.seq != 0 && !s.mus.busy)) ++ leBytes 2 0 ++ leBytes 4 s.mus.cutDur.toNat
    ++ leBytes 8 s.mus.part.toNat ++ leBytes 8 s.mus.incMask.toNat ++ leBytes 4 s.mus.cntMissed.toNat ++ leBytes 8 0

/-- The record that MUSTER_READ returns; none for an instance beyond the block's range, or a block that is none. -/
def musterRecord (s : State) (block n : Nat) : Option (List Byte) :=
  let within := fun k (l : List Byte) => if n < k then some l else none
  match block with
  | 0 => within 1 (commonRecord s)
  | 1 => within 64 (leBytes 32 (pdkAt s n).record.toNat)
  | 2 => within 256 (leBytes 32 (vget ({} : Caster) s.cast n).must.toNat)
  | 3 => within 128 (leBytes 32 (vget ({} : Link) s.cxp.links n).record.toNat)
  | 4 =>
    let h := vget ({} : Channel) s.ddr.chan n
    within 8 (recordHead h.mustSeq.toNat h.mustT.toNat ++ leBytes 4 h.mustRd.toNat ++ leBytes 4 h.mustWr.toNat
      ++ leBytes 4 h.mustStatus.toNat)
  | 5 => within 2 (leBytes 32 (vget ({} : Port) s.hosts.port n).record.toNat)
  | 6 => within 1 (s.sch.must.toList.flatMap fun w => leBytes 4 w.toNat)
  | 7 => within 1 (recordHead s.trig.mustSeq.toNat s.trig.mustT.toNat ++ leBytes 4 0
      ++ s.trig.enc.toList.flatMap fun e => leBytes 8 e.must.toNat)
  | 8 => within 1 (recordHead s.mus.govSeq.toNat s.mus.govT.toNat ++ leBytes 4 s.gov.die[0].must.toNat
      ++ leBytes 4 s.gov.die[1].must.toNat)
  | _ => none

end Sys2Proof.Machine
end

