-- ==== Sys2Proof/Machine/Muster.lean ====
section
/-! DEFINITION. Machine/Muster.lean: muster requests and strobes (R413 to R415), the fabric cut (R416 to R418), the
acknowledgement (R419) and the muster commands. -/

namespace Sys2Proof.Machine

open Sys2Proof

/-! ### The strobe (R414, R415) -/

/-- The sequence number after one: it never is 0. -/
def nextSeqNo (v : BitVec 32) : BitVec 32 := if v = 0xFFFFFFFF then 1 else v + 1

/-- The paddocks that take part in a cut (R416). -/
def participates (d : Paddock) : Bool := d.state == .live || d.state == .isolated || d.state == .faulted

/-- The yard time at which the `i`-th block latches: within 40 ns of the strobe (R415, log entry 3). -/
def latchTime (s : State) (i : Nat) : Nat := s.dev.yard + Config.freeNat (s.free + i) % 41

/-- The clocked blocks latch their records. -/
def latchBlocks (s : State) : State :=
  let seq := s.mus.seq
  let n := seq.toNat
  let t64 := fun i => BitVec.ofNat 64 (latchTime s i)
  let casts := vmapI s.cast fun c h => { h with must := casterRecord h n (latchTime s c) }
  let links := vmapI s.cxp.links fun l x =>
    { x with must := cxpMust s (Fin.ofNat 128 l), record := linkRecord s (Fin.ofNat 128 l) n (latchTime s (256 + l)) }
  let chans := vmapI s.ddr.chan fun c h =>
    { h with mustSeq := seq, mustT := t64 (384 + c), mustRd := h.cntRd, mustWr := h.cntWr, mustStatus := memStatus s (Fin.ofNat 8 c) }
  let ports := vmapI s.hosts.port fun p h =>
    { h with mustSeq := seq, mustT := t64 (392 + p), record := hostRecord s (Fin.ofNat 2 p) n (latchTime s (392 + p)) }
  let sch : Vector (BitVec 32) 8 :=
    #v[seq, BitVec.ofNat 32 (latchTime s 394), BitVec.ofNat 32 (latchTime s 394 / 2 ^ 32), BitVec.ofNat 32 s.sch.used,
       BitVec.ofNat 32 s.sch.pages.length, s.sch.cnt.enq, s.sch.cnt.disp, s.sch.cnt.rel]
  let govs := vmapI s.gov.die fun d g => { g with must := govStatus s (Fin.ofNat 2 d) }
  { s with cast := casts, cxp.links := links, ddr.chan := chans, hosts.port := ports, sch.must := sch,
           trig.mustSeq := seq, trig.mustT := t64 395, trig.enc := s.trig.enc.map (fun (e : Encoder) => { e with must := e.pos }),
           gov.die := govs, mus.govSeq := seq, mus.govT := t64 396,
           cfg.mustSeq := seq, cfg.mustT := t64 397,
           cfg.mustPos := BitVec.ofNat 32 (b2n s.cfg.pour.isSome * 2 ^ 31 + ftlPos s),
           pdk := vmapI s.pdk fun k d =>
             { d with record := pdkRecord d n (latchTime s (398 + k)) (pdkCode d.state) (participates d) false 0 },
           free := s.free + 462 }

/-- A strobe for the requests that wait: the cut's hold begins, and no rail is lowered (R132). -/
def strobe (s : State) : State :=
  let part := BitVec.ofNat 64 (maskOf ((List.range 64).filter fun k => participates (pdkAt s k)))
  let s := { s with mus := { s.mus with seq := nextSeqNo s.mus.seq, time := BitVec.ofNat 64 s.dev.yard, lsrc := s.mus.pend,
                                        pend := 0, busy := true, unack := true, part := part, hold := true,
                                        holdAt := s.dev.yard },
                    gov.musterFreeze := true }
  let s := (List.finRange 96).foldl (fun s g =>
    let p : Gpio := s.pins.gpio[g]
    if p.actFunc == 7 && p.actRole == 1 && !p.switching then s.emitPad (.musterPulse g.val) else s) s
  latchBlocks s

/-- `MUSTER_REQUEST`: in the hub cycle after a request, a strobe is issued unless the logic is busy. -/
def execMusterRequest (s : State) : Host.Outcome State Fault Refusal :=
  .next (if s.mus.pend ≠ 0 ∧ !s.mus.busy ∧ musterState s.dev.state then strobe s else s)

/-! ### Sources (Table 16-1) -/

/-- A source's requests are heard. -/
def sourceOn (s : State) (src : Nat) : Bool := musterState s.dev.state && s.mus.src.getLsbD src

/-- `MUSTER_PIN`: a muster input has been high for 20 ns since it rose. -/
def execMusterPin (n : Fin 96) (s : State) : Host.Outcome State Fault Refusal :=
  let p := s.pins.gpio[n]
  .next (match p.highAt with
  | some t =>
    if p.actFunc = 7 ∧ p.actRole = 0 ∧ p.pad ∧ !p.switching ∧ t + 20 ≤ s.dev.yard then
      let s := s.modGpio n fun p => { p with highAt := none }
      let s := if sourceOn s 1 then { s with mus.cntPin := s.mus.cntPin + 1 } else s
      musterRequest s 1
    else s
  | none => s)

/-- `FABRIC_MUSTER_REQUEST`: a token of die `n`'s request port comes out of its crossing (R413, R447). A request of a source that
is not enabled is ignored and not counted. -/
def execFabricMusterRequest (n : Fin 2) (s : State) : Host.Outcome State Fault Refusal :=
  .next (if s.pins.musPend[n] = 0 then s
    else
      let s := { s with pins.musPend := vmod s.pins.musPend n (· - 1) }
      musterRequest (if sourceOn s 5 then { s with mus.cntFreq := s.mus.cntFreq + 1 } else s) 5)

/-! ### The cut (R416, R417) -/

/-- The paddock in which a channel of the table lies. -/
def chanPdk (x : Nat) : Nat :=
  if x < 262144 then x / 4096
  else if x < 393216 then (x - 262144) / 2048
  else if x < 458752 then (x - 393216) / 1024
  else if x < 460800 then (x - 458752) / 32
  else if x < 461312 then (adapterEnd ((x - 460800) / 4) 0).k
  else if x < 465408 then (x - 461312) / 64
  else if x < 500000 then (pinPort (x - 465408)).1
  else if x < 1600000 then (x - 500000) / 16384
  else (x - 1600000) / 16384

/-- A channel is at rest: spacer, or a complete token; a carry channel has two rails. -/
def atRest (x : Nat) (r : BitVec 16) : Bool :=
  r == 0 || (if 262144 ≤ x ∧ x < 393216 then r == 1 || r == 2 else complete r)

/-- A paddock is quiescent. -/
def quiet (s : State) (k : Nat) : Bool := s.fab.chans.all fun e => chanPdk e.1 != k || atRest e.1 e.2.rails

/-- A stall with a channel that is not at rest. -/
def stallUnrest (s : State) (k n : Nat) : Bool :=
  ([0, 1].any fun o => !atRest 0 (s.chan (srcKey (.out k n o))).rails) ||
  (List.range 4).any fun p => !atRest 0 (seen s (.port k n p))

/-- The state bits of a stall (Table 14-5). -/
def stallState (s : State) (k n : Nat) : Nat :=
  let x := stallSt s k n
  let full := fun o => b2n ((s.chan (srcKey (.out k n o))).rails != 0)
  x.held.toNat + full 0 * 2 ^ 18 + full 1 * 2 ^ 19 +
    (List.range 4).foldl (fun a p => a + b2n (complete (seen s (.port k n p))) * 2 ^ (20 + p)) 0 +
    b2n (chainIn s k n).isSome * 2 ^ 24 + b2n x.fault * 2 ^ 25

/-- A participating paddock latches its state frames and its record; the bits of a stall that is not at rest are free
(R416, log entry 3). -/
def latchPdk (s : State) (k : Fin 64) : State :=
  let l := writtenStalls s k.val
  let bad := l.filter (stallUnrest s k.val)
  let word := fun n => if bad.contains n then (BitVec.ofNat 64 (Config.freeNat (s.free + n))) &&& 0x3FCFFFF
    else BitVec.ofNat 64 (stallState s k.val n)
  let frames := l.foldl (fun t n => tput 0 t (2048 * k.val + n) (word n)) (tdrop (fun x => x / 2048 == k.val) s.cfg.stateFrames)
  let was := fld s.pdk[k].record 96 8
  let inc := !quiet s k.val
  let s1 := { s with cfg.stateFrames := frames, free := s.free + 2049 }
  s1.modPdk k fun d =>
    { d with record := pdkRecord d s.mus.seq.toNat (latchTime s 2048) was true inc bad.length }

/-- The job of an unfinished RELEASE_PADDOCK of a paddock. -/
def releaseJob (s : State) (k : Fin 64) : Option Nat :=
  (s.cmdp.jobs.find? fun j => match j.kind with | .release p => p == k.val | _ => false).map (·.id)

/-- A change that waited for the release (R418). -/
def runDeferred (s : State) (x : Deferred × Nat) : State :=
  let k : Fin 64 := Fin.ofNat 64 x.2
  match x.1 with
  | .userReset => assertReset s k
  | .resetRelease => releaseReset s k
  | .admissionStop => isolateIn s k
  | .limitExpired => parkPaddock s k (outBusy s k.val)
  | .faulted => toFaulted s k
  | .release => match releaseJob s k with
    | some id => releaseNow s id k
    | none => s
  | .reRelease => match releaseJob s k with
    | some id => releaseAgain s id k
    | none => s
  | .loading =>
    match s.cfg.pour with
    | some p => if p.accepted && p.mask.getLsbD k.val then toLoading s (p.secure.getLsbD k.val) k else tornPaddock (toLoading s false k) 4 k
    | none => tornPaddock (toLoading s false k) 4 k

/-- Paddocks that the cut holds. -/
def heldPdks (s : State) : List (Fin 64) := maskList s.mus.part

/-- The hold is lifted: waiting changes happen, and the fabric goes on. -/
def releaseCut (s : State) : State :=
  let l := heldPdks s
  let waiting := s.mus.deferred
  let s := lowerHeldRails { s with mus.hold := false, mus.deferred := [], gov.musterFreeze := false }
  let s := waiting.foldl runDeferred s
  let s := l.foldl (fun s k => refit s k.val) s
  resumeLanes s (l.flatMap fun k => arrivalLanes k.val)

/-- Latch and release; the muster is complete (R414, R415). -/
def endCut (s : State) (expired : Bool) : State :=
  let l := heldPdks s
  let inc := l.filter fun k => !quiet s k.val
  let dur := min (s.mus.timeout + 110) (s.dev.yard - s.mus.holdAt + Config.freeNat s.free % 111)
  let s := l.foldl latchPdk { s with free := s.free + 1 }
  let s := { s with mus := { s.mus with cutInc := !inc.isEmpty, incMask := BitVec.ofNat 64 (maskOf (inc.map (·.val))),
                                        inc := s.mus.inc || !inc.isEmpty, cutDur := BitVec.ofNat 17 dur, busy := false } }
  let s := raiseEvent (releaseCut s) 7
  (s.cmdp.jobs.filter fun j => match j.kind with | .musterFire _ => true | _ => false).foldl
    (fun s j => finishJob s j.id .done (b2n expired) []) s

/-- `CUT_LATCH`: every participating paddock is quiescent. -/
def execCutLatch (s : State) : Host.Outcome State Fault Refusal :=
  .next (if s.mus.hold && (heldPdks s).all fun k => quiet s k.val then endCut s false else s)

/-- `CUT_TIMEOUT`: the timeout has run out while a paddock is not quiescent. -/
def execCutTimeout (s : State) : Host.Outcome State Fault Refusal :=
  .next (if s.mus.hold && (heldPdks s).any fun k => !quiet s k.val then endCut s true else s)

/-- A write of `MUS_ACK` (R419): the number of the last muster, once it is complete. -/
def musAckWrite (s : State) (v : BitVec 32) : State :=
  if !s.mus.busy && v == s.mus.seq then { s with mus.unack := false } else s

/-- `MUS_ACK`. -/
def execMusAck (v : BitVec 32) (s : State) : Host.Outcome State Fault Refusal :=
  .next (if regsOpen s then musAckWrite s v else s)

/-! ### Commands -/

def musterArmSpec : CmdSpec where
  opcode := 0x0700
  states := stHPSDR
  size := sizeIs 16
  params := fun c _ =>
    let t := orDefault (par c 4 4) 2000
    let e := par c 8 4
    paramChecks (par c 0 2 < 64 && resZero c 3 1 && resZero c 12 4)
      (decide (par c 2 1 ≤ 1) && decide (100 ≤ t) && decide (t ≤ 100000) && !e.testBit 7 && decide (e < 2 ^ 13))

def musterArmBody (c : Cmd) (s : State) : Except Deny State :=
  let s := doneWith c s []
  .ok { s with mus := { s.mus with src := BitVec.ofNat 6 (par c 0 2), latest := par c 2 1 == 1,
                                   timeout := orDefault (par c 4 4) 2000, errMask := BitVec.ofNat 13 (par c 8 4) } }

/-- `MUSTER_ARM` (R413): the settings apply to requests after the reply. -/
def execMusterArm (c : Cmd) (s : State) : Host.Outcome State Fault Refusal := .next (runCmd musterArmSpec musterArmBody c s)

def musterFireSpec : CmdSpec where
  opcode := 0x0701
  states := stHPSDR
  size := sizeIs 0
  isLong := fun _ _ => true

def musterFireBody (c : Cmd) (s : State) : Except Deny State :=
  if !s.mus.src.getLsbD 0 then .error (denyDev .stateRefused s)
  else if musterMissed s then .error (denyDev .busy s)
  else
    let seq := nextSeqNo s.mus.seq
    .ok (musterRequest (startJob c s (.musterFire seq) (leBytes 4 seq.toNat)) 0)

/-- `MUSTER_FIRE` (R415). -/
def execMusterFire (c : Cmd) (s : State) : Host.Outcome State Fault Refusal := .next (runCmd musterFireSpec musterFireBody c s)

def musterReadSpec : CmdSpec where
  opcode := 0x0702
  states := stAll
  size := sizeIs 8
  params := fun c s =>
    paramChecks (resZero c 1 1 && resZero c 4 4) (musterRecord s (par c 0 1) (par c 2 2)).isSome

def musterReadBody (c : Cmd) (s : State) : Except Deny State :=
  .ok (doneWith c s ((musterRecord s (par c 0 1) (par c 2 2)).getD []))

/-- `MUSTER_READ` (R420). -/
def execMusterRead (c : Cmd) (s : State) : Host.Outcome State Fault Refusal := .next (runCmd musterReadSpec musterReadBody c s)

end Sys2Proof.Machine
end

