-- ==== Sys2Proof/Machine/Rings.lean ====
section
/-! DEFINITION. Machine/Rings.lean: the host ports (12_host_ports.md): rings and their indices, interrupt moderation,
semaphores, the loss of a port and its grace, configuration space, BAR2 and BAR4. -/

namespace Sys2Proof.Machine

open Sys2Proof

/-! ### Access from a port (R314, R316, R452) -/

/-- A memory access of port `p` is served: its link is up, memory space is enabled, the function is in D0, and the start has
not ended in STARTING, where only the sideband is served (R396). -/
def reaches (s : State) (p : Fin 2) : Bool :=
  s.hosts.port[p].linkUp && s.hosts.port[p].mse && !s.hosts.port[p].d3 && !s.dev.stuck

/-- In STARTING a port's writes to its own block and mailbox window are held. -/
def holdsWrites (s : State) : Bool := s.dev.state == .starting && !s.dev.heldInReset

/-- A write held until the device leaves STARTING (R333, R452): address, value and the bytes of a command's host buffer. -/
def holdWrite (s : State) (p : Fin 2) (addr : Nat) (v : BitVec 32) (buf : Option (List Byte)) : State :=
  s.modPort p fun h => { h with held := h.held ++ [(addr, v, buf)] }

/-- Address of a host port register. -/
def hpAddr (p : Fin 2) (off : Nat) : Nat := 0x10000 + 0x8000 * p.val + off

/-- A write by port `w` to the block of port `p`, whose effect is `f` (R316, R452). -/
def ownWrite (s : State) (w p : Fin 2) (off : Nat) (v : BitVec 32) (buf : Option (List Byte)) (f : State → State) : State :=
  if !reaches s w then s
  else if w ≠ p then hpErr s w hpAcc
  else if holdsWrites s then holdWrite s p (hpAddr p off) v buf
  else if served s then f s
  else s

/-- The value returned to a read of port `p`. -/
def readReply (s : State) (p : Fin 2) (v : Nat) : State := s.emit (.readData p (leBytes 4 v))

/-! ### Ring configuration (R327, Table 12-10) -/

/-- The slot words of a result ring at its enable, in host placement: lap 0 with `NOT_READY`. -/
def unreadySlots (r : Ring) : List (Nat × List Byte) :=
  (List.range (ringN r)).map fun k => (r.base.toNat + slotOff (ringN r) k + 64, leBytes 4 (2 ^ 31))

/-- Window `r` at its ring's enable: everything 0 but the slot words (R334, R335). -/
def emptyWindow (m : Tab Byte) (r : Nat) (n : Nat) : Tab Byte :=
  (List.range n).foldl (fun m k => tput 0 m (r * 2 ^ 23 + slotOff n k + 67) 0x80) (tdrop (fun k => k / 2 ^ 23 == r) m)

/-- The enable of ring `i`: ENABLING, both indices 0, the control page and the slot words written. -/
def enableRing (s : State) (p : Fin 2) (i : Fin 24) : State :=
  let s := s.modRing p i fun r => { r with en := true, state := .enabling, dev := 0, host := 0 }
  let r := s.ring p i
  if r.place then
    s.modPort p fun h => { h with windows := emptyWindow h.windows (i.val - 8) (ringN r) }
  else
    hostOut s p ((r.base.toNat, List.replicate 4096 0) :: (if i.val < 8 then [] else unreadySlots r))

def disableRing (s : State) (p : Fin 2) (i : Fin 24) : State :=
  s.modRing p i fun r => { r with en := false, state := .disabled }

/-- `LOG2` in range for the placement. -/
def log2Ok (place : Bool) (n : Nat) : Bool := decide (6 ≤ n) && decide (n ≤ if place then 8 else 16)

/-- The fields of `HP_RCFG` that a write changes: `PLACE` and `LOG2` only while `EN` is 0. -/
def rcfgFields (i : Fin 24) (v : BitVec 32) (r : Ring) : Ring :=
  let place := if r.en then r.place else decide (8 ≤ i.val) && v.getLsbD 28
  let log2 := if !r.en && log2Ok place (fld v 0 5) then fld v 0 5 else r.log2
  { r with place := place, log2 := log2, imod := BitVec.ofNat 8 (fld v 16 8), ven := v.getLsbD 15,
           vec := BitVec.ofNat 6 (fld v 8 6) }

/-- The ring that `HP_RINGSEL` names. -/
def selRing (s : State) (p : Fin 2) : Fin 24 := Fin.ofNat 24 s.hosts.port[p].ringSel.toNat

/-- A write of `HP_RCFG`. -/
def rcfgWrite (s : State) (p : Fin 2) (v : BitVec 32) : State :=
  let i := selRing s p
  let was := (s.ring p i).en
  let s := s.modRing p i (rcfgFields i v)
  if v.getLsbD 31 && !was then enableRing s p i
  else if !v.getLsbD 31 && was then disableRing s p i
  else s

/-- `RING_ENABLE`: a write of `HP_RCFG` with `EN` 1. -/
def execRingEnable (by_ p : Fin 2) (v : BitVec 32) (s : State) : Host.Outcome State Fault Refusal :=
  let v := v ||| 0x80000000
  .next (ownWrite s by_ p 0x3C v none fun s => rcfgWrite s p v)

/-- `RING_DISABLE`: a write of `HP_RCFG` with `EN` 0. -/
def execRingDisable (by_ p : Fin 2) (v : BitVec 32) (s : State) : Host.Outcome State Fault Refusal :=
  let v := v &&& 0x7FFFFFFF
  .next (ownWrite s by_ p 0x3C v none fun s => rcfgWrite s p v)

/-- `RING_ACTIVE`: the writes of the enable are done. -/
def execRingActive (p : Fin 2) (r : Fin 24) (s : State) : Host.Outcome State Fault Refusal :=
  .next (if (s.ring p r).state = .enabling ∧ s.hosts.port[p].dmaHeld = [] then s.modRing p r fun r => { r with state := .active } else s)

/-! ### Indices (R328, R334) -/

/-- A write of `HP_SQ_TAILn`. -/
def sqTailWrite (s : State) (p : Fin 2) (n : Fin 4) (v : BitVec 32) : State :=
  let r := s.ring p (sqOf n)
  if (v - r.dev).toNat ≤ ringN r then s.modRing p (sqOf n) fun r => { r with host := v } else hpErr s p hpDb

/-- A write of `HP_RQ_HEADn`. -/
def rqHeadWrite (s : State) (p : Fin 2) (n : Fin 4) (v : BitVec 32) : State :=
  let r := s.ring p (rqOf n)
  if (v - r.host).toNat ≤ (r.dev - r.host).toNat then s.modRing p (rqOf n) fun r => { r with host := v }
  else hpErr s p hpDb

/-- The lap words of the released slots, from index `i` on modulo 2^32, `k` of them, rewritten with `NOT_READY`. -/
def freeSlots (s : State) (p : Fin 2) (r : Fin 16) (i : Nat) : Nat → State
  | 0 => s
  | k + 1 =>
    let n := ringN (s.ring p (rrOf r))
    freeSlots (ringWrite s p r (slotOff n i + 64) (leBytes 4 (lapWord n i true))) p r ((i + 1) % 2 ^ 32) k

/-- A write of `HP_RR_RELr`: a window ring shows the release index in its control page. -/
def rrRelWrite (s : State) (p : Fin 2) (r : Fin 16) (v : BitVec 32) : State :=
  let h := s.ring p (rrOf r)
  let k := (v - h.host).toNat
  if k ≤ (h.dev - h.host).toNat then
    let s := freeSlots s p r h.host.toNat k
    let s := if h.place then ringWrite s p r 4 (leBytes 4 v.toNat) else s
    s.modRing p (rrOf r) fun h => { h with host := v }
  else hpErr s p hpRel

/-- `HP_SQ_TAIL`. -/
def execHpSqTail (by_ p : Fin 2) (n : Fin 4) (v : BitVec 32) (s : State) : Host.Outcome State Fault Refusal :=
  .next (ownWrite s by_ p (0x80 + 4 * n.val) v none fun s => sqTailWrite s p n v)

/-- `HP_RQ_HEAD`. -/
def execHpRqHead (by_ p : Fin 2) (n : Fin 4) (v : BitVec 32) (s : State) : Host.Outcome State Fault Refusal :=
  .next (ownWrite s by_ p (0x90 + 4 * n.val) v none fun s => rqHeadWrite s p n v)

/-- `HP_RR_REL`. -/
def execHpRrRel (by_ p : Fin 2) (r : Fin 16) (v : BitVec 32) (s : State) : Host.Outcome State Fault Refusal :=
  .next (ownWrite s by_ p (0xC0 + 4 * r.val) v none fun s => rrRelWrite s p r v)

/-- `REPLY_WRITE` (R330): the first reply that waits is written once its slots are free. -/
def execReplyWrite (p : Fin 2) (n : Fin 4) (s : State) : Host.Outcome State Fault Refusal :=
  let r := s.ring p (rqOf n)
  .next (match r.waiting with
  | [] => s
  | w :: rest =>
    if replyFits r w.bytes.length then
      writeReply (s.modRing p (rqOf n) fun r => { r with waiting := rest }) p n w.bytes
    else s)

/-- `IMOD_EXPIRY` (R319): one message for the updates made during the moderation time, which then starts again. -/
def execImodExpiry (p : Fin 2) (r : Fin 24) (s : State) : Host.Outcome State Fault Refusal :=
  let h := s.ring p r
  .next (if !h.imodOn then s
  else
    let s := s.modRing p r fun h => { h with imodOn := false, imodPend := false }
    if h.imodPend then ringMessage s p r else s)

/-! ### Semaphores (R321 to R324) -/

/-- `SEM_s` (Table 12-3). -/
def semWord (x : Sem) : Nat :=
  b2n x.free * 2 ^ 31 + b2n x.tie * 2 ^ 29 + b2n x.lost * 2 ^ 28
    + (match x.owner with | none => 0 | some q => q.val + 1) * 2 ^ 26 + x.takes.toNat

def State.modSem (s : State) (n : Fin 64) (f : Sem → Sem) : State := { s with hosts.sem := vmod s.hosts.sem n f }

/-- One read of `SEM_s` by port `p`; it returns 0 before HALTER (R314). -/
def semRead (s : State) (p : Fin 2) (n : Fin 64) : State :=
  if !served s then readReply s p 0
  else
    let x := s.hosts.sem[n]
    let s := readReply s p (semWord x)
    if x.free then s.modSem n fun x => { x with free := false, owner := some p, takes := x.takes + 1, lost := false } else s

/-- Reads of both ports in one hub cycle (R323). -/
def semReadBoth (s : State) (n : Fin 64) : State :=
  if !served s then semRead (semRead s 0 n) 1 n
  else
    let first : Fin 2 := if s.hosts.sem[n].tie then 1 else 0
    let s := semRead (semRead s first n) (1 - first) n
    s.modSem n fun x => { x with tie := !x.tie }

/-- `SEM_TAKE`: a read by port `p`, or reads by both ports in the same hub cycle. -/
def execSemTake (p : Fin 2) (both : Bool) (n : Fin 64) (s : State) : Host.Outcome State Fault Refusal :=
  .next (if both && reaches s 0 && reaches s 1 then semReadBoth s n
  else if reaches s p then semRead s p n
  else s)

/-- A write of `SEM_s`. -/
def semWrite (s : State) (p : Fin 2) (n : Fin 64) (v : BitVec 32) : State :=
  if !v.getLsbD 30 then s
  else if s.hosts.sem[n].owner = some p then s.modSem n fun x => { x with free := true, owner := none }
  else s.modPort p fun h => { h with cntSemign := h.cntSemign + 1 }

/-- `SEM_RELEASE`. -/
def execSemRelease (p : Fin 2) (n : Fin 64) (v : BitVec 32) (s : State) : Host.Outcome State Fault Refusal :=
  .next (if reaches s p && served s then semWrite s p n v else s)

/-- A write of `HP_CTL` (R324). -/
def hpCtlWrite (s : State) (p : Fin 2) (v : BitVec 32) : State :=
  if v.getLsbD 0 then s.modPort p fun h => { h with grace := false, graceEnd := 0 } else s

/-- `CLAIM`. -/
def execClaim (by_ p : Fin 2) (v : BitVec 32) (s : State) : Host.Outcome State Fault Refusal :=
  .next (ownWrite s by_ p 0x08 v none fun s => hpCtlWrite s p v)

/-- The grace timer of port `p` expires (R324, R336). -/
def expireGrace (s : State) (p : Fin 2) : State :=
  let freed := s.hosts.sem.toList.any fun x => x.owner == some p
  let s := { s with hosts.sem := s.hosts.sem.map fun (x : Sem) =>
               if x.owner = some p then { x with free := true, owner := none, lost := true } else x }
  let s := s.modPort p fun h => { h with grace := false, graceEnd := 0, rings := vmapI h.rings fun i (r : Ring) =>
               if 8 ≤ i ∧ r.state ≠ .active then { r with state := .discard } else r }
  if freed then raiseEvent (hpErr s p hpSemLost) 1 else s

/-- `GRACE_EXPIRY`. -/
def execGraceExpiry (p : Fin 2) (s : State) : Host.Outcome State Fault Refusal :=
  .next (if s.hosts.port[p].grace && decide (s.hosts.port[p].graceEnd ≤ s.dev.yard) then expireGrace s p else s)

/-! ### Loss of a port (R324, R337) -/

/-- A ring when its port is lost: DISABLED, its indices and configuration kept; its waiting replies are discarded. A ring
in DISCARD stays so until the port enables it (R336). -/
def loseRing (r : Ring) : Ring :=
  { r with en := false, state := if r.state = .discard then .discard else .disabled, imodOn := false, imodPend := false,
           waiting := [] }

/-- Configuration space at a loss of the kind `why`, as the standard resets it: only `PERST_x_L` resets the registers of
Advanced Error Reporting, which are sticky, and a function-level reset keeps Max_Payload_Size and the Link Control fields. -/
def resetConfig (why : LossKind) (h : Port) : Port :=
  let h := { h with bme := false, mse := false, msixEn := false, msixMask := false, bar0 := 0, bar2 := 0, bar4 := 0, d3 := false,
                    devCtl := if why = .flr then (0x2910 &&& ~~~(0xE0 : BitVec 16)) ||| (h.devCtl &&& 0xE0) else 0x2910,
                    linkCtl := if why = .flr then h.linkCtl else 0, devCtl2 := 0, pciSta := 0, devSta := 0 }
  if why = .perst then { h with aerMask := 0x400000, aerSev := 0x462030, aerCor := 0xE000, aerSta := 0 } else h

/-- The port's own state: configuration space and the selectors at their reset values; DMA writes that wait are abandoned. -/
def losePort (why : LossKind) (h : Port) : Port :=
  { resetConfig why h with
           l1 := false, dmaHeld := [],
           msix := Vector.replicate 64 {}, aper := 0, vecSel := 0, vecMap := Vector.replicate 13 {}, ringSel := 0,
           rings := h.rings.map loseRing, epoch := h.epoch + 1 }

/-- A command of a ring of port `p`. -/
def ringOfPort (p : Fin 2) : CmdSrc → Bool
  | .ring q _ => p == q
  | _ => false

/-- Replies that wait and commands fetched but not begun are discarded. -/
def discards (s : State) (p : Fin 2) : Bool :=
  (s.hosts.port[p].rings.toList.any fun r => !r.waiting.isEmpty) || s.cmdp.held.any fun c => ringOfPort p c.src

/-- The trace to a ring behind the port is lost (R225), and every preview behind it stops (R253). -/
def loseStreams (s : State) (p : Fin 2) : State :=
  { s with trc.destLost := s.trc.destLost || (s.trc.en && s.trc.dest == p.val + 1),
           cxp.groups := s.cxp.groups.map fun g => if g.store.pport = some p.val then { g with store.pport := none } else g }

/-- The job of the pour whose image lies in a host buffer of port `p`. -/
def hostPour (s : State) (p : Fin 2) : Bool :=
  match s.cfg.pour with
  | some q => q.fromHost && (findJob s q.job).any fun j => portOf j.src == some p
  | none => false

/-- The grace timer starts; a further loss while it runs does not restart it. -/
def startGrace (s : State) (p : Fin 2) : State :=
  let h := s.hosts.port[p]
  if h.grace then s
  else if h.semGrace = 0 then expireGrace s p
  else s.modPort p fun h => { h with grace := true, graceEnd := s.dev.yard + 1000000 * h.semGrace }

/-- The effects of Table 12-7 on port `p` of a loss of the kind `why`; `bit` of `HP_ERR` shows it. -/
def portLost (s : State) (p : Fin 2) (why : LossKind) (bit : Nat) : State :=
  let disc := discards s p
  let pour := hostPour s p
  let s := s.modPort p (losePort why)
  let s := loseStreams { s with cmdp.held := s.cmdp.held.filter fun c => !ringOfPort p c.src } p
  let s := if pour then stopTry s (pourStop .aborted 0 4 none) else s
  let s := if disc then hpErr s p hpRdisc else s
  hpErr (startGrace s p) p bit

/-- The data link goes down. -/
def dropLink (s : State) (p : Fin 2) : State :=
  hpErr (s.modPort p fun h => { h with linkUp := false, speed := 0, width := 0, l1 := false }) p hpLinkDown

/-- A loss of the kind `why`: a hot reset and `PERST_x_L` take the data link down with them. -/
def losePortBy (s : State) (p : Fin 2) (why : LossKind) : State :=
  let up := s.hosts.port[p].linkUp
  match why with
  | .linkDown => if up then portLost (s.modPort p fun h => { h with linkUp := false, speed := 0, width := 0, l1 := false }) p why hpLinkDown else s
  | .hotReset => if up then portLost (dropLink s p) p why hpReset else s
  | .flr => if up then portLost s p why hpReset else s
  | .perst =>
    if s.hosts.port[p].perst then s
    else portLost ((if up then dropLink s p else s).modPort p fun h => { h with perst := true, ready := false }) p why hpReset

/-- `PORT_LOSS`. -/
def execPortLoss (p : Fin 2) (why : LossKind) (s : State) : Host.Outcome State Fault Refusal :=
  .next (if s.dev.state = .off ∨ s.dev.state = .stabled ∨ s.dev.heldInReset then
    (match why with
      | .perst => s.modPort p fun h => { h with perst := true, ready := false }
      | _ => s)
  else losePortBy s p why)

/-- `PERST_x_L` deasserts, and the device with it `WAKE_x_L` (R314). -/
def perstRise (h : Port) : Port := if h.perst then { h with perst := false, wakeOut := false } else h

/-- `DATA_LINK_UP`: `PERST_x_L` is high, in whatever state; with a speed and a width the data link has come up as well. -/
def execDataLinkUp (p : Fin 2) (speed width : Nat) (s : State) : Host.Outcome State Fault Refusal :=
  let s := s.modPort p perstRise
  .next (if s.dev.state = .off ∨ s.dev.state = .stabled ∨ s.dev.heldInReset ∨ s.hosts.port[p].linkUp
      ∨ !(decide (1 ≤ speed) && decide (speed ≤ 5) && [1, 2, 4].contains width) then s
  else s.modPort p fun h => { h with linkUp := true, speed := speed, width := width })

/-! ### Configuration space and MSI-X (R313 to R315, R319) -/

/-- The DMA writes that wait go out once the function may send them, and after them the messages (R318). -/
def flushDma (s : State) (p : Fin 2) : State :=
  let h := s.hosts.port[p]
  if masters h then hostOut (s.modPort p fun h => { h with dmaHeld := [] }) p h.dmaHeld else s

/-- The messages that wait and may now be sent. -/
def flushMsix (s : State) (p : Fin 2) : State :=
  let h := s.hosts.port[p]
  if h.msixEn && h.linkUp && masters h && !h.msixMask then
    (List.finRange 64).foldl (fun s i =>
      let e := s.hosts.port[p].msix[i]
      if e.pend && !e.mask then
        (s.modPort p fun h => { h with msix := vmod h.msix i fun e => { e with pend := false } }).emit
          (.msix p e.addr.toNat e.data)
      else s) s
  else s

/-- A BAR's word: base bits from `lo` up, and the type bits. -/
def barLow (b : BitVec 64) (lo type : Nat) : Nat := b.toNat % 2 ^ 32 / 2 ^ lo * 2 ^ lo + type

/-- A dword of the standard's capabilities (Table 12-1, log entry 68): what is fixed, and the bits that the standard leaves to
the endpoint. -/
def pciCapRead (h : Port) (off : Nat) : Option (Nat × Nat) :=
  let e := Config.pcieCap
  let m := Config.pmCap
  let a := Config.aerCap
  if off = e then some (0x10 + 2 * 2 ^ 16, 0x3E00FF00)
  else if off = e + 0x04 then some (2 + 2 ^ 5 + 2 ^ 15 + 2 ^ 28, 0xFC0)
  else if off = e + 0x08 then some (h.devCtl.toNat + h.devSta.toNat * 2 ^ 16, 0)
  else if off = e + 0x0C then some (5 + 4 * 2 ^ 4 + 2 * 2 ^ 10 + 2 ^ 22, 0xFF07F000)
  else if off = e + 0x10 then some (h.linkCtl.toNat + (h.speed + h.width * 2 ^ 4) * 2 ^ 16, 2 ^ 28)
  else if off = e + 0x24 then some (0x1F, 0)
  else if off = e + 0x28 then some (h.devCtl2.toNat, 0)
  else if off = e + 0x2C then some (0x3E, 0)
  else if off = m then some (0x01 + 3 * 2 ^ 16, 0xF820FF00)
  else if off = m + 0x04 then some ((if h.d3 then 3 else 0) + 2 ^ 3, 0)
  else if off = a then some (0x0001 + 2 * 2 ^ 16, 0xFFF00000)
  else if off = a + 0x04 then some (h.aerSta.toNat, 0x1FA030)
  else if off = a + 0x10 then some (0, 0xF1C1)
  else if off = a + 0x08 then some (h.aerMask.toNat, 0)
  else if off = a + 0x0C then some (h.aerSev.toNat, 0)
  else if off = a + 0x14 then some (h.aerCor.toNat, 0)
  else none

/-- A dword of configuration space; one that the spec and the standard leave open is a free value. -/
def cfgRead (s : State) (p : Fin 2) (off : Nat) : Nat × State :=
  let h := s.hosts.port[p]
  match off with
  | 0x00 => (0x0080 * 2 ^ 16 + Config.vendorId.toNat, s)
  | 0x04 => (h.pciSta.toNat * 2 ^ 16 + 2 ^ 20 + b2n h.bme * 4 + b2n h.mse * 2, s)
  | 0x08 =>
    let (v, s) := s.drawNat
    (0x120000 * 2 ^ 8 + v % 256, s)
  | 0x10 => (barLow h.bar0 24 0x4, s)
  | 0x14 => (h.bar0.toNat / 2 ^ 32, s)
  | 0x18 => (barLow h.bar2 28 0xC, s)
  | 0x1C => (h.bar2.toNat / 2 ^ 32, s)
  | 0x20 => (barLow h.bar4 12 0x4, s)
  | 0x24 => (h.bar4.toNat / 2 ^ 32, s)
  | 0x0C | 0x3C =>
    let (v, s) := s.drawNat
    (v % 256 + if off = 0x0C then v / 256 % 256 * 2 ^ 24 else 0, s)
  | off =>
    let (v, s) := s.drawNat
    if off = Config.msixCap then
      (b2n h.msixEn * 2 ^ 31 + b2n h.msixMask * 2 ^ 30 + 63 * 2 ^ 16 + v % 256 * 2 ^ 8 + 0x11, s)
    else if off = Config.msixCap + 4 then (4, s)
    else if off = Config.msixCap + 8 then (0x804, s)
    else match pciCapRead h off with
    | some (w, open_) => (w ||| (v &&& open_), s)
    | none => (v % 2 ^ 32, s)

/-- One half of a BAR replaced, its size bits kept 0. -/
def barSet (b : BitVec 64) (hi : Bool) (lo : Nat) (v : BitVec 32) : BitVec 64 :=
  if hi then setFld b 32 32 v.toNat else setFld b 0 32 (v.toNat / 2 ^ lo * 2 ^ lo)

/-- A write to a dword of the standard's capabilities. Bit 15 of Device Control asks for a function-level reset; of the power
states there are D0 and D3hot, and of the ASPM states L1. -/
def pciCapWrite (s : State) (p : Fin 2) (off : Nat) (v : BitVec 32) : State :=
  let e := Config.pcieCap
  let m := Config.pmCap
  let a := Config.aerCap
  if off = e + 0x08 then
    let s := s.modPort p fun h =>
      { h with devCtl := BitVec.ofNat 16 (fld v 0 15), devSta := h.devSta &&& ~~~(BitVec.ofNat 4 (fld v 16 4)) }
    if v.getLsbD 15 then losePortBy s p .flr else s
  else if off = e + 0x10 then s.modPort p fun h => { h with linkCtl := BitVec.ofNat 16 v.toNat &&& 0x00CA }
  else if off = e + 0x28 then s.modPort p fun h => { h with devCtl2 := BitVec.ofNat 16 (fld v 0 5) }
  else if off = m + 0x04 then
    match fld v 0 2 with
    | 0 => flushMsix (flushDma (s.modPort p fun h => { h with d3 := false }) p) p
    | 3 => s.modPort p fun h => { h with d3 := true }
    | _ => s
  else if off = a + 0x04 then s.modPort p fun h => { h with aerSta := h.aerSta &&& ~~~v }
  else if off = a + 0x08 then s.modPort p fun h => { h with aerMask := v }
  else if off = a + 0x0C then s.modPort p fun h => { h with aerSev := v }
  else if off = a + 0x14 then s.modPort p fun h => { h with aerCor := v }
  else s

/-- A write to a dword of configuration space. -/
def cfgWrite (s : State) (p : Fin 2) (off : Nat) (v : BitVec 32) : State :=
  match off with
  | 0x04 =>
    let s := s.modPort p fun h =>
      { h with bme := v.getLsbD 2, mse := v.getLsbD 1, pciSta := h.pciSta &&& ~~~(BitVec.ofNat 16 (fld v 16 16)) }
    flushMsix (flushDma s p) p
  | 0x10 => s.modPort p fun h => { h with bar0 := barSet h.bar0 false 24 v }
  | 0x14 => s.modPort p fun h => { h with bar0 := barSet h.bar0 true 0 v }
  | 0x18 => s.modPort p fun h => { h with bar2 := barSet h.bar2 false 28 v }
  | 0x1C => s.modPort p fun h => { h with bar2 := barSet h.bar2 true 0 v }
  | 0x20 => s.modPort p fun h => { h with bar4 := barSet h.bar4 false 12 v }
  | 0x24 => s.modPort p fun h => { h with bar4 := barSet h.bar4 true 0 v }
  | off =>
    if off = Config.msixCap then
      flushMsix (s.modPort p fun h => { h with msixEn := v.getLsbD 31, msixMask := v.getLsbD 30 }) p
    else pciCapWrite s p off v

/-- `CONFIGURATION_REQUEST`: answered with retry status until the endpoint is ready. -/
def execConfigurationRequest (p : Fin 2) (off : BitVec 12) (write : Bool) (v : BitVec 32) (s : State) :
    Host.Outcome State Fault Refusal :=
  let a := off.toNat / 4 * 4
  .next (if !s.hosts.port[p].linkUp ∨ s.dev.stuck then s
  else if !s.hosts.port[p].ready then s.emit (.crs p)
  else if write then cfgWrite s p a v
  else
    let (w, s) := cfgRead s p a
    readReply s p w)

/-- A read of BAR4: the MSI-X table and the pending bits. -/
def bar4Read (s : State) (p : Fin 2) (a : Nat) : Nat :=
  let h := s.hosts.port[p]
  if a < 0x400 then
    let e := vget ({} : MsixEntry) h.msix (a / 16)
    match a % 16 / 4 with
    | 0 => e.addr.toNat % 2 ^ 32
    | 1 => e.addr.toNat / 2 ^ 32
    | 2 => e.data.toNat
    | _ => b2n e.mask
  else if a / 8 = 0x100 then maskOf ((List.range 64).filter fun i => (vget ({} : MsixEntry) h.msix i).pend) / 2 ^ (a % 8 * 8) % 2 ^ 32
  else 0

/-- A write to BAR4. -/
def bar4Write (s : State) (p : Fin 2) (a : Nat) (v : BitVec 32) : State :=
  if a < 0x400 then
    flushMsix (s.modPort p fun h => { h with msix := vmodN h.msix (a / 16) fun e =>
      match a % 16 / 4 with
      | 0 => { e with addr := setFld e.addr 0 32 v.toNat }
      | 1 => { e with addr := setFld e.addr 32 32 v.toNat }
      | 2 => { e with data := v }
      | _ => { e with mask := v.getLsbD 0 } }) p
  else s

/-! ### BAR2 (R317, R335) -/

/-- Bytes of result window `off / 2^23` of port `p`; 0 where its ring is not in window placement. -/
def windowRead (s : State) (p : Fin 2) (off len : Nat) : List Byte :=
  if (vget ({} : Ring) s.hosts.port[p].rings (8 + off / 2 ^ 23)).place then readBytes s.hosts.port[p].windows off len
  else List.replicate len 0

/-- One block of an aperture access: a request at its channel, or a denial where the address is not populated. -/
def aperPiece (s : State) (p : Fin 2) (write : Bool) (a : Nat) (data : List (Option Byte)) : State :=
  placeReq s { user := .host p, write := write, addr := a, data := if write then data else [], len := data.length }

/-- The blocks of an aperture access, in order. -/
def aperPieces (s : State) (p : Fin 2) (write : Bool) : List (Nat × Nat) → List (Option Byte) → State
  | [], _ => s
  | (a, len) :: rest, data => aperPieces (aperPiece s p write a (data.take len)) p write rest (data.drop len)

/-- `APERTURE_ACCESS`: `data` holds the bytes to write with those that are not enabled as `none`, or stands for the bytes
to read. Before HALTER no memory is mapped. -/
def execApertureAccess (p : Fin 2) (off : BitVec 28) (write : Bool) (data : List (Option Byte)) (s : State) :
    Host.Outcome State Fault Refusal :=
  .next (if !reaches s p then s
  else if off.getLsbD 27 then
    if write then hpErr s p hpAcc else s.emit (.readData p (windowRead s p (off.toNat % 2 ^ 27) data.length))
  else if !served s then
    if write then s else s.emit (.readData p (List.replicate data.length 0xFF))
  else
    let a := s.hosts.port[p].aper.toNat * 0x8000000 + off.toNat
    aperPieces s p write (blocksOf a data.length) data)

/-- `RESULT_WINDOW_READ`. -/
def execResultWindowRead (p : Fin 2) (off : BitVec 28) (len : Nat) (s : State) : Host.Outcome State Fault Refusal :=
  .next (if reaches s p then s.emit (.readData p (windowRead s p (off.toNat % 2 ^ 27) len)) else s)

/-! ### Completions of reads of host memory (R318) -/

/-- The commands that read a host buffer after they have begun. -/
def readsBuffer (j : Job) : Bool :=
  j.hlen != 0 && match j.kind with
  | .graphLoad | .flashWrite .. | .flowSubmit .. | .kernelLoad .. => true
  | _ => false

/-- How a read failed (R318) shows in the port's status registers as the standard says: Unsupported Request, Completer Abort,
poisoned data or a timeout, which of them being a free value, since no operand says it (log entry 68). -/
def readError (s : State) (p : Fin 2) : State :=
  let (v, s) := s.drawNat
  s.modPort p fun h => match v % 4 with
    | 0 => { h with pciSta := h.pciSta ||| 0x2000 }
    | 1 => { h with pciSta := h.pciSta ||| 0x1000 }
    | 2 => { h with pciSta := h.pciSta ||| 0x8000, aerSta := h.aerSta ||| 0x1000, devSta := h.devSta ||| 2 }
    | _ => { h with aerSta := h.aerSta ||| 0x4000, devSta := h.devSta ||| 2 }

/-- `HOST_READ_COMPLETION`. A read that completes with data changes nothing by itself: the commands carry what it read. -/
def execHostReadCompletion (p : Fin 2) (what : HostRead) (ok : Bool) (s : State) : Host.Outcome State Fault Refusal :=
  .next (if ok then s
  else match what with
  | .fetch n =>
    if (s.ring p (sqOf n)).state = .active then hpErr (disableRing (readError s p) p (sqOf n)) p hpFetch else s
  | .buffer id =>
    match findJob s id with
    | none => s
    | some j =>
      if portOf j.src ≠ some p then s
      else if hostPour s p && isPour j then stopTry (hpErr (readError s p) p hpDma) (pourStop .aborted 0 4 none)
      else if readsBuffer j then abortJob (hpErr (readError s p) p hpDma) j
      else s)

end Sys2Proof.Machine
end

