-- ==== Sys2Proof/Machine/CmdTable.lean ====
section
/-! DEFINITION. Machine/CmdTable.lean: the opcodes (Table 13-6), commands as they arrive on a submission ring (R329) or in
a mailbox (R332), and the commands that wait to begin (R349, R350). -/

namespace Sys2Proof.Machine

open Sys2Proof

/-- What carries out a command. -/
abbrev CmdBody := Cmd → State → Except Deny State

/-- The entry of an opcode. -/
def cmdOf (opcode : Nat) : Option (CmdSpec × CmdBody) :=
  match opcode with
  | 0x0001 => some (getIdentitySpec, getIdentityBody)
  | 0x0002 => some (getStateSpec, getStateBody)
  | 0x0003 => some (setStateSpec, setStateBody)
  | 0x0004 => some (getHealthSpec, getHealthBody)
  | 0x0005 => some (echoSpec, echoBody)
  | 0x0010 => some (semBindSpec, semBindBody)
  | 0x0100 => some (pourPatternSpec, pourPatternBody)
  | 0x0101 => some (pourPartialSpec, pourPartialBody)
  | 0x0102 => some (isolateSpec, isolateBody)
  | 0x0103 => some (releasePdkSpec, releasePdkBody)
  | 0x0104 => some (readbackSpec, readbackBody)
  | 0x0105 => some (fettlerConfigSpec, fettlerConfigBody)
  | 0x0106 => some (flashWriteSpec, flashWriteBody)
  | 0x0107 => some (flashReadSpec, flashReadBody)
  | 0x0108 => some (releaseOrderSpec, releaseOrderBody)
  | 0x0200 => some (cxpDiscoverSpec, cxpDiscoverBody)
  | 0x0201 => some (cxpSetLinkSpec, cxpSetLinkBody)
  | 0x0202 => some (cxpGroupSpec, cxpGroupBody)
  | 0x0203 => some (cxpCtrlReadSpec, cxpCtrlReadBody)
  | 0x0204 => some (cxpCtrlWriteSpec, cxpCtrlWriteBody)
  | 0x0205 => some (cxpStreamEnableSpec, cxpStreamEnableBody)
  | 0x0206 => some (cxpPixelStoreSpec, cxpPixelStoreBody)
  | 0x0300 => some (encConfigSpec, encConfigBody)
  | 0x0301 => some (trigGenConfigSpec, trigGenConfigBody)
  | 0x0302 => some (trigGenArmSpec, trigGenArmBody)
  | 0x0303 => some (trigGenStopSpec, trigGenStopBody)
  | 0x0304 => some (headOffsetsSpec, headOffsetsBody)
  | 0x0305 => some (positionCompareSpec, positionCompareBody)
  | 0x0400 => some (graphLoadSpec, graphLoadBody)
  | 0x0401 => some (flowConfigSpec, flowConfigBody)
  | 0x0402 => some (flowSubmitSpec, flowSubmitBody)
  | 0x0403 => some (flowDrainSpec, flowDrainBody)
  | 0x0404 => some (schedTraceSpec, schedTraceBody)
  | 0x0405 => some (coolConfigSpec, coolConfigBody)
  | 0x0406 => some (spillConfigSpec, spillConfigBody)
  | 0x0500 => some (kernelLoadSpec, kernelLoadBody)
  | 0x0501 => some (casterStatusSpec, casterStatusBody)
  | 0x0502 => some (casterRetireSpec, casterRetireBody)
  | 0x0600 => some (memMapSpec, memMapBody)
  | 0x0601 => some (memReadSpec, memReadBody)
  | 0x0602 => some (memWriteSpec, memWriteBody)
  | 0x0603 => some (memTrainSpec, memTrainBody)
  | 0x0700 => some (musterArmSpec, musterArmBody)
  | 0x0701 => some (musterFireSpec, musterFireBody)
  | 0x0702 => some (musterReadSpec, musterReadBody)
  | 0x0800 => some (lcStatusSpec, lcStatusBody)
  | 0x0801 => some (lcAdvanceSpec, lcAdvanceBody)
  | 0x0802 => some (keyProvisionSpec, keyProvisionBody)
  | 0x0803 => some (bistRunSpec, bistRunBody)
  | 0x0804 => some (scanEnableSpec, scanEnableBody)
  | 0x0900 => some (governorConfigSpec, governorConfigBody)
  | 0x0901 => some (shutdownSpec, shutdownBody)
  | 0x0902 => some (wakeConfigSpec, wakeConfigBody)
  | _ => none

/-- An opcode that is not in the table. -/
def unknownSpec (opcode : Nat) : CmdSpec where
  opcode := opcode
  known := false
  states := stAll
  size := fun _ => true

/-- A command that arrives, by its opcode. -/
def arrive (c : Cmd) (s : State) : State :=
  match cmdOf c.opcode.toNat with
  | some (sp, body) => runCmd sp body c s
  | none => runCmd (unknownSpec c.opcode.toNat) (fun c s => .ok (doneWith c s [])) c s

/-! ### Headers (R342, R347) -/

/-- P, and whether it is in range. -/
def headerLen (l : List Byte) : Nat := leAt l 8 2

/-- What checks 1 and 2 of R347 find: a P out of range is found first, since the CRC then has no extent (R329). -/
def headerCheck (l : List Byte) : BitVec 2 :=
  if 4064 < headerLen l then 2
  else if leAt l 28 4 ≠ crc32c (padTo 28 l ++ padTo (headerLen l) (l.drop 32)) then 1
  else if byteAt l 3 ≠ 1 ∨ (byteAt l 2).toNat / 8 ≠ 0 then 2
  else 0

/-- The command that some bytes hold. -/
def readCmd (src : CmdSrc) (l : List Byte) (buf : Option (List Byte)) : Cmd :=
  { src := src, opcode := BitVec.ofNat 16 (leAt l 0 2), reply := (byteAt l 2).getLsbD 0, fence := (byteAt l 2).getLsbD 1,
    long := (byteAt l 2).getLsbD 2, tag := BitVec.ofNat 32 (leAt l 4 4), sem := BitVec.ofNat 16 (leAt l 10 2),
    tclass := BitVec.ofNat 8 (leAt l 15 1), tindex := BitVec.ofNat 24 (leAt l 12 3), hbuf := BitVec.ofNat 64 (leAt l 16 8),
    hlen := BitVec.ofNat 32 (leAt l 24 4), params := if 4064 < headerLen l then [] else padTo (headerLen l) (l.drop 32),
    buf := buf, hdr := headerCheck l }

/-! ### COMMAND_FETCH (R329) -/

/-- Slots of a command. -/
def cmdSlots (l : List Byte) : Nat := if 4064 < headerLen l then 1 else (32 + headerLen l + 63) / 64

/-- The conditions on a submission ring and its reply ring, beside the slots below the tail: no reply waits, no command
of the ring waits to begin (R349), and no `FLOW_SUBMIT` of it still admits items (R183). -/
def ringOpen (s : State) (p : Fin 2) (n : Fin 4) : Bool :=
  let r := s.ring p (rqOf n)
  (s.ring p (sqOf n)).state == .active && r.state == .active && r.waiting.isEmpty
    && !(s.cmdp.held.any fun c => c.src == .ring p n)
    && !(s.cmdp.jobs.any fun j => j.src == .ring p n && match j.kind with | .flowSubmit .. => true | _ => false)

/-- The rings before `n` in the round robin. -/
def ringsBefore (s : State) (p : Fin 2) (n : Fin 4) : List (Fin 4) :=
  let first := s.hosts.port[p].sqNext
  ((List.range ((n.val + 4 - first % 4) % 4)).map fun i => Fin.ofNat 4 (first + i))

/-- Ring `n` is served now: its command lies below the tail, and no ring before it has a whole command to serve. -/
def mayFetch (s : State) (p : Fin 2) (n : Fin 4) (whole : BitVec 4) (k : Nat) : Bool :=
  served s && masters s.hosts.port[p] && ringOpen s p n && decide (k ≤ ((s.ring p (sqOf n)).host - (s.ring p (sqOf n)).dev).toNat)
    && !(ringsBefore s p n).any fun m => whole.getLsbD m.val && ringOpen s p m
          && (s.ring p (sqOf m)).host != (s.ring p (sqOf m)).dev

/-- F moves past the command's slots, and is written. -/
def advanceFetch (s : State) (p : Fin 2) (n : Fin 4) (k : Nat) : State :=
  let s := s.modRing p (sqOf n) fun r => { r with dev := r.dev + BitVec.ofNat 32 k }
  let s := s.modPort p fun h => { h with sqNext := (n.val + 1) % 4 }
  let r := s.ring p (sqOf n)
  ringMessage (hostOut s p [(r.base.toNat, leBytes 4 r.dev.toNat)]) p (sqOf n)

/-- `COMMAND_FETCH`: `slots` holds the command's slots in host memory, `buf` its host buffer; `whole` says of each
submission ring whether a whole command lies below its tail. -/
def execCommandFetch (p : Fin 2) (n : Fin 4) (whole : BitVec 4) (slots : List Byte) (buf : Option (List Byte)) (s : State) :
    Host.Outcome State Fault Refusal :=
  .next (if mayFetch s p n whole (cmdSlots slots) then
    arrive (readCmd (.ring p n) slots buf) (advanceFetch s p n (cmdSlots slots))
  else s)

/-! ### GO (R332) -/

/-- A write of `HP_MBX_DB`. -/
def goWrite (s : State) (p : Fin 2) (v : BitVec 32) (buf : Option (List Byte)) : State :=
  if !v.getLsbD 0 then s
  else if s.hosts.port[p].mbxState = 1 then hpErr s p hpMbx
  else
    let c := readCmd (.mailbox p) (readBytes s.hosts.port[p].mbx 0 4096) buf
    arrive c (s.modPort p fun h => { h with mbxState := 1, mbxAcc := false })

/-- `GO`. -/
def execGo (by_ p : Fin 2) (v : BitVec 32) (buf : Option (List Byte)) (s : State) : Host.Outcome State Fault Refusal :=
  .next (ownWrite s by_ p 0x100 v buf fun s => goWrite s p v buf)

/-! ### Commands that wait to begin (R349, R350) -/

/-- Whether the command is long-running under R349. -/
def cmdLong (c : Cmd) (s : State) : Bool := c.hdr == 0 && ((cmdOf c.opcode.toNat).map fun e => e.1.isLong c s).getD false

/-- A waiting command begins. -/
def beginHeldCmd (c : Cmd) (s : State) : State :=
  match cmdOf c.opcode.toNat with
  | some (sp, body) => beginCmd sp body c s
  | none => beginCmd (unknownSpec c.opcode.toNat) (fun c s => .ok (doneWith c s [])) c s

/-- The first waiting command that may begin, with those before it and those after it. -/
def firstReady (s : State) : List Cmd → List Cmd → Option (List Cmd × Cmd × List Cmd)
  | _, [] => none
  | before, c :: rest =>
    if mayBegin s c (cmdLong c s) before then some (before, c, rest) else firstReady s (before ++ [c]) rest

/-- A command whose image can be read now. -/
def imageOf (j : Job) : Option Cmd := match j.kind with
  | .imageWait c => some c
  | _ => none

/-- The first command whose image can be read now goes on; one whose port has been lost ends with it (R337). -/
def imageGoOn (s : State) : State :=
  match s.cmdp.jobs.find? fun j => (imageOf j).isSome with
  | none => s
  | some j =>
    if epochOf s j.src ≠ j.epoch then finishJob s j.id .aborted 0 []
    else match imageOf j, cmdOf j.opcode.toNat with
    | some c, some (_, body) =>
      let t := { s with cmdp.jobs := s.cmdp.jobs.filter fun x => x.id != j.id }
      match body c t with
      | .error d => refuse c t d
      | .ok t => t
    | _, _ => s

/-- One waiting command that may begin does so. -/
def beginHeld (s : State) : State :=
  if !served s then s
  else match firstReady s [] s.cmdp.held with
  | none => s
  | some (before, c, rest) => beginHeldCmd c { s with cmdp.held := before ++ rest }

end Sys2Proof.Machine
end

