-- ==== Sys2Proof/Machine/Pins.lean ====
section
/-! DEFINITION. Machine/Pins.lean: the pin multiplexer, the serial cells, pin edges, USER tree registers, clock loops and
crossing timeouts (17_pins_clocks_crossings.md; 03_lanes_and_trees.md, R80). -/

namespace Sys2Proof.Machine

open Sys2Proof

/-! ### What a pad shows (R431, R432, R436, R438) -/

/-- On half the time of a period of `ns` nanoseconds. -/
def blinks (s : State) (ns : Nat) : Bool := (s.dev.yard + Config.blinkPhase) % ns < ns / 2

/-- A status LED's source is on. -/
def ledOn (s : State) : Nat → Bool
  | 0 => s.dev.state == .service
  | 1 => (s.dev.state == .halter || s.dev.state == .pouring || s.dev.state == .recovery) && blinks s 1000000000
  | 2 => s.dev.state == .recovery && blinks s 250000000
  | 3 => s.dev.lastErr.any fun t => decide (s.dev.yard ≤ t + 200000000)
  | 4 => s.mus.unack
  | 5 => s.gov.die.toList.any fun g => g.sat || g.therm
  | _ => false

/-- The release of a flow waits for a cooling entry (R217). -/
def waitsCooling (s : State) (x : Flow) : Bool :=
  x.held && match x.out with
  | o :: _ =>
    (match o.results with
      | .pass e _ :: _ => vget 0 (opRec s (itOp o.item)).cool e != 0
      | _ => false)
  | [] => false

/-- The levels that a scheduler event pin selects from (Table 17-3). -/
def schedEvents (s : State) : List Bool :=
  [s.sch.poolNotice.live, s.sch.spillNotice.live, s.trc.notice.live,
   (s.sch.ports.toList.any fun p => p.holding) || (s.cmdp.jobs.any fun j => match j.kind with | .flowSubmit .. => true | _ => false),
   s.sch.placeWait, s.sch.flows.any fun e => e.2.held, s.sch.flows.any fun e => waitsCooling s e.2]

/-- The selected levels' OR (R433). -/
def schedLevel (s : State) (mask : Nat) : Bool :=
  ((schedEvents s).zipIdx).any fun e => e.1 && mask.testBit e.2

/-- The level that the device's functions drive at a pad; none while the pad is high-impedance. In STABLED every pin is: banks 1
to 5 are unpowered, and bank 0 drives nothing (R429, R436). -/
def funcDrive (s : State) (g : Fin 96) : Option Bool :=
  let p := s.pins.gpio[g]
  if s.dev.state = .stabled then none
  else if p.switching then if p.drv then some p.lvl else none
  else match p.actFunc.toNat, p.actRole.toNat with
  | 0, _ => if p.oe then some p.out else none
  | 1, _ => userDrive s g.val
  | 2, _ | 7, 1 => some p.lvl
  | 4, 0 | 6, 0 | 6, 1 | 6, 3 => if ownsRole s g then some p.lvl else none
  | 8, 0 => some (vget ({} : Link) s.cxp.links p.sel.toNat).pocxp
  | 0xA, _ => some (ledOn s (p.sel.toNat % 16) != p.out)
  | 0xC, _ => some false
  | 0xD, _ => some (schedLevel s p.sel.toNat)
  | _, _ => none

/-- The level driven at a pad: by the boundary register while a JTAG instruction holds the pads (R427), else by the pin's
function. -/
def padDrive (s : State) (g : Fin 96) : Option Bool :=
  if padsTested s then if s.sec.jtag = .highz then none else (s.sec.cells[g.val]?).join
  else funcDrive s g

/-- `IN`: the level at the pad. -/
def pinIn (s : State) (g : Fin 96) : Bool := (padDrive s g).getD s.pins.gpio[g].pad

/-- A level that the device newly drives is sent out. -/
def padChange (old s : State) (g : Fin 96) : State :=
  match padDrive s g with
  | some b => if padDrive old g = some b then s else s.emit (.pin g.val b)
  | none => s

/-- The pins of a serial cell's instance: a change at one of them can hand a role to another (R434). -/
def cellMates (s : State) (g : Fin 96) : List (Fin 96) :=
  let p := s.pins.gpio[g]
  (List.finRange 96).filter fun m => m != g && decide (4 ≤ s.pins.gpio[m].actFunc.toNat) && decide (s.pins.gpio[m].actFunc.toNat ≤ 6)
    && p.actFunc == s.pins.gpio[m].actFunc

/-- What stands at a pin's lanes moves: a token that its pad takes, one that its in-lane can present. -/
def pinMoves (s : State) (g : Nat) : State :=
  let a := autoTake s (.pin g)
  settleShown (pinPresent (settle a.1 a.2) g)

/-- A pin has changed: its pad, the edges that this gives, its lanes, and the pins that take over a role from it. -/
def pinChanged (old s : State) (g : Fin 96) : State :=
  let l := g :: (cellMates old g ++ cellMates s g).eraseDups
  let s := padEdges old (l.foldl (padChange old) s)
  l.foldl (fun s m => pinMoves s m.val) s

/-! ### `GPIO_PINg` (R430 to R432, R435) -/

/-- The pins of a bank offer a function (Table 17-1). -/
def offers (lc : LcState) (bank f : Nat) : Bool :=
  match f with
  | 0x0 | 0x1 | 0x2 | 0x3 | 0x7 | 0xA => true
  | 0x4 | 0x5 | 0x6 => bank == 1 || bank == 2
  | 0x8 => decide (2 ≤ bank)
  | 0x9 => decide (bank ≤ 1)
  | 0xB => bank == 0
  | 0xC | 0xD => decide (4 ≤ bank)
  | 0xF => bank == 5 && lc == .factory
  | _ => false

/-- Encodings of `ROLE`, `SEL` and `PARAM` that the function's tables list (Table 17-3, R434). -/
def roleOk (f r : Nat) : Bool :=
  match f with
  | 4 | 5 | 7 | 8 => decide (r < 2)
  | 6 => decide (r < 4)
  | _ => true

def selOk (f x : Nat) : Bool :=
  match f with
  | 0xA => decide (x % 16 < 6)
  | 0xC => decide (x % 16 < 11)
  | _ => true

def paramOk (f r x : Nat) : Bool := !(f == 5 && r == 0) || decide (x ≤ 2)

/-- The fields that a write of `GPIO_PINg` leaves, each reserved encoding leaving its field unchanged (R7). -/
def gpioFields (lc : LcState) (g : Fin 96) (v : BitVec 32) (p : Gpio) : Gpio :=
  let f := if offers lc (g.val / 16) (fld v 28 4) then fld v 28 4 else p.func.toNat
  let r := if roleOk f (fld v 17 3) then fld v 17 3 else p.role.toNat
  let pull := if fld v 23 2 = 3 then p.pull else BitVec.ofNat 2 (fld v 23 2)
  { p with func := BitVec.ofNat 4 f, role := BitVec.ofNat 3 r, out := v.getLsbD 26, oe := v.getLsbD 25, pull := pull,
           drive := v.getLsbD 22, fin := v.getLsbD 21, fout := v.getLsbD 20, inst := BitVec.ofNat 2 (fld v 15 2),
           sel := if selOk f (fld v 8 7) then BitVec.ofNat 7 (fld v 8 7) else p.sel,
           param := if paramOk f r (fld v 0 8) then BitVec.ofNat 8 (fld v 0 8) else p.param }

/-- A write of `GPIO_PINg`: a change of `FUNC` or `ROLE` starts a switch interval, in which the pad holds its level and
direction. -/
def gpioWrite (s : State) (g : Fin 96) (v : BitVec 32) : State :=
  let p := s.pins.gpio[g]
  let q := gpioFields s.fuse.lcs g v p
  if q.func ≠ p.func ∨ q.role ≠ p.role then
    let d := padDrive s g
    s.modGpio g fun _ => { q with switching := true, drv := d.isSome, lvl := d.getD false }
  else pinChanged s (s.modGpio g fun _ => q) g

/-- `GPIO_FUNC_WRITE`. -/
def execGpioFuncWrite (n : Fin 96) (v : BitVec 32) (s : State) : Host.Outcome State Fault Refusal :=
  .next (if served s then gpioWrite s n v else s)

/-- The level with which a function takes the pad: a UART's line idles high; a chip select before its first token is
free. -/
def takePad (s : State) (g : Fin 96) : State :=
  let p := s.pins.gpio[g]
  if p.actFunc = 6 ∧ p.actRole = 3 then
    let (b, s) := s.drawBit
    s.modGpio g fun x => { x with lvl := b, drv := true }
  else
    s.modGpio g fun x => { x with lvl := x.actFunc == 4 && x.actRole == 0, drv := false }

/-- `SWITCH_INTERVAL_END`: the new function takes the pad. -/
def execSwitchIntervalEnd (n : Fin 96) (s : State) : Host.Outcome State Fault Refusal :=
  .next (if !s.pins.gpio[n].switching then s
  else
    let t := takePad (s.modGpio n fun p =>
      { p with actFunc := p.func, actRole := p.role, switching := false, cmd := none, highAt := none }) n
    pinChanged s t n)

/-! ### Pin edges (R436, R438, R447) -/

/-- `PIN_EDGE`: the level that the outside gives a pad changes. A pad that the device itself drives keeps its level. A PoCXP
sense pin that falls reports a fault (Table 17-3). -/
def execPinEdge (n : Fin 96) (level : Bool) (s : State) : Host.Outcome State Fault Refusal :=
  .next (if s.pins.gpio[n].pad == level then s
  else
    let old := s
    let s := s.modGpio n fun p => { p with pad := level }
    let p := s.pins.gpio[n]
    if p.switching || !served s then s
    else if p.actFunc = 7 ∧ p.actRole = 0 then
      s.modGpio n fun p => { p with highAt := if level then some s.dev.yard else none }
    else if p.actFunc = 8 ∧ p.actRole = 1 ∧ level = false then senseFault s (Fin.ofNat 128 p.sel.toNat)
    else padEdges old s)

/-! ### Serial cells (R434) -/

/-- Pin `g` serves its cell in a role. -/
def serves (s : State) (g : Fin 96) (f r : Nat) : Bool :=
  let p := s.pins.gpio[g]
  p.actFunc.toNat == f && p.actRole.toNat == r && !p.switching && ownsRole s g && served s

/-- The pin that serves a role of an instance. -/
def cellPin (s : State) (f r : Nat) (inst : BitVec 2) : Option (Fin 96) :=
  (List.finRange 96).find? fun g => serves s g f r && s.pins.gpio[g].inst == inst

/-- A byte for a pin's in-lane. -/
def pinByte (s : State) (g : Fin 96) (b : Byte) : State :=
  settleShown (pinPresent (s.modGpio g fun x => { x with buf := x.buf ++ [b] }) g.val)

/-- `UART_RECEIVE`: a byte with a framing error is dropped and counted, one that finds the buffer full sets the pin's
overrun bit. -/
def execUartReceive (n : Fin 96) (v : Byte) (ok : Bool) (s : State) : Host.Outcome State Fault Refusal :=
  .next (if !serves s n 4 1 then s
  else if !ok then { s with pins.serErr := satAdd s.pins.serErr 1 }
  else if 16 ≤ s.pins.gpio[n].buf.length then s.modGpio n fun p => { p with ovr := true }
  else pinByte s n v)

/-- A complete token waits on a pin's out-lane. -/
def outToken (s : State) (g : Fin 96) : Option Nat :=
  let r := seen s (.pin g.val)
  if complete r then some (tokenOf r) else none

/-- `UART_TRANSMIT`: the token on the TX pin's out-lane, sent and acknowledged. -/
def execUartTransmit (n : Fin 96) (s : State) : Host.Outcome State Fault Refusal :=
  .next (if !serves s n 4 0 then s
  else match outToken s n with
  | some t => take (s.emitPad (.uart n.val (BitVec.ofNat 8 t))) (.pin n.val)
  | none => s)

/-- The byte that an I²C command moves is done: the result goes to the in-lane. -/
def i2cByte (s : State) (g : Fin 96) (cmd : Nat) (data result : Byte) : State :=
  pinByte (s.emitPad (.i2c g.val (BitVec.ofNat 8 cmd) data)) g result

/-- `I2C_COMMAND`: the next token of the SDA pin's out-lane: a command, or the byte that a write command awaits. `ack`:
the target acknowledges a written byte; `v`: the byte read. -/
def execI2cCommand (n : Fin 96) (ack : Bool) (v : Byte) (s : State) : Host.Outcome State Fault Refusal :=
  let p := s.pins.gpio[n]
  .next (if !serves s n 5 1 || (cellPin s 5 0 p.inst).isNone || !p.buf.isEmpty then s
  else match outToken s n, p.cmd with
  | none, _ => s
  | some t, some c =>
    take (i2cByte (s.modGpio n fun p => { p with cmd := none }) n c.toNat (BitVec.ofNat 8 t) (if ack then 0 else 1)) (.pin n.val)
  | some t, none =>
    if t % 4 < 2 then take (s.modGpio n fun p => { p with cmd := some (BitVec.ofNat 8 t) }) (.pin n.val)
    else take (i2cByte s n t v v) (.pin n.val))

/-- `SPI_TRANSFER`: a token of the MOSI pin's out-lane is shifted out while `v` is shifted in. -/
def execSpiTransfer (n : Fin 96) (v : Byte) (s : State) : Host.Outcome State Fault Refusal :=
  let p := s.pins.gpio[n]
  let miso := cellPin s 6 2 p.inst
  .next (if !serves s n 6 1 || (cellPin s 6 0 p.inst).isNone || miso.any (fun g => !s.pins.gpio[g].buf.isEmpty) then s
  else match outToken s n with
  | none => s
  | some t =>
    let s := s.emitPad (.spi n.val (BitVec.ofNat 8 t))
    take (match miso with | some g => pinByte s g v | none => s) (.pin n.val))

/-! ### USER tree registers (R80, Table 18-6) -/

/-- The fields of `TREE_USERn` that a write leaves. -/
def treeFields (v : BitVec 32) (t : UserTree) : UserTree :=
  { t with gen := BitVec.ofNat 6 (fld v 22 6), pin := if fld v 15 7 < 96 then BitVec.ofNat 7 (fld v 15 7) else t.pin,
           div := if 5 ≤ fld v 4 11 ∧ fld v 4 11 ≤ 1024 then fld v 4 11 else t.div,
           src := if fld v 0 4 ≤ 4 then BitVec.ofNat 4 (fld v 0 4) else t.src }

/-- Two settings of a USER tree name the same source. -/
def sameSource (t u : UserTree) : Bool :=
  t.src == u.src && match t.src.toNat with
    | 2 => t.pin == u.pin
    | 3 => t.gen == u.gen
    | _ => true

/-- A write of `TREE_USERn`: a new source takes the tree at its next edge; `PULSE` gives one pulse on a tree whose source is
the pulse register. -/
def treeWrite (s : State) (n : Fin 3) (v : BitVec 32) : State :=
  let s := { s with pins.trees := vmod s.pins.trees n fun t =>
    let u := treeFields v t
    { u with stale := t.stale || !sameSource t u } }
  if v.getLsbD 31 && s.pins.trees[n].src == 4 then treeMove (treeMove s n true) n false else s

/-- `PULSE`: a write of `TREE_USERn` with `PULSE` 1. -/
def execPulse (n : Fin 3) (v : BitVec 32) (s : State) : Host.Outcome State Fault Refusal :=
  .next (if served s then treeWrite s n (v ||| 0x80000000) else s)

/-! ### Clock loops (R443, Tables 17-7 and 17-12) -/

/-- The 16 links of a reference input. -/
def loseLinks (s : State) (first : Nat) : State :=
  ((List.finRange 128).filter fun n => decide (first ≤ n.val) && decide (n.val < first + 16)).foldl linkLost s

/-- A DEVICE_FAULT that the device itself finds: its code is free (log entry 3). -/
def ownFault (s : State) : State :=
  let (c, s) := s.drawNat
  deviceFault s (BitVec.ofNat 16 c) []

/-- What the device does when loop `n` of `HUB_CLK` loses lock. -/
def loopLost (s : State) (n : Nat) : State :=
  match n with
  | 0 | 1 | 8 | 9 | 14 | 15 => ownFault s
  | 2 => losePortBy s 0 .linkDown
  | 3 => losePortBy s 1 .linkDown
  | n => loseLinks s (if n < 10 then 16 * (n - 4) else 64 + 16 * (n - 10))

/-- `LOOP_LOCK_LOST` while the device runs. -/
def execLoopLockLost (n : Fin 16) (s : State) : Host.Outcome State Fault Refusal :=
  .next (if !served s || !s.pins.lock.getLsbD n.val then s
  else
    loopLost { s with pins.lock := s.pins.lock &&& ~~~(BitVec.twoPow 16 n.val),
                      pins.lost := s.pins.lost ||| BitVec.twoPow 16 n.val } n.val)

/-! ### Crossing timeouts (R448) -/

/-- A timeout counted, and the paddock error event. -/
def countTimeout (s : State) : State := raiseEvent { s with pins.toCnt := satAdd s.pins.toCnt 1 } 2

/-- The token that stands on a source's lane becomes a poisoned one; whoever has taken it keeps what it took. -/
def spoilToken (s : State) (x : Src) : State := s.setChan (srcKey x) { s.chan (srcKey x) with rails := poison }

/-- Towards the fabric: a transfer in progress completes with a poisoned token (R448). The transfer is the token that stands on
the lane, or else, on an idle lane, the entry that waits, `busy`. A lane that returns to spacer waits for the fabric, whose pace
never causes a timeout. -/
def poisonLane (s : State) (x : Src) (busy : Bool) (drop : State → State) : State :=
  if (s.chan (srcKey x)).rails != 0 then settle (spoilToken (countTimeout s) x) [.shown x]
  else if busy && idleSrc s x then settle (present (drop (countTimeout s)) x poison) [.shown x] else s

/-- Towards the island: the token is acknowledged and discarded. -/
def discardToken (s : State) (l : Leaf) : State := if arrived (seen s l) then take (countTimeout s) l else s

/-- Towards the island at an event crossing: an event that it holds for the island (R447) is discarded; with none held, the token
that stands there. -/
def discardEvent (s : State) (l : Leaf) (held : Nat) (drop : State → State) : State :=
  if held = 0 then discardToken s l else drop (countTimeout s)

/-- `CROSSING_TIMEOUT`: the island of a crossing has shown no clock edge for `HUB_WATCH.TIMEOUT` while it holds a transfer
in progress. -/
def execCrossingTimeout (x : Crossing) (s : State) : Host.Outcome State Fault Refusal :=
  .next (if !served s then s
  else match x with
  | .adapter l j =>
    poisonLane s (.adapter l.val j.val) (!s.cxp.links[l].lanes[j].isEmpty) fun s => s.modLink l fun h => { h with lanes := vmod h.lanes j fun q => q.drop 1 }
  | .del n j => poisonLane s (.del n.val j.val) (!s.sch.ports[n].del[j].isEmpty) fun s => s.modOpPort n fun h => { h with del := vmod h.del j fun q => q.drop 1 }
  | .pinIn g =>
    let p := s.pins.gpio[g]
    poisonLane s (.pin g.val) (!p.pend.isEmpty || p.resync || !p.buf.isEmpty) fun s => s.modGpio g fun p =>
      if !p.pend.isEmpty then { p with pend := p.pend.drop 1 } else if p.resync then { p with resync := false }
      else { p with buf := p.buf.drop 1 }
  | .op n j => discardToken s (.op n.val j.val)
  | .pinOut g => discardToken s (.pin g.val)
  | .tick n =>
    discardEvent s (.tick n.val) s.pins.tickPend[n] fun s => { s with pins.tickPend := vmod s.pins.tickPend n (· - 1) }
  | .muster d =>
    discardEvent s (.muster d.val) s.pins.musPend[d] fun s => { s with pins.musPend := vmod s.pins.musPend d (· - 1) })

end Sys2Proof.Machine
end

