-- ==== Sys2Proof/Machine/RegRead.lean ====
section
/-! DEFINITION. Machine/RegRead.lean: what every register of BAR0 reads as (Table 18-1 and the tables it names), and what a
read of it changes: captures (R454, R455), RC fields (Table 0-1) and readings that are free values. -/

namespace Sys2Proof.Machine

open Sys2Proof

/-! ### Words -/

def lo32 (n : Nat) : Nat := n % 2 ^ 32
def hi32 (n : Nat) : Nat := n / 2 ^ 32 % 2 ^ 32

/-- The high word of a wide value: the captured one while a capture stands (R454). -/
def hiWord (cap : Option (BitVec 32)) (n : Nat) : Nat := (cap.map (·.toNat)).getD (hi32 n)

/-- Word `i` of a view: the captured one while a capture stands (R455). -/
def viewWord {n : Nat} (cap : Option (Vector (BitVec 32) n)) (live : List Nat) (i : Nat) : Nat :=
  match cap with
  | some v => (vget 0 v i).toNat
  | none => live.getD i 0

/-- A view as a capture holds it. -/
def viewOf (n : Nat) (live : List Nat) : Option (Vector (BitVec 32) n) :=
  some (Vector.ofFn fun (i : Fin n) => BitVec.ofNat 32 (live.getD i.val 0))

/-- Bits of a mask from a test, 32 from number `32 * k`. -/
def bits32 (k : Nat) (f : Nat → Bool) : Nat := maskOf ((List.range 32).filter fun i => f (32 * k + i))

/-- A reading that is not a whole number of units: rounded down or up, as the spec does not state (log entry 3). -/
def rounded (free : Nat) (x : Int) (unit : Nat) : Int :=
  Int.fdiv x unit + (if x % unit = 0 then 0 else if Config.freeBit free then 1 else 0)

/-- A watermark notice laid out as `SCH_POOL_NOTICE` (Table 7-12). -/
def noticeWord (n : Notice) (width : Nat) : Nat :=
  b2n n.live * 2 ^ 31 + b2n n.up * 2 ^ 30 + b2n n.down * 2 ^ 29 + n.cnt.toNat * 2 ^ 25 + n.high % 2 ^ width

/-- The RC fields of a notice cleared: the high-water value rises at once to the present level (R100). -/
def noticeRead (n : Notice) (level : Nat) : Notice := { n with cnt := 0, high := level }

/-! ### Hub global (Tables 15-9, 15-10, 16-7, 17-10, 18-6) -/

/-- The identity registers of Table 16-7. -/
def identWord (s : State) (off : Nat) : Option Nat :=
  match off with
  | 0x00 => some (0x0080 * 2 ^ 16 + 0x0117)
  | 0x04 => some s.fuse.serial.toNat
  | 0x08 => some (lo32 s.fuse.lot.toNat)
  | 0x0C => some (hi32 s.fuse.lot.toNat)
  | 0x10 => some s.fuse.fwver.toNat
  | off =>
    if 0x80 ≤ off ∧ off < 0xE0 ∧ (off - 0x80) % 0x20 < 0x18 then
      some (fld (vget 0 s.fuse.die ((off - 0x80) / 0x20)) (8 * ((off - 0x80) % 0x20)) 32)
    else none

/-- `HUB_STATE` (Table 15-9). -/
def hubState (s : State) : Nat :=
  let d := s.dev
  devCode d.state * 2 ^ 28 + lcCode s.fuse.lcs * 2 ^ 25 + b2n d.cold * 2 ^ 24 + b2n d.recPin * 2 ^ 23 + b2n d.noFlash * 2 ^ 22
    + b2n d.sbRo * 2 ^ 21 + d.toHalter.toNat

/-- `HUB_BOOT` (Table 15-10). -/
def hubBoot (s : State) : Nat :=
  s.dev.rcause.toNat * 2 ^ 28 + s.dev.wake.toNat * 2 ^ 26 + s.dev.newret.toNat * 2 ^ 16 + s.dev.toService.toNat

/-- `HUB_CMDS`: long-running commands that wait because 32 are in progress (R349), long-running commands in progress. -/
def hubCmds (s : State) : Nat :=
  (if (longJobs s).length < 32 then 0 else (s.cmdp.held.filter fun c => cmdLong c s).length % 256) * 2 ^ 8 + (longJobs s).length

/-- `TREE_USERn`. -/
def treeWord (t : UserTree) : Nat := t.gen.toNat * 2 ^ 22 + t.pin.toNat * 2 ^ 15 + t.div * 2 ^ 4 + t.src.toNat

/-- `HUB_RET_MISC`. -/
def retMisc (s : State) : Nat :=
  maskOf ((List.range 8).filter fun n => (vget ({} : Encoder) s.trig.enc n).tdcf) * 2 ^ 24
    + maskOf ((List.range 8).filter fun n => (vget ({} : Encoder) s.trig.enc n).failed) * 2 ^ 16
    + maskOf ((List.range 8).filter fun n => chanGone (vget ({} : Channel) s.ddr.chan n)) * 2 ^ 8

/-- `HUB_TEMPs`. -/
def tempReg (x : Sensor) : Nat := b2n (x.valid && !x.failed) * 2 ^ 31 + uNat 16 x.temp

/-- The hub global block from its offset. -/
def hubWord (s : State) (off : Nat) : Nat :=
  match off with
  | 0x14 => b2n s.sec.scan * 2 ^ 31 + b2n s.sec.zeroised * 2 ^ 30 + s.sec.signed.toNat
  | 0x18 => s.dev.faultCode.toNat * 2 ^ 16 + s.dev.faultCnt.toNat
  | 0x1C => s.dev.evt.toNat
  | 0x20 => s.book.starts.toNat
  | 0x24 => b2n s.dev.sbRo * 2 ^ 31 + bookPool s.book % 2 ^ 12
  | 0x28 => hubCmds s
  | 0x2C => b2n s.dev.wakeSb * 2 ^ 18 + s.dev.wakeSig.toNat * 2 ^ 16 + s.dev.wakeMask.toNat
  | 0x30 => s.dev.fwBuild.toNat
  | 0x40 => hubState s
  | 0x44 => hubBoot s
  | 0x48 => lo32 s.dev.yard
  | 0x4C => hiWord s.pps.timeHi s.dev.yard
  | 0x50 => b2n s.pps.en * 2 ^ 31 + b2n s.pps.step * 2 ^ 30 + s.pps.pin.toNat
  | 0x54 => b2n s.pps.locked * 2 ^ 31 + b2n s.pps.lost * 2 ^ 30 + b2n s.pps.stepped * 2 ^ 29 + s.pps.phase.toNat
  | 0x60 => s.pins.lost.toNat * 2 ^ 16 + s.pins.lock.toNat
  | 0x64 => s.pins.toCnt.toNat * 2 ^ 16 + s.pins.timeout.toNat
  | 0x68 => s.pins.xovr.toNat
  | off =>
    if 0x70 ≤ off ∧ off < 0x7C then treeWord (vget {} s.pins.trees ((off - 0x70) / 4))
    else if 0x100 ≤ off ∧ off < 0x110 then (vget 0 s.dev.scr ((off - 0x100) / 4)).toNat
    else if 0x110 ≤ off ∧ off < 0x130 then bits32 ((off - 0x110) / 4) (casterDropped s)
    else if 0x130 ≤ off ∧ off < 0x140 then
      bits32 ((off - 0x130) / 4) fun n => (vget ({} : Link) s.cxp.links n).state == .failed
    else if off = 0x140 then retMisc s
    else if 0x200 ≤ off ∧ off < 0x290 then tempReg (vget {} s.pins.sensors ((off - 0x200) / 4))
    else (identWord s off).getD 0

/-! ### Muster common (Tables 16-4 to 16-6) -/

def musWord (s : State) (off : Nat) : Nat :=
  let m := s.mus
  match off with
  | 0x00 => b2n m.latest * 2 ^ 16 + m.src.toNat
  | 0x04 => b2n m.busy * 2 ^ 31 + b2n m.unack * 2 ^ 30 + b2n m.missed * 2 ^ 29 + b2n m.inc * 2 ^ 28 + m.lsrc.toNat
  | 0x08 => m.seq.toNat
  | 0x0C => lo32 m.time.toNat
  | 0x10 => hiWord m.timeHi m.time.toNat
  | 0x18 => m.cntMissed.toNat
  | 0x1C => m.timeout
  | 0x20 => m.errMask.toNat
  | 0x24 => b2n m.cutInc * 2 ^ 31 + m.cutDur.toNat
  | 0x28 => lo32 m.part.toNat
  | 0x2C => hi32 m.part.toNat
  | 0x30 => lo32 m.incMask.toNat
  | 0x34 => hi32 m.incMask.toNat
  | 0x38 => m.cntFreq.toNat
  | 0x3C => m.cntPin.toNat
  | _ => 0

/-! ### Host ports (Tables 12-9 to 12-12) -/

/-- `HP_RCFG` (Table 12-10). -/
def rcfgWord (r : Ring) : Nat :=
  b2n r.en * 2 ^ 31 + ringCode r.state * 2 ^ 29 + b2n r.place * 2 ^ 28 + r.imod.toNat * 2 ^ 16 + b2n r.ven * 2 ^ 15
    + r.vec.toNat * 2 ^ 8 + r.log2

def portWord (s : State) (p : Fin 2) (off : Nat) : Nat :=
  let h := s.hosts.port[p]
  let r := s.ring p (selRing s p)
  match off with
  | 0x000 => (hpStatus s p).toNat
  | 0x004 => h.err.toNat
  | 0x00C => h.semGrace
  | 0x010 => lo32 (semHeld s p)
  | 0x014 => hi32 (semHeld s p)
  | 0x018 => h.cntCmd.toNat
  | 0x01C => h.cntRefused.toNat
  | 0x020 => h.cntSemign.toNat
  | 0x024 => h.aper.toNat
  | 0x028 => h.vecSel.toNat
  | 0x02C => let e := vget ({} : VecMap) h.vecMap h.vecSel.toNat; b2n e.en * 2 ^ 31 + e.vec.toNat
  | 0x030 => h.ringSel.toNat
  | 0x034 => lo32 r.base.toNat
  | 0x038 => hi32 r.base.toNat
  | 0x03C => rcfgWord r
  | 0x040 => r.dev.toNat
  | 0x044 => r.host.toNat
  | 0x048 => r.drop.toNat
  | 0x104 => h.mbxLen % 2 ^ 16 * 2 ^ 16 + b2n h.mbxAcc * 4 + h.mbxState
  | 0x140 => h.mustSeq.toNat
  | 0x144 => lo32 h.mustT.toNat
  | 0x148 => hi32 h.mustT.toNat
  | off =>
    if 0x80 ≤ off ∧ off < 0xA0 then (vget ({} : Ring) h.rings ((off - 0x80) / 4)).host.toNat
    else if 0xC0 ≤ off ∧ off < 0x100 then (vget ({} : Ring) h.rings (8 + (off - 0xC0) / 4)).host.toNat
    else 0

/-! ### CoaXPress links (Tables 9-11 to 9-17) -/

/-- The link is an extension link: its matching fields read 0 (R258). -/
def isExtension (s : State) (n : Fin 128) : Bool := masterOf s n != n

def linkWord (s : State) (n : Fin 128) (off : Nat) : Nat :=
  let l := s.cxp.links[n]
  let ext := isExtension s n
  match off with
  | 0x00 => b2n l.off * 2 + b2n l.auto
  | 0x04 => (cxpStatus s n).toNat
  | 0x08 => if ext then (setFld l.err cxLogOvf 1 0).toNat else l.err.toNat
  | 0x0C => l.wmLow * 2 ^ 16 + l.wmHigh
  | 0x10 => noticeWord l.notice 17
  | 0x14 => fifoLevel l
  | 0x18 => l.lines.toNat
  | 0x1C => l.cntCrc.toNat * 2 ^ 24 + l.cntOvf.toNat * 2 ^ 16 + (if ext then 0 else l.cntUnm.toNat * 2 ^ 8 + l.cntMiss.toNat)
  | 0x20 => if ext then 0 else l.lastSeq.toNat
  | 0x24 => l.must.toNat
  | _ => 0

/-! ### DDR5 channels (Tables 11-7 to 11-10, 18-9) -/

/-- `MEM_REGVIEW0` to `4`: entry `MEM_REGSEL` of the region map. -/
def regionView (s : State) (c : Fin 8) : List Nat :=
  match s.ddr.map[s.ddr.chan[c].regSel.toNat]? with
  | none => [0, 0, 0, 0, 0]
  | some r =>
    [2 ^ 31 + kindCode r.kind * 2 ^ 24 + (if r.kind = .result then r.index % 64 else 0), lo32 r.base, r.base / 2 ^ 32, lo32 r.len,
     r.len / 2 ^ 32]

/-- `MEM_DESC`. -/
def descWord (d : Option MemDesc) : Nat :=
  match d with
  | none => 0
  | some m => m.speed * 2 ^ 8 + b2n m.ranks2 * 2 ^ 7 + m.density * 2 ^ 5 + b2n m.x16 * 2 ^ 4 + m.present.toNat

/-- `MEM_CAP`. -/
def capWord (s : State) (c : Fin 8) : Nat :=
  match s.ddr.desc[dieOfChan c] with
  | none => 0
  | some m => if m.present.getLsbD (c.val % 4) then capGiB m else 0

/-- `MEM_DENY_ADDR`: the requester stands above the address. -/
def denyWord (h : Channel) : Nat := h.denyReq.toNat * 2 ^ 40 + h.denyAddr.toNat

def chanWord (s : State) (c : Fin 8) (off : Nat) : Nat :=
  let h := s.ddr.chan[c]
  match off with
  | 0x00 => (memStatus s c).toNat
  | 0x04 => h.err.toNat
  | 0x08 => b2n h.scrubEn * 2 ^ 31 + h.period.toNat * 2 ^ 8 + h.ceThr.toNat
  | 0x0C => h.scrubPos.toNat
  | 0x10 => h.cntCorr.toNat
  | 0x14 => h.cntUncorr.toNat
  | 0x18 => lo32 h.ueAddr.toNat
  | 0x1C => hiWord h.ueHi h.ueAddr.toNat
  | 0x20 => h.cntDeny.toNat
  | 0x24 => h.cntRd.toNat
  | 0x28 => h.cntWr.toNat
  | 0x2C => h.trainTj.toNat * 2 ^ 24 + b2n h.quick * 2 ^ 23
  | 0x30 => descWord s.ddr.desc[dieOfChan c]
  | 0x34 => capWord s c
  | 0x38 => h.cntRecal.toNat
  | 0x3C => h.cntSweep.toNat
  | 0x40 => h.mustSeq.toNat
  | 0x44 => lo32 h.mustT.toNat
  | 0x48 => hi32 h.mustT.toNat
  | 0x4C => h.mustRd.toNat
  | 0x50 => h.mustWr.toNat
  | 0x54 => h.mustStatus.toNat
  | 0x58 => h.corrSc[1].toNat * 2 ^ 16 + h.corrSc[0].toNat
  | 0x5C => Config.freeNat s.free % 1001
  | 0x60 => h.waitMax
  | 0x64 => h.cntAged.toNat
  | 0x68 => h.cntPd.toNat
  | 0x6C => h.therm.toNat
  | 0x70 => h.regSel.toNat
  | 0x74 => (regionView s c).getD 0 0
  | 0x78 => viewWord h.regView (regionView s c) 1
  | 0x7C => viewWord h.regView (regionView s c) 2
  | 0x80 => viewWord h.regView (regionView s c) 3
  | 0x84 => viewWord h.regView (regionView s c) 4
  | 0x88 => h.rank[0].toNat
  | 0x8C => h.rank[1].toNat
  | 0x90 => lo32 (denyWord h)
  | 0x94 => hiWord h.denyHi (denyWord h)
  | 0x98 => h.cntRmw.toNat
  | 0x9C => h.cntSref.toNat
  | _ => 0

/-! ### Paddocks (Tables 4-5 to 4-7, 14-9, 14-10, 18-7, 18-8) -/

/-- `PDK_STATUS` (Table 14-10). -/
def pdkStatus (d : Paddock) : Nat :=
  pdkCode d.state * 2 ^ 29 + b2n d.secure * 2 ^ 28 + b2n d.relReset * 2 ^ 27 + b2n d.relWrite * 2 ^ 26 + b2n d.relOutput * 2 ^ 25
    + d.tornWhy.toNat * 2 ^ 20 + d.lastIdx.toNat

/-- `PDK_BINVIEW` (Tables 4-6, 4-7). -/
def binView (s : State) (k : Fin 64) : Nat :=
  let x := s.bin (binNo k.val s.pdk[k].binSel.toNat)
  if s.pdk[k].binView then x.misuse.toNat * 2 ^ 24 + x.corr.toNat * 2 ^ 8 + x.uncorr.toNat
  else b2n x.notice.live * 2 ^ 31 + b2n x.notice.up * 2 ^ 30 + b2n x.notice.down * 2 ^ 29 + x.notice.cnt.toNat * 2 ^ 16
    + x.notice.high % 2 ^ 15

def pdkWord (s : State) (k : Fin 64) (off : Nat) : Nat :=
  let d := s.pdk[k]
  match off with
  | 0x00 => b2n (d.state != .live || d.inIso || d.outIso) * 2
  | 0x04 => pdkStatus d
  | 0x08 => d.err.toNat
  | 0x0C => d.drain.toNat
  | 0x10 => b2n d.tapOverrun * 2 ^ 31 + d.tapCount.toNat
  | 0x14 => d.paceSlot.toNat * 2 ^ 29 + b2n (s.gov.pace.any fun e => e.pdk == k.val && e.slot == d.paceSlot.toNat) * 2 ^ 28
      + (vget 0 d.paceCount d.paceSlot.toNat).toNat
  | 0x18 => b2n d.binView * 2 ^ 8 + d.binSel.toNat
  | 0x1C => binView s k
  | _ => 0

/-! ### Flow scheduler, cooling lists, trace (Tables 7-11 to 7-13, 8-7, 8-8, 18-10) -/

/-- `SCH_FLOWVIEW0` (Table 7-13). -/
def flowView (x : Flow) : Nat :=
  flowCode x.state * 2 ^ 30 + b2n (!spillEmpty x) * 2 ^ 29 + b2n x.order * 2 ^ 28 + x.prio * 2 ^ 26 + b2n x.keep * 2 ^ 25
    + b2n x.held * 2 ^ 24 + x.out.length * 2 ^ 15 + x.coll

/-- The views of `SCH_OPSEL`: `SCH_OPVIEW0` to `3`, then `SCH_CELIG0` to `7`. -/
def opViews (s : State) : List Nat :=
  let op := s.sch.opSel.toNat
  let o := opRec s op
  let has := decide (op < s.sch.graph.ops.length)
  let last := match tget none s.sch.last op with | none => 1023 | some e => execCode (some e)
  [o.cls * 2 ^ 29 + o.group * 2 ^ 27 + last * 2 ^ 16 + o.kernel.toNat, o.patience * 2 ^ 16 + o.winLen,
   (tget 0 s.sch.opDisp op).toNat, (tget 0 s.sch.opOut op).toNat]
    ++ (List.range 8).map fun k => bits32 k fun c => has && eligible s o c

/-- The views of `SCH_PORTSEL`. -/
def portViews (s : State) : List Nat :=
  let n := s.sch.portSel.toNat
  let x := vget ({} : OpPort) s.sch.ports n
  [portMode s n * 2 ^ 29 + b2n (portServed s n) * 2 ^ 28 + x.items.length * 2 ^ 25 + b2n x.holding * 2 ^ 24, x.received.toNat,
   x.delivered.toNat]

/-- The entries of a domain, in the list and due. -/
def domainEntries (s : State) (d : Nat) : List CoolEntry := (s.cool.entries ++ s.cool.dueQ).filter fun e => e.domain == d

/-- The views of `COOL_DOMSEL`. -/
def domViews (s : State) : List Nat :=
  let d := s.cool.domSel.toNat
  let t := uNat 64 (tickValue s d)
  let l := domainEntries s d
  let least := match l.map fun e => e.due with
    | [] => 0
    | a :: r => uNat 64 (r.foldl min a)
  let x := vget ({} : Domain) s.cool.domains d
  [lo32 t, hi32 t, l.length, lo32 least, hi32 least, if 9 ≤ d then x.tick * 2 ^ 10 + x.gen * 2 ^ 4 + x.src else 0]

/-- The views of `COOL_PROFSEL`. -/
def profViews (s : State) : List Nat :=
  let n := s.cool.profSel.toNat
  let x := vget ({} : Profile) s.cool.profiles n
  if n = 0 then [0, 0]
  else [lo32 x.delay, b2n x.valid * 2 ^ 22 + x.base * 2 ^ 20 + x.domain * 2 ^ 16 + x.delay / 2 ^ 32]

/-- `TRC_STATUS` (Table 8-8). -/
def trcStatus (t : Trace) : Nat :=
  b2n t.en * 2 ^ 31 + b2n t.destLost * 2 ^ 30 + t.dest * 2 ^ 28 + b2n t.wrap * 2 ^ 27 + b2n t.armed * 2 ^ 26 + b2n t.dropped * 2 ^ 25
    + t.matchKind.toNat * 2 ^ 16 + t.mask.toNat

/-- `SCH_STATUS`. -/
def schStatus (s : State) : Nat :=
  b2n (s.dev.state == .service) * 2 ^ 31 + b2n (s.sch.graph.id != 0) * 2 ^ 30 + b2n s.sch.placeWait * 2 ^ 29
    + b2n s.sch.refilling.isSome * 2 ^ 28

/-- Flows of a kind. -/
def flowCount (s : State) (p : Flow → Bool) : Nat := s.sch.flows.countP fun e => p e.2

/-- The cooling and trace registers (Tables 8-7, 18-10). -/
def coolWord (s : State) (off : Nat) : Nat :=
  let k := s.cool
  let t := s.trc
  match off with
  | 0x100 => coolLevel s
  | 0x104 => k.high
  | 0x108 => k.cntInsert.toNat
  | 0x10C => k.cntDue.toNat
  | 0x110 => k.cntWait.toNat
  | 0x120 => k.domSel.toNat
  | 0x124 => (domViews s).getD 0 0
  | 0x128 => viewWord k.domView (domViews s) 1
  | 0x12C => viewWord k.domView (domViews s) 2
  | 0x130 => viewWord k.domView (domViews s) 3
  | 0x134 => viewWord k.domView (domViews s) 4
  | 0x138 => viewWord k.domView (domViews s) 5
  | 0x140 => k.period
  | 0x150 => k.profSel.toNat
  | 0x154 => (profViews s).getD 0 0
  | 0x158 => viewWord k.profView (profViews s) 1
  | 0x180 => trcStatus t
  | 0x184 => noticeWord t.notice 25
  | 0x188 => t.wrIdx.toNat
  | 0x18C => t.rdIdx.toNat
  | 0x190 => t.size
  | 0x194 => t.written.toNat
  | 0x198 => t.drop.toNat
  | 0x19C => t.flowLo
  | 0x1A0 => t.flowHi
  | 0x1A4 => t.opFilter.getD 0xFFFF
  | 0x1A8 => if t.dest = 0 then 0 else lo32 t.base
  | 0x1AC => if t.dest = 0 then 0 else hi32 t.base
  | 0x1B0 => t.wmHigh
  | 0x1B4 => t.wmLow
  | _ => 0

/-- The further registers of Table 18-10. -/
def schMore (s : State) (off : Nat) : Nat :=
  let c := s.sch.cnt
  match off with
  | 0x200 => schStatus s
  | 0x204 => s.sch.params.spillHigh
  | 0x208 => s.sch.params.refillBelow
  | 0x20C => s.sch.params.hLimit
  | 0x210 => flowCount s fun x => x.state == .open
  | 0x214 => flowCount s fun x => x.state == .draining
  | 0x218 => flowCount s fun x => x.held
  | 0x21C => flowCount s fun x => !spillEmpty x
  | 0x220 => c.comp.toNat
  | 0x224 => c.pass.toNat
  | 0x228 => c.emit.toNat
  | 0x22C => c.ret.toNat
  | 0x230 => c.admH.toNat
  | 0x234 => c.admD.toNat
  | 0x238 => c.atDisp.toNat
  | 0x23C => c.delHost.toNat
  | 0x240 => c.delDdr.toNat
  | 0x244 => c.delPort.toNat
  | 0x248 => s.sch.arbWaitMax
  | 0x260 => s.sch.opSel.toNat
  | 0x264 => (opViews s).getD 0 0
  | 0x268 => viewWord s.sch.opView (opViews s) 1
  | 0x26C => viewWord s.sch.opView (opViews s) 2
  | 0x270 => viewWord s.sch.opView (opViews s) 3
  | 0x280 => s.sch.portSel.toNat
  | 0x284 => (portViews s).getD 0 0
  | 0x288 => viewWord s.sch.portView (portViews s) 1
  | 0x28C => viewWord s.sch.portView (portViews s) 2
  | off =>
    if 0x250 ≤ off ∧ off < 0x260 then (vget 0 c.dispP ((off - 0x250) / 4)).toNat
    else if 0x2A0 ≤ off ∧ off < 0x2C0 then bits32 ((off - 0x2A0) / 4) fun n => slotsOf s n != 0
    else if 0x2C0 ≤ off ∧ off < 0x2E0 then viewWord s.sch.opView (opViews s) (4 + (off - 0x2C0) / 4)
    else if 0x300 ≤ off ∧ off < 0x340 then bits32 ((off - 0x300) / 4) (portServed s)
    else 0

def schWord (s : State) (off : Nat) : Nat :=
  let c := s.sch.cnt
  let x := s.flow s.sch.flowSel.toNat
  match off with
  | 0x000 => s.sch.graph.id.toNat
  | 0x010 => noticeWord s.sch.poolNotice 19
  | 0x014 => s.sch.used
  | 0x018 => s.sch.params.poolWmh
  | 0x01C => s.sch.params.poolWml
  | 0x020 => noticeWord s.sch.spillNotice 25
  | 0x024 => s.sch.pages.length
  | 0x028 => s.sch.params.spillWmh
  | 0x02C => s.sch.params.spillWml
  | 0x040 => c.enq.toNat
  | 0x044 => c.disp.toNat
  | 0x048 => c.rel.toNat
  | 0x04C => c.affmiss.toNat
  | 0x050 => c.placewait.toNat
  | 0x054 => c.spill.toNat
  | 0x058 => c.refill.toNat
  | 0x05C => c.bp.toNat
  | 0x060 => c.faulted.toNat
  | 0x064 => c.order.toNat
  | 0x068 => c.discard.toNat
  | 0x06C => c.porterr.toNat
  | 0x080 => s.sch.flowSel.toNat
  | 0x084 => flowView x
  | 0x088 => x.last.toNat
  | 0x08C => x.pool.length
  | 0x090 => x.spill.length
  | off =>
    if 0xC0 ≤ off ∧ off < 0xE0 then (vget 0 s.sch.must ((off - 0xC0) / 4)).toNat
    else if off < 0x200 then coolWord s off
    else schMore s off

/-! ### Encoders and triggers (Tables 10-6 to 10-12) -/

/-- `ENC_VEL`: ±1/P̂ in 1/16 count/s, rounded as the spec does not state (R269). -/
def encVel (free : Nat) (x : Encoder) : Nat :=
  match estimate x with
  | none => 0
  | some e =>
    let v := rounded free (16 * 10 ^ 9 * 64 * 2 ^ x.par.win : Nat) e
    uNat 32 (if x.dir then -v else v)

/-- `ENC_STATUS` (Table 10-7). -/
def encStatus (x : Encoder) : Nat :=
  x.par.mode * 2 ^ 29 + b2n x.par.inv * 2 ^ 28 + b2n x.dir * 2 ^ 27 + b2n (estimate x).isSome * 2 ^ 26 + b2n x.zseen * 2 ^ 25
    + b2n x.tdcf * 2 ^ 24 + b2n x.failed * 2 ^ 23 + x.par.filt * 2 ^ 20 + x.par.win * 2 ^ 17 + x.par.zmode * 2 ^ 15
    + b2n x.par.src * 2 ^ 14

def encWord (s : State) (e : Fin 8) (off : Nat) : Nat :=
  let x := s.trig.enc[e]
  match off with
  | 0x00 => encStatus x
  | 0x04 => x.err.toNat
  | 0x08 => lo32 x.pos.toNat
  | 0x0C => hiWord x.capPos x.pos.toNat
  | 0x10 => encVel s.free x
  | 0x14 => lo32 x.zpos.toNat
  | 0x18 => hiWord x.capZpos x.zpos.toNat
  | 0x1C => x.illegal.toNat * 2 ^ 24 + x.overspeed.toNat * 2 ^ 16 + x.glitch.toNat
  | _ => 0

/-- The direction in which a generator's grid points are reached: backward only in both-directions mode (R272, R273). -/
def goesBack (s : State) (y : Gen) : Bool := y.par.both && (vget ({} : Encoder) s.trig.enc y.par.enc).dir

/-- The next grid point ahead of a generator: beyond H, or beyond the position in the direction of the last count. -/
def nextPoint (s : State) (g : Fin 64) : Option Nat :=
  let y := s.trig.gen[g]
  let x := vget ({} : Encoder) s.trig.enc y.par.enc
  let b := relPos x.pos.toInt y.par.start.toInt
  let h := if y.par.both then 0 else relPos x.pos.toInt y.high
  let up := max 0 (Int.fdiv (h - b) y.par.pitch + 1)
  let down := -Int.fdiv b y.par.pitch - 1
  let n : Int := y.par.count
  if y.state = .unconfigured then none
  else if goesBack s y then
    let k := if n = 0 then down else min down (n - 1)
    if k < 0 then none else some k.toNat
  else if n ≠ 0 ∧ n ≤ up then none else some up.toNat

/-- Grid points that remain in the direction of travel (log entry 58). -/
def pointsLeft (s : State) (g : Fin 64) : Nat :=
  let y := s.trig.gen[g]
  if y.par.count = 0 then 0xFFFFFFFF
  else match nextPoint s g with
    | some k => if goesBack s y then k + 1 else y.par.count - k
    | none => 0

/-- `FALLBACK`: an armed generator places from edges under R278 or R281 (log entry 58). -/
def fallsBack (s : State) (y : Gen) : Bool :=
  let x := vget ({} : Encoder) s.trig.enc y.par.enc
  y.state == .armed && (edgeOnly x || (!y.par.edge && (estimate x).isNone))

/-- The views of `TRG_GENSEL`. The next grid point of a generator that has none ahead is a free value. -/
def genViews (s : State) : List Nat :=
  let g : Fin 64 := ⟨s.trig.genSel.toNat, s.trig.genSel.isLt⟩
  let y := s.trig.gen[g]
  let next := match nextPoint s g with
    | some k => (nominal y.par k).toNat
    | none => Config.freeNat s.free % 2 ^ 64
  let h := if y.par.both then 0 else uNat 64 y.high
  [genCode y.state * 2 ^ 30 + b2n y.par.both * 2 ^ 29 + b2n y.par.edge * 2 ^ 28 + b2n (fallsBack s y) * 2 ^ 27
     + b2n y.par.line * 2 ^ 26 + y.par.enc * 2 ^ 16 + y.gsupp.toNat,
   y.lastSeq.toNat, lo32 next, hi32 next, pointsLeft s g, lo32 h, hi32 h]

/-- The output that `TRG_OUTSEL` names. -/
def selOut (s : State) : Fin 256 := ⟨s.trig.outSel.toNat, s.trig.outSel.isLt⟩

/-- The views of `TRG_OUTSEL`. -/
def outViews (s : State) : List Nat :=
  let x := s.trig.out[selOut s]
  let o := uNat 64 x.offset
  [lo32 o, hi32 o, b2n x.pol * 2 ^ 31 + b2n x.dlf * 2 ^ 30 + x.spacing, x.width * 2 ^ 16 + x.supp.toNat,
   (match x.last with | some t => lo32 (t / 2 ^ 20) | none => 0)]

/-- `TRG_STATUS` (Table 10-11). -/
def trgStatus (t : Trig) : Nat :=
  maskOf ((List.range 8).filter fun n => (vget ({} : Encoder) t.enc n).tdcf) * 2 ^ 24
    + maskOf ((List.range 8).filter fun n => (vget ({} : Encoder) t.enc n).failed) * 2 ^ 16
    + maskOf ((List.range 8).filter fun n => (vget ({} : Compare) t.cmp n).met) * 2 ^ 8
    + maskOf ((List.range 8).filter fun n => (vget ({} : Compare) t.cmp n).armed)

def trigWord (s : State) (off : Nat) : Nat :=
  let t := s.trig
  match off with
  | 0x100 => t.genSel.toNat
  | 0x104 => (genViews s).getD 0 0
  | 0x140 => t.outSel.toNat
  | 0x144 => (outViews s).getD 0 0
  | 0x180 => trgStatus t
  | 0x184 => maskOf ((List.range 32).filter fun n => (vget ({} : TrigOut) t.out n).dlf)
  | 0x188 => t.err.toNat
  | 0x18C => t.fired.toNat
  | 0x190 => t.supp.toNat
  | 0x194 => t.late.toNat
  | 0x198 => t.wire.toNat
  | 0x1C0 => t.mustSeq.toNat
  | 0x1C4 => lo32 t.mustT.toNat
  | 0x1C8 => hi32 t.mustT.toNat
  | off =>
    if off < 0x100 then encWord s (Fin.ofNat 8 (off / 0x20)) (off % 0x20)
    else if 0x108 ≤ off ∧ off < 0x120 then viewWord t.genView (genViews s) ((off - 0x104) / 4)
    else if 0x148 ≤ off ∧ off < 0x158 then viewWord t.outView (outViews s) ((off - 0x144) / 4)
    else if 0x1D0 ≤ off ∧ off < 0x1F0 then fld (vget ({} : Encoder) t.enc ((off - 0x1D0) / 4)).must 10 32
    else 0

/-! ### GPIO (Tables 17-2, 17-10, 17-11) -/

/-- `GPIO_PINg` (Table 17-2). -/
def pinWord (s : State) (g : Fin 96) : Nat :=
  let p := s.pins.gpio[g]
  p.func.toNat * 2 ^ 28 + b2n (pinIn s g) * 2 ^ 27 + b2n p.out * 2 ^ 26 + b2n p.oe * 2 ^ 25 + p.pull.toNat * 2 ^ 23
    + b2n p.drive * 2 ^ 22 + b2n p.fin * 2 ^ 21 + b2n p.fout * 2 ^ 20 + p.role.toNat * 2 ^ 17 + p.inst.toNat * 2 ^ 15
    + p.sel.toNat * 2 ^ 8 + p.param.toNat

def gpioWord (s : State) (off : Nat) : Nat :=
  if off < 0x180 then pinWord s (Fin.ofNat 96 (off / 4))
  else if off < 0x18C then bits32 ((off - 0x180) / 4) fun n => pinIn s (Fin.ofNat 96 n)
  else if off = 0x18C then (List.range 6).foldl (fun a b => a + (vget 0 s.pins.banks b).toNat * 4 ^ b) 0
  else if 0x190 ≤ off ∧ off < 0x19C then bits32 ((off - 0x190) / 4) fun n => (vget ({} : Gpio) s.pins.gpio n).ovr
  else if off = 0x19C then s.pins.serErr.toNat * 2 ^ 16
  else 0

/-! ### Configuration and fettler (Tables 14-11 to 14-14) -/

/-- `CFG_STATUS` (Table 14-12). -/
def cfgStatus (c : Cfg) : Nat :=
  b2n c.pour.isSome * 2 ^ 31 + b2n c.host * 2 ^ 30 + c.slot.toNat * 2 ^ 27 + b2n c.fallback * 2 ^ 26 + b2n c.golden * 2 ^ 25
    + c.lstatus.toNat * 2 ^ 16 + c.ldetail.toNat

def cfgWord (s : State) (off : Nat) : Nat :=
  let c := s.cfg
  match off with
  | 0x00 => cfgStatus c
  | 0x04 => c.err.toNat
  | 0x08 => c.flashStatus.toNat
  | 0x0C => c.written.toNat
  | 0x10 => c.lastAddr.toNat
  | 0x14 => c.pours.toNat
  | 0x18 => b2n c.ftlEn * 2 ^ 31 + c.ftlPeriod
  | 0x1C => ftlPos s
  | 0x20 => c.ftlCorr.toNat
  | 0x24 => c.ftlUncorr.toNat
  | 0x28 => c.ftlUeAddr.toNat
  | 0x2C => c.ftlSweeps.toNat
  | 0x30 => c.mustSeq.toNat
  | 0x34 => lo32 c.mustT.toNat
  | 0x38 => hi32 c.mustT.toNat
  | 0x3C => c.mustPos.toNat
  | _ => 0

/-! ### Governor and power (Tables 5-6, 18-11) -/

/-- A sensor of the die could be valid and none has been sampled yet: `GOV_TRANGEd` still holds its reset value. -/
def unsampled (s : State) (d : Fin 2) : Bool :=
  (dieTemps s d).isEmpty && ((s.pins.sensors.toList.drop (16 * d.val)).take 16).any fun x => !x.failed

/-- `GOV_TRANGEd`: a bound that is no whole number of degrees is rounded as the spec does not state. -/
def trange (s : State) (d : Fin 2) : Nat :=
  let r := dieRange s d
  if unsampled s d then 0
  else (dieTemps s d).length * 2 ^ 16 + uNat 8 (rounded s.free r.2 16) * 2 ^ 8 + uNat 8 (rounded (s.free + 1) r.1 16)

/-- `RAIL_r`. -/
def railWord (r : Rail) : Nat := b2n r.fail * 2 ^ 31 + b2n r.oot * 2 ^ 30 + (if r.fail then 0 else r.mv.toNat)

def govWord (s : State) (off : Nat) : Nat :=
  let p := s.gov.params
  match off with
  | 0x00 => b2n p.fixed * 2 ^ 31 + p.margin * 2 ^ 24 + p.near * 2 ^ 16 + p.holdWin * 2 ^ 8 + p.tguard
  | 0x04 => p.ceiling * 2 ^ 16 + p.floor
  | 0x08 => p.twarn * 2 ^ 24 + p.fixedV
  | 0x0C => 10 * p.window
  | 0x10 => (govStatus s 0).toNat
  | 0x14 => (govStatus s 1).toNat
  | 0x18 => s.gov.die[0].must.toNat
  | 0x1C => s.gov.die[1].must.toNat
  | 0x30 => floorEff s 1 * 2 ^ 16 + floorEff s 0
  | 0x34 => trange s 0
  | 0x38 => trange s 1
  | 0x3C => s.pins.iread[0].toNat
  | 0x40 => s.pins.iread[1].toNat
  | off =>
    if 0x20 ≤ off ∧ off < 0x30 then bits32 ((off - 0x20) / 4) (inFifoMask s)
    else if 0x44 ≤ off ∧ off < 0x60 then railWord (vget {} s.pins.rails ((off - 0x44) / 4))
    else 0

/-! ### The whole map (Table 18-1) -/

/-- The value of the register at BAR0 address `a`; a semaphore and a mailbox window show what they hold. -/
def regWord (s : State) (a : Nat) : Nat :=
  if a < 0x1000 then hubWord s a
  else if a < 0x2000 then if a < 0x1100 then semWord (vget {} s.hosts.sem ((a - 0x1000) / 4)) else 0
  else if a < 0x10000 then musWord s (a - 0x2000)
  else if a < 0x20000 then portWord s (Fin.ofNat 2 ((a - 0x10000) / 0x8000)) (a % 0x8000)
  else if a < 0x22000 then leNat (readBytes (vget ({} : Port) s.hosts.port ((a - 0x20000) / 0x1000)).mbx (a % 0x1000) 4)
  else if a < 0x100000 then 0
  else if a < 0x120000 then linkWord s (Fin.ofNat 128 ((a - 0x100000) / 0x400)) (a % 0x400)
  else if a < 0x140000 then 0
  else if a < 0x148000 then chanWord s (Fin.ofNat 8 ((a - 0x140000) / 0x1000)) (a % 0x1000)
  else if a < 0x180000 then 0
  else if a < 0x184000 then pdkWord s (Fin.ofNat 64 ((a - 0x180000) / 0x100)) (a % 0x100)
  else if a < 0x200000 then 0
  else if a < 0x240000 then schWord s (a - 0x200000)
  else if a < 0x280000 then trigWord s (a - 0x240000)
  else if a < 0x2C0000 then gpioWord s (a - 0x280000)
  else if a < 0x300000 then cfgWord s (a - 0x2C0000)
  else if a < 0x340000 then govWord s (a - 0x300000)
  else 0

/-- The value that a read returns: before HALTER only the hub state registers, and from step 3 the identity registers
(R314). -/
def shownWord (s : State) (a : Nat) : Nat :=
  if served s then regWord s a
  else if a = 0x40 ∨ a = 0x44 then hubWord s a
  else if 3 ≤ s.dev.startStep then (identWord s a).getD 0
  else 0

/-! ### What a read changes -/

/-- One free value has been drawn. -/
def drew (s : State) (n : Nat) : State := { s with free := s.free + n }

def hubTouch (s : State) (off : Nat) : State :=
  match off with
  | 0x48 => { s with pps.timeHi := some (BitVec.ofNat 32 (hi32 s.dev.yard)) }
  | 0x64 => { s with pins.toCnt := 0 }
  | _ => s

def musTouch (s : State) (off : Nat) : State :=
  match off with
  | 0x0C => { s with mus.timeHi := some (BitVec.ofNat 32 (hi32 s.mus.time.toNat)) }
  | 0x18 => { s with mus.cntMissed := 0 }
  | _ => s

def linkTouch (s : State) (n : Fin 128) (off : Nat) : State :=
  match off with
  | 0x10 => s.modLink n fun l => { l with notice := noticeRead l.notice (fifoLevel l) }
  | 0x1C => s.modLink n fun l => { l with cntCrc := 0, cntOvf := 0, cntUnm := 0, cntMiss := 0 }
  | _ => s

def chanTouch (s : State) (c : Fin 8) (off : Nat) : State :=
  match off with
  | 0x10 => s.modChan c fun h => { h with cntCorr := 0 }
  | 0x14 => s.modChan c fun h => { h with cntUncorr := 0 }
  | 0x18 => s.modChan c fun h => { h with ueHi := some (BitVec.ofNat 32 (hi32 h.ueAddr.toNat)) }
  | 0x20 => s.modChan c fun h => { h with cntDeny := 0 }
  | 0x58 => s.modChan c fun h => { h with corrSc := Vector.replicate 2 0 }
  | 0x5C => drew (s.modChan c fun h => { h with util := Config.freeNat s.free % 1001 }) 1
  | 0x60 => s.modChan c fun h => { h with waitMax := 0 }
  | 0x74 => s.modChan c fun h => { h with regView := viewOf 5 (regionView s c) }
  | 0x90 => s.modChan c fun h => { h with denyHi := some (BitVec.ofNat 32 (hi32 (denyWord h))) }
  | _ => s

/-- The RC fields of the view of a bin that is read (R102). -/
def binViewTouch (s : State) (k : Fin 64) : State :=
  let b := s.pdk[k].binSel.toNat
  if s.pdk[k].binView then s.modBin (binNo k.val b) fun x => { x with misuse := 0, corr := 0, uncorr := 0 }
  else
    let lv := binLevel s k.val b
    s.modBin (binNo k.val b) fun x => { x with notice := noticeRead x.notice lv }

def pdkTouch (s : State) (k : Fin 64) (off : Nat) : State :=
  match off with
  | 0x08 => s.modPdk k fun d => { d with err := setFld d.err 0 8 0 }
  | 0x0C => s.modPdk k fun d => { d with drain := 0 }
  | 0x10 => s.modPdk k fun d => { d with tapCount := 0 }
  | 0x1C => binViewTouch s k
  | _ => s

def schTouch (s : State) (off : Nat) : State :=
  match off with
  | 0x010 => { s with sch.poolNotice := noticeRead s.sch.poolNotice s.sch.used }
  | 0x020 => { s with sch.spillNotice := noticeRead s.sch.spillNotice s.sch.pages.length }
  | 0x104 => { s with cool.high := coolLevel s }
  | 0x124 => { s with cool.domView := viewOf 6 (domViews s) }
  | 0x154 => { s with cool.profView := viewOf 2 (profViews s) }
  | 0x184 => { s with trc.notice := noticeRead s.trc.notice (s.trc.wrIdx - s.trc.rdIdx).toNat }
  | 0x248 => { s with sch.arbWaitMax := 0 }
  | 0x264 => { s with sch.opView := viewOf 12 (opViews s) }
  | 0x284 => { s with sch.portView := viewOf 3 (portViews s) }
  | _ => s

def encTouch (s : State) (e : Fin 8) (off : Nat) : State :=
  match off with
  | 0x08 => s.modEnc e fun x => { x with capPos := some (BitVec.ofNat 32 (hi32 x.pos.toNat)) }
  | 0x10 => drew s 1
  | 0x14 => s.modEnc e fun x => { x with capZpos := some (BitVec.ofNat 32 (hi32 x.zpos.toNat)) }
  | 0x1C => s.modEnc e fun x => { x with illegal := 0, overspeed := 0, glitch := 0 }
  | _ => s

/-- A read of `TRG_OUTVIEW3` takes the count that it shows off `SUPP`, so that no count is lost (R453). -/
def suppTouch (s : State) : State :=
  s.modTrigOut (selOut s) fun x => { x with supp := 0 }

def trigTouch (s : State) (off : Nat) : State :=
  match off with
  | 0x104 =>
    drew ({ s with trig.genView := viewOf 7 (genViews s) }.modGen ⟨s.trig.genSel.toNat, s.trig.genSel.isLt⟩
      fun y => { y with gsupp := 0 }) 1
  | 0x10C | 0x110 => drew s 1
  | 0x144 => { s with trig.outView := viewOf 5 (outViews s) }
  | 0x150 => suppTouch s
  | off => if off < 0x100 then encTouch s (Fin.ofNat 8 (off / 0x20)) (off % 0x20) else s

def cfgTouch (s : State) (off : Nat) : State :=
  match off with
  | 0x20 => { s with cfg.ftlCorr := 0 }
  | 0x24 => { s with cfg.ftlUncorr := 0 }
  | _ => s

/-- What a read of the register at `a` changes. -/
def regTouch (s : State) (a : Nat) : State :=
  if a < 0x1000 then hubTouch s a
  else if a < 0x2000 then s
  else if a < 0x10000 then musTouch s (a - 0x2000)
  else if a < 0x20000 then
    if a % 0x8000 = 0x48 then
      s.modRing (Fin.ofNat 2 ((a - 0x10000) / 0x8000)) (selRing s (Fin.ofNat 2 ((a - 0x10000) / 0x8000))) fun r => { r with drop := 0 }
    else s
  else if a < 0x100000 then s
  else if a < 0x120000 then linkTouch s (Fin.ofNat 128 ((a - 0x100000) / 0x400)) (a % 0x400)
  else if a < 0x140000 then s
  else if a < 0x148000 then chanTouch s (Fin.ofNat 8 ((a - 0x140000) / 0x1000)) (a % 0x1000)
  else if a < 0x180000 then s
  else if a < 0x184000 then pdkTouch s (Fin.ofNat 64 ((a - 0x180000) / 0x100)) (a % 0x100)
  else if a < 0x200000 then s
  else if a < 0x240000 then schTouch s (a - 0x200000)
  else if a < 0x280000 then trigTouch s (a - 0x240000)
  else if a = 0x28019C then { s with pins.serErr := 0 }
  else if a < 0x2C0000 then s
  else if a < 0x300000 then cfgTouch s (a - 0x2C0000)
  else if a = 0x300034 ∨ a = 0x300038 then drew s 2
  else s

/-! ### Reads -/

/-- Address of a semaphore. -/
def semAt (a : Nat) : Option (Fin 64) := if 0x1000 ≤ a ∧ a < 0x1100 then some (Fin.ofNat 64 ((a - 0x1000) / 4)) else none

/-- A read by port `p` of the register at `a`. -/
def readReg (s : State) (p : Fin 2) (a : Nat) : State :=
  match semAt a with
  | some n => semRead s p n
  | none => readReply (if served s then regTouch s a else s) p (shownWord s a)

end Sys2Proof.Machine
end

