-- ==== Sys2Proof/Machine/RegWrite.lean ====
section
/-! DEFINITION. Machine/RegWrite.lean: what a write of every register of BAR0 does (Table 0-1, R6, R7), the order of two
accesses in one hub cycle (R453), and the access rows. -/

namespace Sys2Proof.Machine

open Sys2Proof

/-- A W1C field of a word: each 1 bit of the write within `mask` clears its bit. -/
def w1c {w : Nat} (x : BitVec w) (v mask : BitVec w) : BitVec w := x &&& ~~~(v &&& mask)

/-- `UP` and `DOWN` of a notice, cleared by a W1C write of bits 30 and 29. -/
def noticeWrite (n : Notice) (v : BitVec 32) : Notice := { n with up := n.up && !v.getLsbD 30, down := n.down && !v.getLsbD 29 }

/-! ### Blocks -/

def hubWrite (s : State) (off : Nat) (v : BitVec 32) : State :=
  match off with
  | 0x1C => { s with dev.evt := w1c s.dev.evt (v.setWidth 13) 0x1FFF }
  | 0x50 => { s with pps.en := v.getLsbD 31, pps.step := v.getLsbD 30, pps.pin := BitVec.ofNat 7 (fld v 0 7) }
  | 0x54 => { s with pps.stepped := s.pps.stepped && !v.getLsbD 29 }
  | 0x60 => { s with pins.lost := w1c s.pins.lost (BitVec.ofNat 16 (fld v 16 16)) 0xFFFF }
  | 0x64 =>
    let x := fld v 0 10
    if 1 ≤ x ∧ x ≤ 1000 then { s with pins.timeout := BitVec.ofNat 10 x } else s
  | 0x68 => { s with pins.xovr := w1c s.pins.xovr (v.setWidth 10) 0x3FF }
  | off =>
    if 0x70 ≤ off ∧ off < 0x7C then treeWrite s (Fin.ofNat 3 ((off - 0x70) / 4)) v
    else if 0x100 ≤ off ∧ off < 0x110 then { s with dev.scr := vmodN s.dev.scr ((off - 0x100) / 4) fun _ => v }
    else s

def musWrite (s : State) (off : Nat) (v : BitVec 32) : State :=
  match off with
  | 0x04 => { s with mus.missed := s.mus.missed && !v.getLsbD 29, mus.inc := s.mus.inc && !v.getLsbD 28 }
  | 0x14 => musAckWrite s v
  | _ => s

/-- A half of a ring's base, while the ring is not enabled (R327). -/
def rbaseWrite (s : State) (p : Fin 2) (lo : Nat) (v : BitVec 32) : State :=
  s.modRing p (selRing s p) fun r =>
    if r.en then r else { r with base := setFld r.base lo 32 (if lo = 0 then v.toNat / 4096 * 4096 else v.toNat) }

/-- A write of a register of port `p`'s block by that port; `buf`: the host buffer of a command that `GO` starts. -/
def portWrite (s : State) (p : Fin 2) (off : Nat) (v : BitVec 32) (buf : Option (List Byte)) : State :=
  match off with
  | 0x004 => s.modPort p fun h => { h with err := w1c h.err v 0xFFC00000 }
  | 0x008 => hpCtlWrite s p v
  | 0x00C => if fld v 0 16 ≤ 60000 then s.modPort p fun h => { h with semGrace := fld v 0 16 } else s
  | 0x024 => s.modPort p fun h => { h with aper := BitVec.ofNat 11 (fld v 0 11) }
  | 0x028 => if fld v 0 4 ≤ 12 then s.modPort p fun h => { h with vecSel := BitVec.ofNat 4 (fld v 0 4) } else s
  | 0x02C =>
    s.modPort p fun h =>
      { h with vecMap := vmodN h.vecMap h.vecSel.toNat fun _ => { en := v.getLsbD 31, vec := BitVec.ofNat 6 (fld v 0 6) } }
  | 0x030 => if fld v 0 5 ≤ 23 then s.modPort p fun h => { h with ringSel := BitVec.ofNat 5 (fld v 0 5) } else s
  | 0x034 => rbaseWrite s p 0 v
  | 0x038 => rbaseWrite s p 32 v
  | 0x03C => rcfgWrite s p v
  | 0x100 => goWrite s p v buf
  | off =>
    if 0x80 ≤ off ∧ off < 0x90 then sqTailWrite s p (Fin.ofNat 4 ((off - 0x80) / 4)) v
    else if 0x90 ≤ off ∧ off < 0xA0 then rqHeadWrite s p (Fin.ofNat 4 ((off - 0x90) / 4)) v
    else if 0xC0 ≤ off ∧ off < 0x100 then rrRelWrite s p (Fin.ofNat 16 ((off - 0xC0) / 4)) v
    else s

/-- A write into port `p`'s mailbox window: ignored while `STATE` is BUSY (R332). -/
def mailboxWrite (s : State) (p : Fin 2) (off : Nat) (v : BitVec 32) : State :=
  if s.hosts.port[p].mbxState = 1 then hpErr s p hpMbx
  else s.modPort p fun h => { h with mbx := writeBytes h.mbx off (leBytes 4 v.toNat) }

/-- `CXP_FIFO_WM` (Table 9-15). -/
def fifoWmWrite (s : State) (n : Fin 128) (v : BitVec 32) : State :=
  let hi := fld v 0 11
  let lo := fld v 16 11
  if hi ≤ 1024 ∧ lo ≤ 1024 ∧ (hi = 0 ∨ lo < hi) then fifoNotice (s.modLink n fun l => { l with wmHigh := hi, wmLow := lo }) n else s

def linkWrite (s : State) (n : Fin 128) (off : Nat) (v : BitVec 32) : State :=
  match off with
  | 0x00 => linkCtlWrite s n v
  | 0x08 => s.modLink n fun l => { l with err := w1c l.err v 0xFFC00000 }
  | 0x0C => fifoWmWrite s n v
  | 0x10 => s.modLink n fun l => { l with notice := noticeWrite l.notice v }
  | _ => s

/-- `MEM_SCRUB` (Table 11-10). -/
def scrubWrite (h : Channel) (v : BitVec 32) : Channel :=
  let x := fld v 8 8
  { h with scrubEn := v.getLsbD 31, period := if 1 ≤ x ∧ x ≤ 168 then BitVec.ofNat 8 x else h.period,
           ceThr := BitVec.ofNat 8 (fld v 0 8) }

def chanWrite (s : State) (c : Fin 8) (off : Nat) (v : BitVec 32) : State :=
  match off with
  | 0x04 => s.modChan c fun h => { h with err := w1c h.err v 0xF8000000 }
  | 0x08 => s.modChan c fun h => scrubWrite h v
  | 0x70 => if fld v 0 7 ≤ 71 then s.modChan c fun h => { h with regSel := BitVec.ofNat 7 (fld v 0 7), regView := none } else s
  | _ => s

/-- `PDK_BINVIEW`: a W1C write acts on the selected bin (R102). -/
def binViewWrite (s : State) (k : Fin 64) (v : BitVec 32) : State :=
  if s.pdk[k].binView then s
  else s.modBin (binNo k.val s.pdk[k].binSel.toNat) fun x => { x with notice := noticeWrite x.notice v }

def pdkWrite (s : State) (k : Fin 64) (off : Nat) (v : BitVec 32) : State :=
  match off with
  | 0x00 => pdkCtlWrite s k v
  | 0x08 => if v.getLsbD 31 then s.modPdk k fun d => { d with err := setFld d.err 8 24 0 } else s
  | 0x10 => s.modPdk k fun d => { d with tapOverrun := d.tapOverrun && !v.getLsbD 31 }
  | 0x14 => s.modPdk k fun d => { d with paceSlot := BitVec.ofNat 3 (fld v 29 3) }
  | 0x18 => s.modPdk k fun d => { d with binView := v.getLsbD 8, binSel := BitVec.ofNat 6 (fld v 0 6) }
  | 0x1C => binViewWrite s k v
  | _ => s

def schWrite (s : State) (off : Nat) (v : BitVec 32) : State :=
  match off with
  | 0x010 => { s with sch.poolNotice := noticeWrite s.sch.poolNotice v }
  | 0x020 => { s with sch.spillNotice := noticeWrite s.sch.spillNotice v }
  | 0x080 => { s with sch.flowSel := BitVec.ofNat 20 (fld v 0 20) }
  | 0x120 => { s with cool.domSel := BitVec.ofNat 4 (fld v 0 4), cool.domView := none }
  | 0x150 => { s with cool.profSel := BitVec.ofNat 4 (fld v 0 4), cool.profView := none }
  | 0x180 => { s with trc.dropped := s.trc.dropped && !v.getLsbD 25 }
  | 0x184 => { s with trc.notice := noticeWrite s.trc.notice v }
  | 0x18C => trcRdidxWrite s v
  | 0x260 => { s with sch.opSel := BitVec.ofNat 12 (fld v 0 12), sch.opView := none }
  | 0x280 => { s with sch.portSel := BitVec.ofNat 9 (fld v 0 9), sch.portView := none }
  | _ => s

def trigWrite (s : State) (off : Nat) (v : BitVec 32) : State :=
  match off with
  | 0x100 => { s with trig.genSel := BitVec.ofNat 6 (fld v 0 6), trig.genView := none }
  | 0x140 => { s with trig.outSel := BitVec.ofNat 8 (fld v 0 8), trig.outView := none }
  | 0x180 => { s with trig.cmp := vmapI s.trig.cmp fun u (c : Compare) => { c with met := c.met && !v.getLsbD (8 + u) } }
  | 0x188 => { s with trig.err := w1c s.trig.err v 0xF0000000 }
  | off =>
    if off < 0x100 ∧ off % 0x20 = 0x04 then
      s.modEnc (Fin.ofNat 8 (off / 0x20)) fun x => { x with err := w1c x.err v 0xF0000000 }
    else s

def gpioRegWrite (s : State) (off : Nat) (v : BitVec 32) : State :=
  if off < 0x180 then gpioWrite s (Fin.ofNat 96 (off / 4)) v
  else if 0x190 ≤ off ∧ off < 0x19C then
    { s with pins.gpio := vmapI s.pins.gpio fun g (p : Gpio) =>
        if g / 32 = (off - 0x190) / 4 then { p with ovr := p.ovr && !v.getLsbD (g % 32) } else p }
  else s

def govWrite (s : State) (off : Nat) (v : BitVec 32) : State :=
  let clear := fun (d : Fin 2) => s.modGov d fun g =>
    { g with avsFault := g.avsFault && !v.getLsbD 29, therm := g.therm && !v.getLsbD 28 }
  if off = 0x10 then clear 0
  else if off = 0x14 then clear 1
  else if 0x44 ≤ off ∧ off < 0x60 then
    { s with pins.rails := vmodN s.pins.rails ((off - 0x44) / 4) fun (r : Rail) => { r with oot := r.oot && !v.getLsbD 30 } }
  else s

/-! ### The whole map -/

/-- A write by port `p` to the register at BAR0 address `a`, which the port may write. -/
def writeReg (s : State) (p : Fin 2) (a : Nat) (v : BitVec 32) (buf : Option (List Byte)) : State :=
  if a < 0x1000 then hubWrite s a v
  else if a < 0x1100 then semWrite s p (Fin.ofNat 64 ((a - 0x1000) / 4)) v
  else if a < 0x2000 then s
  else if a < 0x10000 then musWrite s (a - 0x2000) v
  else if a < 0x20000 then portWrite s p (a % 0x8000) v buf
  else if a < 0x22000 then mailboxWrite s p (a % 0x1000) v
  else if a < 0x100000 then s
  else if a < 0x120000 then linkWrite s (Fin.ofNat 128 ((a - 0x100000) / 0x400)) (a % 0x400) v
  else if a < 0x140000 then s
  else if a < 0x148000 then chanWrite s (Fin.ofNat 8 ((a - 0x140000) / 0x1000)) (a % 0x1000) v
  else if a < 0x180000 then s
  else if a < 0x184000 then pdkWrite s (Fin.ofNat 64 ((a - 0x180000) / 0x100)) (a % 0x100) v
  else if a < 0x200000 then s
  else if a < 0x240000 then schWrite s (a - 0x200000) v
  else if a < 0x280000 then trigWrite s (a - 0x240000) v
  else if a < 0x2C0000 then gpioRegWrite s (a - 0x280000) v
  else if a = 0x2C0004 then { s with cfg.err := w1c s.cfg.err v 0xFE000000 }
  else if a < 0x300000 then s
  else if a < 0x340000 then govWrite s (a - 0x300000) v
  else s

/-- The port whose block or mailbox window holds an address (R316). -/
def ownerOf (a : Nat) : Option (Fin 2) :=
  if 0x10000 ≤ a ∧ a < 0x20000 then some (Fin.ofNat 2 ((a - 0x10000) / 0x8000))
  else if 0x20000 ≤ a ∧ a < 0x22000 then some (Fin.ofNat 2 ((a - 0x20000) / 0x1000))
  else none

/-- A write to BAR0 by port `p` (R316, R452). -/
def bar0Write (s : State) (p : Fin 2) (a : Nat) (v : BitVec 32) (buf : Option (List Byte)) : State :=
  if (ownerOf a).any (· != p) then hpErr s p hpAcc
  else if (ownerOf a).isSome && holdsWrites s then holdWrite s p a v buf
  else if served s then writeReg s p a v buf
  else s

/-- The writes of a port that were held, in order, when the device leaves STARTING (R333, R452); a held `GO` runs its command
with the window as they all leave it. -/
def releaseHeldWrites (s : State) (p : Fin 2) : State :=
  let put (s : State) (l : List (Nat × BitVec 32 × Option (List Byte))) : State :=
    l.foldl (fun s e => writeReg s p e.1 e.2.1 e.2.2) s
  let l := s.hosts.port[p].held
  let go := fun (e : Nat × BitVec 32 × Option (List Byte)) => e.1 == hpAddr p 0x100
  put (put (s.modPort p fun h => { h with held := [] }) (l.filter fun e => !go e)) (l.filter go)

/-! ### Accesses (R4, R316, R453) -/

/-- An address within the mailbox windows. -/
def inMailbox (a : Nat) : Bool := decide (0x20000 ≤ a) && decide (a < 0x22000)

/-- An access that breaks R4: no effect, all ones to a read, `HP_ERR.ACC` of the accessing port. -/
def badAccess (s : State) (p : Fin 2) (size : Nat) (write : Bool) : State :=
  let s := hpErr s p hpAcc
  if write then s else s.emit (.readData p (List.replicate size 0xFF))

/-- One 32-bit access of port `p` to BAR0, for which its link leaves L1. -/
def bar0Access (s : State) (p : Fin 2) (a : Nat) (x : HostAccess) : State :=
  if !reaches s p then s
  else
  let s := if s.hosts.port[p].l1 then s.modPort p fun h => { h with l1 := false } else s
  match x with
  | .read => if a % 4 ≠ 0 ∧ !inMailbox a then badAccess s p 4 false else readReg s p a
  | .write v => if a % 4 ≠ 0 ∧ !inMailbox a then badAccess s p 4 true else bar0Write s p a v none

/-- Two accesses to one register in the same hub cycle, in the order of the register-file tie bit, which alternates; two
reads of a semaphore use its own tie (R323). -/
def tiedAccess (s : State) (p : Fin 2) (a : Nat) (x y : HostAccess) : State :=
  match semAt a, x, y with
  | some n, .read, .read => semReadBoth s n
  | _, _, _ =>
    let xFirst := s.hosts.tie == (p == 1)
    let s := { s with hosts.tie := !s.hosts.tie }
    if xFirst then bar0Access (bar0Access s p a x) (1 - p) a y else bar0Access (bar0Access s (1 - p) a y) p a x

/-- An access of port `p`, with the access that the other port makes to the same register in the same cycle. -/
def hostAccess (s : State) (p : Fin 2) (a : Nat) (x : HostAccess) (tie : Option HostAccess) : State :=
  match tie with
  | some y => if reaches s p && reaches s (1 - p) then tiedAccess s p a x y else bar0Access (bar0Access s p a x) (1 - p) a y
  | none => bar0Access s p a x

/-- `VIEW_CAPTURE_READ`: the read of the register at an address; that of a capture register captures its view. -/
def execViewCaptureRead (p : Fin 2) (addr : BitVec 24) (tie : Option HostAccess) (s : State) : Host.Outcome State Fault Refusal :=
  .next (hostAccess s p addr.toNat .read tie)

/-- `LOW_WORD_CAPTURE_READ`: the read of the register at an address; that of a low word captures its high word. -/
def execLowWordCaptureRead (p : Fin 2) (addr : BitVec 24) (tie : Option HostAccess) (s : State) : Host.Outcome State Fault Refusal :=
  .next (hostAccess s p addr.toNat .read tie)

/-- `RC_READ`: the read of the register at an address; its RC fields clear. -/
def execRcRead (p : Fin 2) (bar : Bar) (addr : BitVec 24) (tie : Option HostAccess) (s : State) :
    Host.Outcome State Fault Refusal :=
  .next (match bar with
  | .bar0 => hostAccess s p addr.toNat .read tie
  | .bar4 => if reaches s p then readReply s p (bar4Read s p (addr.toNat % 0x1000)) else s)

/-- `REGISTER_WRITE`. -/
def execRegisterWrite (p : Fin 2) (bar : Bar) (addr : BitVec 24) (v : BitVec 32) (tie : Option HostAccess) (s : State) :
    Host.Outcome State Fault Refusal :=
  .next (match bar with
  | .bar0 => hostAccess s p addr.toNat (.write v) tie
  | .bar4 => if reaches s p then bar4Write s p (addr.toNat % 0x1000) v else s)

/-- `BAR0_BAD_ACCESS`: an access of a size or alignment that R4 does not allow, outside the mailbox windows, or a write to
the block or window of the other port. -/
def execBar0BadAccess (p : Fin 2) (addr : BitVec 24) (size : BitVec 13) (write : Bool) (s : State) :
    Host.Outcome State Fault Refusal :=
  let a := addr.toNat
  .next (if !reaches s p then s
  else if write && (ownerOf a).any (· != p) then hpErr s p hpAcc
  else if (size ≠ 4 ∨ a % 4 ≠ 0) ∧ !inMailbox a then badAccess s p size.toNat write
  else s)

end Sys2Proof.Machine
end

