-- ==== Sys2Proof/Machine/StartUp.lean ====
section
/-! DEFINITION. Machine/StartUp.lean: the end of a start (R395 to R397, R408, R411; R300, R304, R321, R362). -/

namespace Sys2Proof.Machine

open Sys2Proof

/-! ### The studbook (step 4) -/

/-- The shutdown record allows a quick start (R408). -/
def shutValid (s : State) : Bool :=
  match s.book.shut with
  | some r => r.magic == 0x44535A4B && sealRecord r == r && r.fwver == s.fuse.fwver && r.lcs == s.fuse.lcs && r.bistRun &&
      !r.consumed && r.calHash == calHash s
  | none => false

/-- The shutdown record is marked consumed, whether it was valid or not, also in a read-only studbook (log entry 105). -/
def consumeShut (s : State) : State :=
  let t := { s with book.shut := s.book.shut.map fun r => sealRecord { r with consumed := true } }
  if s.dev.sbRo ∨ s.book.shut.isNone then t else bookWrite t .shutdown

/-- The start counted in the life-cycle record, unless the record is sealed or the studbook read-only. -/
def countStart (s : State) : State :=
  if s.book.sealed ∨ s.dev.sbRo then s else bookWrite { s with book.starts := s.book.starts + 1 } .lifeCycle

/-- Step 4: the record decides between a quick and a cold start and is consumed, the read-only state is found, the start is
counted (R408, R411). -/
def readStudbook (s : State) : State :=
  countStart (consumeShut { s with dev := { s.dev with cold := !shutValid s, sbRo := decide (bookPool s.book < 64) } })

/-- The master asserts `FL_RST_L` at step 2, once in a start, before it reads any parameter table (R441). -/
def flashReset (s : State) : State := if s.cfg.flReset then s else { s with cfg.flReset := true }.emit .flashReset

/-- Step 4 of this start, if it has not come yet, with the secrets clear of step 3 before it. -/
def reachStep4 (s : State) : State := if s.dev.startStep < 4 then readStudbook (zeroise (flashReset s)) else s

/-- A studbook that ends the start in RECOVERY (R411). -/
def bookLost (s : State) : Bool := !s.book.retReadable || !s.book.lcReadable

/-! ### Clocks, calibration, tests (steps 5 to 7) -/

/-- What a start senses at a bank's `VIO` (R429, Table 17-11): its nominal voltage, or a voltage out of tolerance, which is free. -/
def bankSensed (s : State) (b : Nat) : BitVec 2 :=
  if Config.freeBit (s.free + b) then 3 else if Config.bankHigh b then 2 else 1

/-- Step 5: blocks of the retired-block list are excluded, the loops lock, the trigger wires are measured, the banks'
voltages are sensed. -/
def calibrate (s : State) : State :=
  let (w, s) := (s.book.retired.foldl excludeEntry s).drawNat
  { s with pins := { s.pins with lock := 0xFFFF, trimAt := #v[hottest s 0, hottest s 1],
                                 banks := Vector.ofFn fun (b : Fin 6) => bankSensed s b.val },
           trig.wire := BitVec.ofNat 32 w, free := s.free + 6 }

/-- Steps 5 and 6 leave a new calibration record (Table 15-8). -/
def calibrated (s : State) : State := bookCal (calibrate s)

/-- Step 7 of a cold start: failing blocks are excluded and recorded; a quick start shows its record's count. -/
def powerOnTests (s : State) (failed : BitVec 32) (blocks : List Block) : State :=
  if s.dev.cold then
    let bad := failingBlocks (List.range 9) (failed.toNat % 512) blocks
    let f := failedTests (List.range 9) (failed.toNat % 512) blocks
    let s := bookVerdict (excludeBad s bad) (511 ^^^ f) f
    { s with dev.newret := BitVec.ofNat 8 (min 255 bad.length) }
  else { s with dev.newret := BitVec.ofNat 8 (min 255 ((s.book.shut.map fun r => r.newret).getD 0)) }

/-! ### DDR5 (step 8) -/

/-- One channel: absent, left out, restored quickly, trained, or failed. -/
def startChannel (quick trained : BitVec 8) (s : State) (c : Fin 8) : State :=
  let there := (s.ddr.desc[dieOfChan c]).any fun m => m.present.getLsbD (c.val % 4)
  if !there || s.ddr.chan[c].state != .absent then s
  else
    let s := beginTraining s c none true
    let s := if s.ddr.chan[c].quick && !quick.getLsbD c.val then fullTraining s c else s
    if s.ddr.chan[c].quick || trained.getLsbD c.val then trainOk s c else trainFail s c

/-- Step 8: the stored descriptors, the training of every channel, the stored map or the one of R300. -/
def startMemory (s : State) (quick trained : BitVec 8) : State :=
  let s := { s with ddr.desc := s.book.desc }
  let s := (List.finRange 8).foldl (startChannel quick trained) s
  applyMap s (match s.book.map with
  | some m => clipMap s m
  | none => defaultMap s)

/-! ### Flash (R362) -/

/-- The clock that a device's table permits, to 200 MHz. -/
def flashClock (f : FlashDev) : Nat := min 200 f.maxMHz

/-- `CFG_FLASH` (Table 14-11). -/
def flashWord (devices : Nat) (f : FlashDev) : BitVec 32 :=
  BitVec.ofNat 32 (devices * 2 ^ 30 + (if f.octal then 2 else 1) * 2 ^ 28 + flashClock f * 2 ^ 20 + f.log2cap % 256 * 2 ^ 12)

/-- The flash devices in use: both in parallel when their protocol, clock and capacity agree, else device 0 alone. -/
def findFlash (s : State) : State :=
  let a := s.cfg.flash[0]
  let b := s.cfg.flash[1]
  let same := a.octal == b.octal && flashClock a == flashClock b && a.log2cap == b.log2cap
  match a.present, b.present with
  | false, false => { s with cfg.parallel := false, cfg.flashStatus := 0 }
  | true, true => { s with cfg.parallel := same, cfg.flashStatus := flashWord (if same then 2 else 1) a }
  | true, false => { s with cfg.parallel := false, cfg.flashStatus := flashWord 1 a }
  | false, true => { s with cfg.parallel := false, cfg.flashStatus := flashWord 1 b }

/-- A device that runs in quad SPI has its `FLn_IO4` to `FLn_IO7` held low (R441). -/
def flashPins (s : State) : State :=
  { s with cfg.ioLow := s.cfg.flash.map fun f => f.present && !f.octal }

/-! ### The end of STARTING -/

/-- The cause of an entry to RECOVERY from STARTING; with both causes at once the spec does not say which is shown (log
entry 3). -/
def startCause (s : State) : Option Nat × State :=
  match s.dev.recPin, bookLost s with
  | true, true =>
    let (b, s) := s.drawBit
    (some (if b then 1 else 4), s)
  | true, false => (some 1, s)
  | false, true => (some 4, s)
  | false, false => (none, s)

/-- What serves from HALTER on: the semaphores are free, the `TRIG` pins driven, the rails at `FLOOR`; the time is shown. -/
def leaveStarting (s : State) (st : DevState) : State :=
  let floor := s.gov.params.floor
  let s := setRails s (fun _ => floor) 7
  let s := { s with dev := { s.dev with startStep := 9, toHalter := BitVec.ofNat 16 (min 65535 ((s.dev.yard - s.dev.startAt) / 1000000)) },
                    trig.driven := true, hosts.sem := s.hosts.sem.map fun (x : Sem) => { x with free := true } }
  changeState s st

/-- HALTER with its start-up pour, or RECOVERY; the held writes then take effect (R333, R397, R399). -/
def endStarting (s : State) : State :=
  let (cause, s) := startCause s
  let s := match cause with
    | some c => leaveStarting { s with dev.rcause := BitVec.ofNat 4 c } .recovery
    | none => startUpPour (leaveStarting s .halter)
  releaseHeldWrites (releaseHeldWrites s 0) 1

/-- `START_UP_COMPLETE`: the steps of Table 15-3 end. `boot`: whether the boot ROM's self-check (step 2) or a loop of the yard
die (step 5) fails, which ends the start in STARTING (R396); `failed` and `blocks`: what the power-on tests of a cold start find; `quick` and `trained`: the channels whose
quick restore is verified and whose full training succeeds. -/
def execStartUpComplete (boot : BootEnd) (failed : BitVec 32) (blocks : List Block) (quick trained : BitVec 8) (s : State) :
    Host.Outcome State Fault Refusal :=
  .next (if s.dev.state ≠ .starting ∨ s.dev.heldInReset ∨ s.dev.stuck then s
  else match boot with
  | .romFailed => { s with dev := { s.dev with stuck := true, startStep := 2 } }
  | .loopFailed =>
    let t := reachStep4 s
    { t with dev := { t.dev with stuck := true, startStep := 5 } }
  | .good =>
    let t := calibrated (reachStep4 s)
    endStarting (flashPins (findFlash (startMemory (powerOnTests t failed blocks) quick trained))))

end Sys2Proof.Machine
end

