-- ==== Sys2Proof/Machine/Dispatch.lean ====
section
/-! DEFINITION. Machine/Dispatch.lean: one arm per row of the opcode table, each one direct call of that row's meaning. -/

namespace Sys2Proof.Machine

open Sys2Proof

def exec (i : Instr) (s : State) : Host.Outcome State Fault Refusal :=
  match i with
  | .getIdentity c => Sys2Proof.Machine.execGetIdentity c s
  | .getState c => Sys2Proof.Machine.execGetState c s
  | .setState c => Sys2Proof.Machine.execSetState c s
  | .getHealth c => Sys2Proof.Machine.execGetHealth c s
  | .echo c => Sys2Proof.Machine.execEcho c s
  | .semBind c => Sys2Proof.Machine.execSemBind c s
  | .pourPattern c => Sys2Proof.Machine.execPourPattern c s
  | .pourPartial c => Sys2Proof.Machine.execPourPartial c s
  | .isolatePaddock c => Sys2Proof.Machine.execIsolatePaddock c s
  | .releasePaddock c => Sys2Proof.Machine.execReleasePaddock c s
  | .readbackFrames c => Sys2Proof.Machine.execReadbackFrames c s
  | .fettlerConfig c => Sys2Proof.Machine.execFettlerConfig c s
  | .flashWrite c => Sys2Proof.Machine.execFlashWrite c s
  | .flashRead c => Sys2Proof.Machine.execFlashRead c s
  | .setReleaseOrder c => Sys2Proof.Machine.execSetReleaseOrder c s
  | .cxpDiscover c => Sys2Proof.Machine.execCxpDiscover c s
  | .cxpSetLink c => Sys2Proof.Machine.execCxpSetLink c s
  | .cxpGroup c => Sys2Proof.Machine.execCxpGroup c s
  | .cxpCtrlRead c => Sys2Proof.Machine.execCxpCtrlRead c s
  | .cxpCtrlWrite c => Sys2Proof.Machine.execCxpCtrlWrite c s
  | .cxpStreamEnable c => Sys2Proof.Machine.execCxpStreamEnable c s
  | .cxpPixelStore c => Sys2Proof.Machine.execCxpPixelStore c s
  | .encConfig c => Sys2Proof.Machine.execEncConfig c s
  | .trigGenConfig c => Sys2Proof.Machine.execTrigGenConfig c s
  | .trigGenArm c => Sys2Proof.Machine.execTrigGenArm c s
  | .trigGenStop c => Sys2Proof.Machine.execTrigGenStop c s
  | .headOffsets c => Sys2Proof.Machine.execHeadOffsets c s
  | .positionCompare c => Sys2Proof.Machine.execPositionCompare c s
  | .graphLoad c => Sys2Proof.Machine.execGraphLoad c s
  | .flowConfig c => Sys2Proof.Machine.execFlowConfig c s
  | .flowSubmit c => Sys2Proof.Machine.execFlowSubmit c s
  | .flowDrain c => Sys2Proof.Machine.execFlowDrain c s
  | .schedTrace c => Sys2Proof.Machine.execSchedTrace c s
  | .coolConfig c => Sys2Proof.Machine.execCoolConfig c s
  | .spillConfig c => Sys2Proof.Machine.execSpillConfig c s
  | .kernelLoad c => Sys2Proof.Machine.execKernelLoad c s
  | .casterStatus c => Sys2Proof.Machine.execCasterStatus c s
  | .casterRetire c => Sys2Proof.Machine.execCasterRetire c s
  | .memMap c => Sys2Proof.Machine.execMemMap c s
  | .memRead c => Sys2Proof.Machine.execMemRead c s
  | .memWrite c => Sys2Proof.Machine.execMemWrite c s
  | .memTrain c => Sys2Proof.Machine.execMemTrain c s
  | .musterArm c => Sys2Proof.Machine.execMusterArm c s
  | .musterFire c => Sys2Proof.Machine.execMusterFire c s
  | .musterRead c => Sys2Proof.Machine.execMusterRead c s
  | .lcStatus c => Sys2Proof.Machine.execLcStatus c s
  | .lcAdvance c => Sys2Proof.Machine.execLcAdvance c s
  | .keyProvision c => Sys2Proof.Machine.execKeyProvision c s
  | .bistRun c => Sys2Proof.Machine.execBistRun c s
  | .scanEnable c => Sys2Proof.Machine.execScanEnable c s
  | .governorConfig c => Sys2Proof.Machine.execGovernorConfig c s
  | .shutdown c => Sys2Proof.Machine.execShutdown c s
  | .wakeConfig c => Sys2Proof.Machine.execWakeConfig c s
  | .ident => Sys2Proof.Machine.execIdent s
  | .state => Sys2Proof.Machine.execState s
  | .health => Sys2Proof.Machine.execHealth s
  | .temps => Sys2Proof.Machine.execTemps s
  | .sidebandShutdown b0 b1 w => Sys2Proof.Machine.execSidebandShutdown b0 b1 w s
  | .alertResponse => Sys2Proof.Machine.execAlertResponse s
  | .sidebandRefresh => Sys2Proof.Machine.execSidebandRefresh s
  | .commandFetch p n whole slots buf => Sys2Proof.Machine.execCommandFetch p n whole slots buf s
  | .replyWrite p n => Sys2Proof.Machine.execReplyWrite p n s
  | .imodExpiry p r => Sys2Proof.Machine.execImodExpiry p r s
  | .go by_ p v buf => Sys2Proof.Machine.execGo by_ p v buf s
  | .hpSqTail by_ p n v => Sys2Proof.Machine.execHpSqTail by_ p n v s
  | .hpRqHead by_ p n v => Sys2Proof.Machine.execHpRqHead by_ p n v s
  | .hpRrRel by_ p r v => Sys2Proof.Machine.execHpRrRel by_ p r v s
  | .ringEnable by_ p v => Sys2Proof.Machine.execRingEnable by_ p v s
  | .ringActive p r => Sys2Proof.Machine.execRingActive p r s
  | .ringDisable by_ p v => Sys2Proof.Machine.execRingDisable by_ p v s
  | .semTake p both n => Sys2Proof.Machine.execSemTake p both n s
  | .semRelease p n v => Sys2Proof.Machine.execSemRelease p n v s
  | .claim by_ p v => Sys2Proof.Machine.execClaim by_ p v s
  | .musAck v => Sys2Proof.Machine.execMusAck v s
  | .urst k v => Sys2Proof.Machine.execUrst k v s
  | .userResetRelease k => Sys2Proof.Machine.execUserResetRelease k s
  | .pulse n v => Sys2Proof.Machine.execPulse n v s
  | .linkOff n v => Sys2Proof.Machine.execLinkOff n v s
  | .trcRdidx v => Sys2Proof.Machine.execTrcRdidx v s
  | .gpioFuncWrite n v => Sys2Proof.Machine.execGpioFuncWrite n v s
  | .switchIntervalEnd n => Sys2Proof.Machine.execSwitchIntervalEnd n s
  | .viewCaptureRead p addr tie => Sys2Proof.Machine.execViewCaptureRead p addr tie s
  | .lowWordCaptureRead p addr tie => Sys2Proof.Machine.execLowWordCaptureRead p addr tie s
  | .rcRead p bar addr tie => Sys2Proof.Machine.execRcRead p bar addr tie s
  | .registerWrite p bar addr v tie => Sys2Proof.Machine.execRegisterWrite p bar addr v tie s
  | .bar0BadAccess p addr size write => Sys2Proof.Machine.execBar0BadAccess p addr size write s
  | .apertureAccess p off write data => Sys2Proof.Machine.execApertureAccess p off write data s
  | .resultWindowRead p off len => Sys2Proof.Machine.execResultWindowRead p off len s
  | .configurationRequest p off write v => Sys2Proof.Machine.execConfigurationRequest p off write v s
  | .portLoss p why => Sys2Proof.Machine.execPortLoss p why s
  | .graceExpiry p => Sys2Proof.Machine.execGraceExpiry p s
  | .railLost r => Sys2Proof.Machine.execRailLost r s
  | .powerUp recoveryLow => Sys2Proof.Machine.execPowerUp recoveryLow s
  | .rstL level recoveryLow => Sys2Proof.Machine.execRstL level recoveryLow s
  | .startUpComplete boot failed blocks quick trained => Sys2Proof.Machine.execStartUpComplete boot failed blocks quick trained s
  | .deviceFault code failed blocks => Sys2Proof.Machine.execDeviceFault code failed blocks s
  | .loopLockLost n => Sys2Proof.Machine.execLoopLockLost n s
  | .thermalTrip n => Sys2Proof.Machine.execThermalTrip n s
  | .sensorSample n temp => Sys2Proof.Machine.execSensorSample n temp s
  | .dozeWake n => Sys2Proof.Machine.execDozeWake n s
  | .dozeExitComplete => Sys2Proof.Machine.execDozeExitComplete s
  | .shutdownComplete failed blocks => Sys2Proof.Machine.execShutdownComplete failed blocks s
  | .wakeEvent w recoveryLow => Sys2Proof.Machine.execWakeEvent w recoveryLow s
  | .wakeRailTimeout => Sys2Proof.Machine.execWakeRailTimeout s
  | .wakeRailsGood => Sys2Proof.Machine.execWakeRailsGood s
  | .firing k n grant => Sys2Proof.Machine.execFiring k n grant s
  | .gangFiring k n => Sys2Proof.Machine.execGangFiring k n s
  | .gateCellDiscard k n => Sys2Proof.Machine.execGateCellDiscard k n s
  | .park k => Sys2Proof.Machine.execPark k s
  | .isolateLimitExpiry k => Sys2Proof.Machine.execIsolateLimitExpiry k s
  | .rowTapEvent k row => Sys2Proof.Machine.execRowTapEvent k row s
  | .binRead k n port => Sys2Proof.Machine.execBinRead k n port s
  | .binWrite k n port => Sys2Proof.Machine.execBinWrite k n port s
  | .fifoWrite k n => Sys2Proof.Machine.execFifoWrite k n s
  | .fifoRead k n => Sys2Proof.Machine.execFifoRead k n s
  | .itemWrite k n => Sys2Proof.Machine.execItemWrite k n s
  | .itemSelect k n => Sys2Proof.Machine.execItemSelect k n s
  | .release k n => Sys2Proof.Machine.execRelease k n s
  | .releaseThroughMark k n => Sys2Proof.Machine.execReleaseThroughMark k n s
  | .saveMark k n => Sys2Proof.Machine.execSaveMark k n s
  | .rewind k n => Sys2Proof.Machine.execRewind k n s
  | .clearMark k n => Sys2Proof.Machine.execClearMark k n s
  | .segmentRead ok => Sys2Proof.Machine.execSegmentRead ok s
  | .pourLiftReady d => Sys2Proof.Machine.execPourLiftReady d s
  | .releaseStage job => Sys2Proof.Machine.execReleaseStage job s
  | .fettlerFrame d => Sys2Proof.Machine.execFettlerFrame d s
  | .fettlerWrite d => Sys2Proof.Machine.execFettlerWrite d s
  | .governorWindow => Sys2Proof.Machine.execGovernorWindow s
  | .avsbusResponse d ok mv => Sys2Proof.Machine.execAvsbusResponse d ok mv s
  | .take c => Sys2Proof.Machine.execTake c s
  | .emit c => Sys2Proof.Machine.execEmit c s
  | .pass c => Sys2Proof.Machine.execPass c s
  | .done c => Sys2Proof.Machine.execDone c s
  | .trap c => Sys2Proof.Machine.execTrap c s
  | .nop c => Sys2Proof.Machine.execNop c s
  | .sli c => Sys2Proof.Machine.execSli c s
  | .sadd c => Sys2Proof.Machine.execSadd c s
  | .ssub c => Sys2Proof.Machine.execSsub c s
  | .smul c => Sys2Proof.Machine.execSmul c s
  | .sand c => Sys2Proof.Machine.execSand c s
  | .sor c => Sys2Proof.Machine.execSor c s
  | .sxor c => Sys2Proof.Machine.execSxor c s
  | .sshl c => Sys2Proof.Machine.execSshl c s
  | .sshr c => Sys2Proof.Machine.execSshr c s
  | .beq c => Sys2Proof.Machine.execBeq c s
  | .bne c => Sys2Proof.Machine.execBne c s
  | .blt c => Sys2Proof.Machine.execBlt c s
  | .bge c => Sys2Proof.Machine.execBge c s
  | .jmp c => Sys2Proof.Machine.execJmp c s
  | .vld c => Sys2Proof.Machine.execVld c s
  | .vst c => Sys2Proof.Machine.execVst c s
  | .sld c => Sys2Proof.Machine.execSld c s
  | .sst c => Sys2Proof.Machine.execSst c s
  | .ald c => Sys2Proof.Machine.execAld c s
  | .ast c => Sys2Proof.Machine.execAst c s
  | .vadd c => Sys2Proof.Machine.execVadd c s
  | .vsub c => Sys2Proof.Machine.execVsub c s
  | .vaddsat c => Sys2Proof.Machine.execVaddsat c s
  | .vsubsat c => Sys2Proof.Machine.execVsubsat c s
  | .vmin c => Sys2Proof.Machine.execVmin c s
  | .vmax c => Sys2Proof.Machine.execVmax c s
  | .vabsd c => Sys2Proof.Machine.execVabsd c s
  | .vand c => Sys2Proof.Machine.execVand c s
  | .vor c => Sys2Proof.Machine.execVor c s
  | .vxor c => Sys2Proof.Machine.execVxor c s
  | .vshl c => Sys2Proof.Machine.execVshl c s
  | .vshr c => Sys2Proof.Machine.execVshr c s
  | .vsel c => Sys2Proof.Machine.execVsel c s
  | .vmov c => Sys2Proof.Machine.execVmov c s
  | .vceq c => Sys2Proof.Machine.execVceq c s
  | .vcne c => Sys2Proof.Machine.execVcne c s
  | .vclt c => Sys2Proof.Machine.execVclt c s
  | .vcge c => Sys2Proof.Machine.execVcge c s
  | .kand c => Sys2Proof.Machine.execKand c s
  | .kor c => Sys2Proof.Machine.execKor c s
  | .knot c => Sys2Proof.Machine.execKnot c s
  | .kget c => Sys2Proof.Machine.execKget c s
  | .kset c => Sys2Proof.Machine.execKset c s
  | .kcnt c => Sys2Proof.Machine.execKcnt c s
  | .vmac c => Sys2Proof.Machine.execVmac c s
  | .vmul c => Sys2Proof.Machine.execVmul c s
  | .aclr c => Sys2Proof.Machine.execAclr c s
  | .aext c => Sys2Proof.Machine.execAext c s
  | .vrsum c => Sys2Proof.Machine.execVrsum c s
  | .vrmin c => Sys2Proof.Machine.execVrmin c s
  | .vrmax c => Sys2Proof.Machine.execVrmax c s
  | .arsum c => Sys2Proof.Machine.execArsum c s
  | .vperm c => Sys2Proof.Machine.execVperm c s
  | .vrot c => Sys2Proof.Machine.execVrot c s
  | .vgets c => Sys2Proof.Machine.execVgets c s
  | .vsets c => Sys2Proof.Machine.execVsets c s
  | .vlut c => Sys2Proof.Machine.execVlut c s
  | .vhist c => Sys2Proof.Machine.execVhist c s
  | .dpull c => Sys2Proof.Machine.execDpull c s
  | .dpush c => Sys2Proof.Machine.execDpush c s
  | .dwait c => Sys2Proof.Machine.execDwait c s
  | .dtest c => Sys2Proof.Machine.execDtest c s
  | .waitc c => Sys2Proof.Machine.execWaitc c s
  | .waitcExpiry c => Sys2Proof.Machine.execWaitcExpiry c s
  | .dmaComplete c t => Sys2Proof.Machine.execDmaComplete c t s
  | .windowPullComplete c n => Sys2Proof.Machine.execWindowPullComplete c n s
  | .clockStop c => Sys2Proof.Machine.execClockStop c s
  | .casterRestart c => Sys2Proof.Machine.execCasterRestart c s
  | .kernelLoadSwitch c => Sys2Proof.Machine.execKernelLoadSwitch c s
  | .casterRetired c => Sys2Proof.Machine.execCasterRetired c s
  | .commandLimitExpiry job => Sys2Proof.Machine.execCommandLimitExpiry job s
  | .dispatch cycle => Sys2Proof.Machine.execDispatch cycle s
  | .completionGrant c => Sys2Proof.Machine.execCompletionGrant c s
  | .releaseResume flow => Sys2Proof.Machine.execReleaseResume flow s
  | .portSubmit n => Sys2Proof.Machine.execPortSubmit n s
  | .portEmit n => Sys2Proof.Machine.execPortEmit n s
  | .portPass n => Sys2Proof.Machine.execPortPass n s
  | .portDone n => Sys2Proof.Machine.execPortDone n s
  | .admissionResume src => Sys2Proof.Machine.execAdmissionResume src s
  | .spillRefill => Sys2Proof.Machine.execSpillRefill s
  | .coolDue => Sys2Proof.Machine.execCoolDue s
  | .tickInput n => Sys2Proof.Machine.execTickInput n s
  | .flowDrainComplete job => Sys2Proof.Machine.execFlowDrainComplete job s
  | .traceWrite => Sys2Proof.Machine.execTraceWrite s
  | .traceEpoch t => Sys2Proof.Machine.execTraceEpoch t s
  | .streamPacket n tag bytes crcOk last => Sys2Proof.Machine.execStreamPacket n tag bytes crcOk last s
  | .lineStart n t => Sys2Proof.Machine.execLineStart n t s
  | .adapterLine n => Sys2Proof.Machine.execAdapterLine n s
  | .pixelStoreRecord n => Sys2Proof.Machine.execPixelStoreRecord n s
  | .ioAcknowledgment n => Sys2Proof.Machine.execIoAcknowledgment n s
  | .ackMiss n => Sys2Proof.Machine.execAckMiss n s
  | .controlAcknowledgment n tag ok code data => Sys2Proof.Machine.execControlAcknowledgment n tag ok code data s
  | .waitAcknowledgment n ms => Sys2Proof.Machine.execWaitAcknowledgment n ms s
  | .controlTimeout n => Sys2Proof.Machine.execControlTimeout n s
  | .eventPacket n => Sys2Proof.Machine.execEventPacket n s
  | .heartbeat n => Sys2Proof.Machine.execHeartbeat n s
  | .linkLoss n => Sys2Proof.Machine.execLinkLoss n s
  | .rediscoveryRetry n => Sys2Proof.Machine.execRediscoveryRetry n s
  | .pocxpPowerWait n => Sys2Proof.Machine.execPocxpPowerWait n s
  | .pocxpSenseFault n => Sys2Proof.Machine.execPocxpSenseFault n s
  | .discoveryTimeout n => Sys2Proof.Machine.execDiscoveryTimeout n s
  | .setLinkLockTimeout n => Sys2Proof.Machine.execSetLinkLockTimeout n s
  | .count e b x => Sys2Proof.Machine.execCount e b x s
  | .index e x => Sys2Proof.Machine.execIndex e x s
  | .pmaxExpiry e => Sys2Proof.Machine.execPmaxExpiry e s
  | .instantFire => Sys2Proof.Machine.execInstantFire s
  | .pulseEnd o => Sys2Proof.Machine.execPulseEnd o s
  | .ppsEdge t => Sys2Proof.Machine.execPpsEdge t s
  | .ppsLost => Sys2Proof.Machine.execPpsLost s
  | .memoryAccess ch => Sys2Proof.Machine.execMemoryAccess ch s
  | .requestAging ch => Sys2Proof.Machine.execRequestAging ch s
  | .scrubBlock ch => Sys2Proof.Machine.execScrubBlock ch s
  | .recalibration ch therm => Sys2Proof.Machine.execRecalibration ch therm s
  | .powerDown ch => Sys2Proof.Machine.execPowerDown ch s
  | .releaseIndexRead k => Sys2Proof.Machine.execReleaseIndexRead k s
  | .musterRequest => Sys2Proof.Machine.execMusterRequest s
  | .musterPin n => Sys2Proof.Machine.execMusterPin n s
  | .fabricMusterRequest n => Sys2Proof.Machine.execFabricMusterRequest n s
  | .cutLatch => Sys2Proof.Machine.execCutLatch s
  | .cutTimeout => Sys2Proof.Machine.execCutTimeout s
  | .pinEdge n level => Sys2Proof.Machine.execPinEdge n level s
  | .uartReceive n v ok => Sys2Proof.Machine.execUartReceive n v ok s
  | .uartTransmit n => Sys2Proof.Machine.execUartTransmit n s
  | .i2cCommand n ack v => Sys2Proof.Machine.execI2cCommand n ack v s
  | .spiTransfer n v => Sys2Proof.Machine.execSpiTransfer n v s
  | .crossingTimeout x => Sys2Proof.Machine.execCrossingTimeout x s
  | .userTreeEdge n rise => Sys2Proof.Machine.execUserTreeEdge n rise s
  | .upset u => Sys2Proof.Machine.execUpset u s
  | .dataLinkUp p speed width => Sys2Proof.Machine.execDataLinkUp p speed width s
  | .symbolLock n => Sys2Proof.Machine.execSymbolLock n s
  | .trainingComplete ch ok => Sys2Proof.Machine.execTrainingComplete ch ok s
  | .bistComplete failed blocks => Sys2Proof.Machine.execBistComplete failed blocks s
  | .flashTransferComplete job ok => Sys2Proof.Machine.execFlashTransferComplete job ok s
  | .hostReadCompletion p what ok => Sys2Proof.Machine.execHostReadCompletion p what ok s
  | .railMonitorRefresh r mv oot => Sys2Proof.Machine.execRailMonitorRefresh r mv oot s
  | .jtagInstruction l => Sys2Proof.Machine.execJtagInstruction l s

end Sys2Proof.Machine
end

