-- ==== Sys2Proof/Machine/Idle.lean ====
section
/-! DEFINITION. Machine/Idle.lean: what the block does on an empty queue: one cycle of `REFCLK_SYS` (log entry 2). -/

namespace Sys2Proof.Machine

open Sys2Proof

/-- Yard time runs: not without power, nor while the device is held in reset (R423). -/
def yardRuns (s : State) : Bool := s.dev.state != .off && !s.dev.heldInReset

/-- Yard time advances by 40 ns, or with the PPS trim by up to 200 ppm more or less (R423, R424). -/
def tickYard (s : State) : State :=
  let acc := s.pps.acc + 40 * s.pps.trim
  { s with dev.yard := s.dev.yard + (40 + Int.fdiv acc 1000000).toNat, pps.acc := acc % 1000000 }

/-- A start goes on to its next step (Table 15-3). Every start that reaches step 4 has read the studbook and consumed the
shutdown record (R408). -/
def tickStart (s : State) : State :=
  if s.dev.state = .starting ∧ !s.dev.stuck ∧ s.dev.startStep < 9 then
    let t := if s.dev.startStep = 3 then reachStep4 s else flashReset s
    { t with dev.startStep := t.dev.startStep + 1 }
  else s

/-- The endpoints whose data link is up become ready once the boot ROM has started (R314). -/
def tickPorts (s : State) : State :=
  if served s || (s.dev.state == .starting && decide (2 ≤ s.dev.startStep) && !s.dev.stuck) then
    { s with hosts.port := s.hosts.port.map fun h => { h with ready := h.ready || h.linkUp } }
  else s

/-- A link whose ASPM L1 is enabled enters and leaves L1 as it idles, at times that the spec does not fix (log entry 3). -/
def tickL1 (s : State) (p : Fin 2) : State :=
  let h := s.hosts.port[p]
  if h.linkUp && h.linkCtl.getLsbD 1 then
    let (v, s) := s.drawNat
    s.modPort p fun h => { h with l1 := v % 2 == 1 }
  else if h.l1 then s.modPort p fun h => { h with l1 := false } else s

/-- Loops that have lost lock may lock again; the spec does not say when (log entry 3). -/
def tickLoops (s : State) : State :=
  if served s && s.pins.lock != 0xFFFF then
    let (v, s) := s.drawNat
    { s with pins.lock := s.pins.lock ||| BitVec.ofNat 16 v }
  else s

/-- While DOZE is being left, a rail that has not read back at `CEILING` is read again (R402). -/
def readRail (s : State) (d : Fin 2) : State :=
  if s.dev.dozeExit.isSome && s.gov.die[d].avs.isEmpty && s.gov.die[d].vread != s.gov.params.ceiling then avsPush s d .readV else s

/-- An empty queue: one cycle of `REFCLK_SYS` passes, in which the studbook writes of the commands before it end. -/
def idle (s : State) : State :=
  if yardRuns s then beginHeld (imageGoOn (readRail (readRail (tickL1 (tickL1 (tickLoops (tickPorts (tickStart (tickDue (tickYard { s with bookWas := s.book }))))) 0) 1) 0) 1)) else s

end Sys2Proof.Machine
end

