-- ==== Sys2Proof/WellFormed.lean ====
section
/-! DEFINITION. WellFormed.lean: the operands that the outside can give a command, where its type does not say it. -/

namespace Sys2Proof

/-- A host command: at most 4,064 parameter bytes (Table 13-1). -/
def Cmd.ok (c : Cmd) : Bool := decide (c.params.length ≤ 4064)

/-- A stored bit that exists: frames of 19-bit address, 512 payload bytes and 48 check bits (R371, R373); 4,096 bins of
2,048 words and the caster memories, each word with its check byte (R103, R143); DDR5 beats of 32 bits with 8 check bits
(R293). -/
def UpsetAt.ok : UpsetAt → Bool
  | .frame a b => decide (a < 2 ^ 19) && (decide (a % 8192 < 5120) || (decide (5152 ≤ a % 8192) && decide (a % 8192 < 5216))) && decide (b < 4144)
  | .bin n w b => decide (n < 4096) && decide (w < 2048) && decide (b < 72)
  | .casterMem _ w b => decide (w < 16384) && decide (b < 72)
  | .casterStore _ w b => decide (w < 2048) && decide (b < 72)
  | .ddr k b => decide (k < 2 ^ 34) && decide (b < 40)

/-- A block that exists: casters, links, channels, encoders, TDCs, delay lines, sensors and rail monitors (Table 15-6). -/
def Block.ok : Block → Bool
  | .caster n => decide (n < 256)
  | .link n => decide (n < 128)
  | .channel n | .enc n | .tdc n => decide (n < 8)
  | .delayLine n => decide (n < 32)
  | .sensor n => decide (n < 36)
  | .monitor n => decide (n < 7)
  | .loop n => decide (4 ≤ n) && decide (n < 16)

/-- The host command that a row carries, with its opcode (Table 13-6). -/
def Instr.hostCmd : Instr → Option (Nat × Cmd)
  | .getIdentity c => some (0x0001, c)
  | .getState c => some (0x0002, c)
  | .setState c => some (0x0003, c)
  | .getHealth c => some (0x0004, c)
  | .echo c => some (0x0005, c)
  | .semBind c => some (0x0010, c)
  | .pourPattern c => some (0x0100, c)
  | .pourPartial c => some (0x0101, c)
  | .isolatePaddock c => some (0x0102, c)
  | .releasePaddock c => some (0x0103, c)
  | .readbackFrames c => some (0x0104, c)
  | .fettlerConfig c => some (0x0105, c)
  | .flashWrite c => some (0x0106, c)
  | .flashRead c => some (0x0107, c)
  | .setReleaseOrder c => some (0x0108, c)
  | .cxpDiscover c => some (0x0200, c)
  | .cxpSetLink c => some (0x0201, c)
  | .cxpGroup c => some (0x0202, c)
  | .cxpCtrlRead c => some (0x0203, c)
  | .cxpCtrlWrite c => some (0x0204, c)
  | .cxpStreamEnable c => some (0x0205, c)
  | .cxpPixelStore c => some (0x0206, c)
  | .encConfig c => some (0x0300, c)
  | .trigGenConfig c => some (0x0301, c)
  | .trigGenArm c => some (0x0302, c)
  | .trigGenStop c => some (0x0303, c)
  | .headOffsets c => some (0x0304, c)
  | .positionCompare c => some (0x0305, c)
  | .graphLoad c => some (0x0400, c)
  | .flowConfig c => some (0x0401, c)
  | .flowSubmit c => some (0x0402, c)
  | .flowDrain c => some (0x0403, c)
  | .schedTrace c => some (0x0404, c)
  | .coolConfig c => some (0x0405, c)
  | .spillConfig c => some (0x0406, c)
  | .kernelLoad c => some (0x0500, c)
  | .casterStatus c => some (0x0501, c)
  | .casterRetire c => some (0x0502, c)
  | .memMap c => some (0x0600, c)
  | .memRead c => some (0x0601, c)
  | .memWrite c => some (0x0602, c)
  | .memTrain c => some (0x0603, c)
  | .musterArm c => some (0x0700, c)
  | .musterFire c => some (0x0701, c)
  | .musterRead c => some (0x0702, c)
  | .lcStatus c => some (0x0800, c)
  | .lcAdvance c => some (0x0801, c)
  | .keyProvision c => some (0x0802, c)
  | .bistRun c => some (0x0803, c)
  | .scanEnable c => some (0x0804, c)
  | .governorConfig c => some (0x0900, c)
  | .shutdown c => some (0x0901, c)
  | .wakeConfig c => some (0x0902, c)
  | _ => none

/-- The operands that a row can have. -/
def Instr.ok (i : Instr) : Bool :=
  match i.hostCmd with
  | some (_, c) => c.ok
  | none =>
    match i with
    | .upset u => u.ok
    | .commandFetch _ _ _ slots _ => decide (slots.length % 64 = 0) && decide (0 < slots.length)
    | .dataLinkUp _ speed width => (speed == 0 && width == 0) || (decide (1 ≤ speed) && decide (speed ≤ 5) && [1, 2, 4].contains width)
    | .bistComplete _ l | .shutdownComplete _ l | .deviceFault _ _ l | .startUpComplete _ _ l _ _ => l.all Block.ok
    | _ => true

end Sys2Proof
end

