-- ==== Sys2Proof/Safety.lean ====
section
/-! DEFINITION. Safety.lean: the terms in which statements are made: a safe step, a host command that begins, a caster
instruction that issues, and how far the fuses of a unit have been blown. -/

namespace Sys2Proof.Safety

open Sys2Proof Machine

/-- The step from `s` answers a next state. -/
def SafeStep (s : State) : Prop := ∃ t, step s = .next t

/-! ### Host commands (13_commands.md) -/

/-- The command with the opcode of its row. -/
def typed (sp : CmdSpec) (c : Cmd) : Cmd := { c with opcode := BitVec.ofNat 16 sp.opcode }

/-- The state in which a command's checks are made: its port has counted it, and a mailbox command makes the mailbox
busy (R332). -/
def counted (c : Cmd) (s : State) : State :=
  match c.src with
  | .ring p _ => s.modPort p fun h => { h with cntCmd := h.cntCmd + 1 }
  | .mailbox p => s.modPort p fun h => { h with cntCmd := h.cntCmd + 1, mbxState := 1, mbxAcc := false }
  | .sideband => s

/-- The command reaches the command processor in a state that serves commands, and nothing that waits or runs makes it
wait (R333, R349, R350). -/
abbrev Reaches (sp : CmdSpec) (c : Cmd) (s : State) : Prop :=
  served s = true ∧ mayBegin s (typed sp c) (c.hdr == 0 && sp.isLong (typed sp c) s) s.cmdp.held = true

/-- The command reaches the command processor and passes the checks 1 to 8 of R347. -/
abbrev Begins (sp : CmdSpec) (c : Cmd) (s : State) : Prop :=
  Reaches sp c s ∧ checkCmd sp (typed sp c) (counted c s) = none

/-- Every command of a row that passes the checks 1 to 8 and meets `cond` completes in the next state that `res` gives, both
of the command with its opcode and the state in which its checks are made. -/
abbrev Completes (sp : CmdSpec) (row : Cmd → Instr) (cond : Cmd → State → Prop) (res : Cmd → State → State) : Prop :=
  ∀ c s, Begins sp c s → cond (typed sp c) (counted c s) → exec (row c) s = .next (res (typed sp c) (counted c s))

/-- The output of a command fits: inline, or in its host buffer (R352). -/
abbrev Fits (c : Cmd) (n : Nat) : Prop := (c.hlen.toNat = 0 ∧ n ≤ 4080) ∨ (c.hlen.toNat ≠ 0 ∧ n ≤ c.hlen.toNat)

/-- The command completes with output `data`: inline, or written to its host buffer and announced by its byte count
(R352); the write waits while the port may not master the bus (R313). -/
def delivered (c : Cmd) (s : State) (data : List Byte) : State :=
  match portOf c.src with
  | none => doneWith c s data
  | some p => if c.hlen.toNat = 0 then doneWith c s data
    else doneWith c (hostOut s p [(c.hbuf.toNat, data)]) (leBytes 4 data.length)

/-! ### Caster instructions (06_casters.md) -/

/-- Caster `c` issues the word `w`: it may issue, the word stands at its pc, and the error code reads it without error or
with one bit corrected (R143, R146). -/
abbrev Issues (s : State) (c : Fin 256) (w : BitVec 64) : Prop :=
  mayIssue s c = true ∧ casterWord s.cast[c] = w ∧ (tget ([] : List Nat) s.cast[c].storeBad s.cast[c].pc.toNat).length ≤ 1

/-- The state once the word at the pc of caster `c` has been read: a corrected error has been counted (R143). -/
def fetched (s : State) (c : Fin 256) : State :=
  if (tget ([] : List Nat) s.cast[c].storeBad s.cast[c].pc.toNat).length = 1 then
    s.modCast c fun h => { h with eccCorr := satAdd h.eccCorr 1 }
  else s

/-- `i` completes in one cycle with its result in the vector register that `D` names: in each lane that the mask `kK` sets
the value `f` gives, in every other lane what stood there; nothing else changes but the pc, the state and the cycle count. -/
def VectorResult (i : Instr) (s : State) (c : Fin 256) (w : BitVec 64) (f : Nat → Nat) : Prop :=
  ∃ x : BitVec 512,
    exec i s = .next (complete1 (fetched s c) c 1 fun h => { h with v := vmodN h.v (wD w) fun _ => x }) ∧
    ∀ n, n < 64 → lane8 x n =
      if (kGet s.cast[c] (wK w)).getLsbD n then f n % 256 else lane8 (vGet s.cast[c] (wD w)) n

/-- The same for an accumulator of 64 lanes of 32 bits, named by `ACC`. -/
def AccResult (i : Instr) (s : State) (c : Fin 256) (w : BitVec 64) (f : Nat → Int) : Prop :=
  ∃ x : BitVec 2048,
    exec i s = .next (complete1 (fetched s c) c 1 fun h => { h with acc := vmodN h.acc (wAcc w) fun _ => x }) ∧
    ∀ n, n < 64 → (lane32 x n : Int) =
      if (kGet s.cast[c] (wK w)).getLsbD n then f n % 2 ^ 32 else (lane32 (aGet s.cast[c] (wAcc w)) n : Int)

/-- `i` completes in one cycle with the mask of the lanes where `f` holds and `kK` is set, in the mask register that `D`
names. -/
def MaskResult (i : Instr) (s : State) (c : Fin 256) (w : BitVec 64) (f : Nat → Prop) : Prop :=
  ∃ x : BitVec 64,
    exec i s = .next (complete1 (fetched s c) c 1 fun h => kSet h (wD w) x) ∧
    ∀ n, n < 64 → (x.getLsbD n = true ↔ (kGet s.cast[c] (wK w)).getLsbD n = true ∧ f n)

/-- `i` completes in one cycle with `x` in the scalar register that `D` names. -/
def ScalarResult (i : Instr) (s : State) (c : Fin 256) (w : BitVec 64) (x : BitVec 32) : Prop :=
  exec i s = .next (complete1 (fetched s c) c 1 fun h => sSet h (wD w) x)

/-- `n` bytes at `a` of the local memory that an instruction may reach: those in the ladle area lie in the window of the
current item (R141, R142). -/
abbrev Within (h : Caster) (a n : Nat) : Prop :=
  a + n ≤ 0x1C000 ∨ ∃ i, curSlot h = some i ∧ winBase i ≤ max a 0x1C000 ∧ a + n ≤ winBase i + 0x2000

/-- Every word of local memory that `n` bytes at `a` touch reads with at most one bit to correct (R143). -/
abbrev Readable (h : Caster) (a n : Nat) : Prop := ∀ wd ∈ wordsOf a n, (wordFlips h wd).length ≤ 1

/-- `i` completes in `cyc` cycles with the local memory that `f` describes byte by byte, and changes no register: beside the
memory and its stored errors only the count of corrected errors, the pc, the state and the cycle count change. -/
def StoreResult (i : Instr) (s : State) (c : Fin 256) (cyc : Nat) (f : Nat → Byte) : Prop :=
  ∃ (m : Memory) (bad : Tab (List Nat)) (e : Nat),
    exec i s = .next (complete1 (fetched s c) c cyc fun h => { h with mem := m, memBad := bad, eccCorr := satAdd h.eccCorr e }) ∧
    ∀ y, tget 0 m y = f y

/-! ### The life cycle (16_muster_identity_lifecycle.md, R425) -/

/-- The place of a life-cycle state in the order in which Table 16-8 goes through them. -/
def lcRank : LcState → Nat
  | .factory => 0 | .owned => 1 | .field => 2 | .ret => 3 | .scrapped => 4

/-- The fuses `b` are the fuses `a` with at most more of them blown: the same identity, a life-cycle state no earlier, every
key slot that is programmed unchanged, and key slots disabled once disabled for good. -/
structure FusesGrow (a b : Fuses) : Prop where
  serial : b.serial = a.serial
  lot : b.lot = a.lot
  die : b.die = a.die
  pkHash : b.pkHash = a.pkHash
  lcs : lcRank a.lcs ≤ lcRank b.lcs
  keysOff : a.keysOff = true → b.keysOff = true
  keys : ∀ (n : Fin 16) k, a.keys[n] = some k → b.keys[n] = some k

end Sys2Proof.Safety
end

