-- ==== Sys2Proof/Certificates/Slice0/Obligations.lean ====
section
/-! DEFINITION. The statements for the provers. -/

open Sys2Proof Sys2Proof.Machine Sys2Proof.Safety

/-- O1. A step runs the command at the front of the queue. With c at the front of the queue, a step is exec of c on the state with the queue's rest. The queue is the model's own (log entry 1). -/
def Obligations.StepRunsFront : Prop :=
  ∀ (c : Instr) (s : State), step { s with pending := c :: s.pending } = exec c s

/-- O2. s0 reads 0, k0 reads all ones, and a write to either is discarded. In every state of a caster the scalar register 0 reads 0 and the mask register 0 reads all ones, whatever has been written; a write to register 0 changes nothing; a write to any other register is what it reads next, and no other register changes. -/
def Obligations.ConstantRegisters : Prop :=
  ∀ (h : Caster) (x : BitVec 32) (y : BitVec 64),
    sGet h 0 = 0 ∧ kGet h 0 = BitVec.allOnes 64 ∧ sSet h 0 x = h ∧ kSet h 0 y = h ∧
    (∀ i j, 0 < i → i < 16 → sGet (sSet h i x) j = if j = i then x else sGet h j) ∧
    (∀ i j, 0 < i → i < 8 → kGet (kSet h i y) j = if j = i then y else kGet h j)

/-- O3. The scalar instructions. NOP, SLI, SADD, SSUB, SMUL, SAND, SOR, SXOR, SSHL and SSHR, issued, complete in one cycle with the value that Table 6-5 gives in sD (arithmetic modulo 2^32, SSHR arithmetic when SG is set), and change nothing else but the pc, the state and the cycle count of their caster; a write to s0 is discarded. -/
def Obligations.ScalarInstructions : Prop :=
  ∀ (c : Fin 256) (s : State) (w : BitVec 64), Issues s c w →
    let a := sGet s.cast[c] (wA w)
    let b := opB32 s.cast[c] w
    (wOp w = 0x00 → exec (.nop c) s = .next (complete1 (fetched s c) c 1 id)) ∧
    (wOp w = 0x01 → ScalarResult (.sli c) s c w (BitVec.ofNat 32 (wImm w))) ∧
    (wOp w = 0x02 → ScalarResult (.sadd c) s c w (BitVec.ofNat 32 (a.toNat + b.toNat))) ∧
    (wOp w = 0x03 → ScalarResult (.ssub c) s c w (BitVec.ofInt 32 (a.toNat - b.toNat))) ∧
    (wOp w = 0x04 → ScalarResult (.smul c) s c w (BitVec.ofNat 32 (a.toNat * b.toNat))) ∧
    (wOp w = 0x05 → ScalarResult (.sand c) s c w (a &&& b)) ∧
    (wOp w = 0x06 → ScalarResult (.sor c) s c w (a ||| b)) ∧
    (wOp w = 0x07 → ScalarResult (.sxor c) s c w (a ^^^ b)) ∧
    (wOp w = 0x08 → ScalarResult (.sshl c) s c w (BitVec.ofNat 32 (a.toNat * 2 ^ (b.toNat % 32)))) ∧
    (wOp w = 0x09 → ScalarResult (.sshr c) s c w
      (if wSg w then BitVec.ofInt 32 (a.toInt / 2 ^ (b.toNat % 32)) else BitVec.ofNat 32 (a.toNat / 2 ^ (b.toNat % 32))))

/-- O4. The branches. BEQ, BNE, BLT and BGE, issued, put IMM[10:0] into the pc and cost three cycles when their condition on sA and sB holds (signed when SG is set), and else go on to the next word in one cycle; JMP always puts IMM[10:0] into the pc. No register, no memory and no other caster changes. -/
def Obligations.Branches : Prop :=
  ∀ (c : Fin 256) (s : State) (w : BitVec 64), Issues s c w →
    let a := sGet s.cast[c] (wA w)
    let b := sGet s.cast[c] (wB w)
    let jump := (fetched s c).modCast c fun h =>
      { h with pc := BitVec.ofNat 11 (wImm w), mode := .running, cycles := h.cycles + 3 }
    let fall := (fetched s c).modCast c fun h => { h with pc := h.pc + 1, mode := .running, cycles := h.cycles + 1 }
    let less := if wSg w then a.toInt < b.toInt else a.toNat < b.toNat
    (wOp w = 0x10 → a = b → exec (.beq c) s = .next jump) ∧ (wOp w = 0x10 → a ≠ b → exec (.beq c) s = .next fall) ∧
    (wOp w = 0x11 → a ≠ b → exec (.bne c) s = .next jump) ∧ (wOp w = 0x11 → a = b → exec (.bne c) s = .next fall) ∧
    (wOp w = 0x12 → less → exec (.blt c) s = .next jump) ∧ (wOp w = 0x12 → ¬less → exec (.blt c) s = .next fall) ∧
    (wOp w = 0x13 → ¬less → exec (.bge c) s = .next jump) ∧ (wOp w = 0x13 → less → exec (.bge c) s = .next fall) ∧
    (wOp w = 0x14 → exec (.jmp c) s = .next jump)

/-- O5. The vector instructions, lane by lane. VADD, VSUB, VADDSAT, VSUBSAT, VMIN, VMAX, VABSD, VAND, VOR, VXOR, VSHL, VSHR, VMOV, VPERM and VROT, issued, give each lane of vD that kK selects the value that Table 6-5 gives, leave the other lanes as they stood and change nothing else; VSEL writes every lane. -/
def Obligations.VectorLanes : Prop :=
  ∀ (c : Fin 256) (s : State) (w : BitVec 64), Issues s c w →
    let h := s.cast[c]
    let a := fun n => lane8 (vGet h (wA w)) n
    let b := fun n => opB8 h w n
    let sa := fun n => laneInt (wSg w) (a n)
    let sb := fun n => laneInt (wSg w) (b n)
    (wOp w = 0x30 → VectorResult (.vadd c) s c w fun n => a n + b n) ∧
    (wOp w = 0x31 → VectorResult (.vsub c) s c w fun n => a n + 256 - b n) ∧
    (wOp w = 0x32 → VectorResult (.vaddsat c) s c w fun n => sat8 (wSg w) (sa n + sb n)) ∧
    (wOp w = 0x33 → VectorResult (.vsubsat c) s c w fun n => sat8 (wSg w) (sa n - sb n)) ∧
    (wOp w = 0x34 → VectorResult (.vmin c) s c w fun n => if sa n ≤ sb n then a n else b n) ∧
    (wOp w = 0x35 → VectorResult (.vmax c) s c w fun n => if sa n ≤ sb n then b n else a n) ∧
    (wOp w = 0x36 → VectorResult (.vabsd c) s c w fun n => (sa n - sb n).natAbs) ∧
    (wOp w = 0x37 → VectorResult (.vand c) s c w fun n => a n &&& b n) ∧
    (wOp w = 0x38 → VectorResult (.vor c) s c w fun n => a n ||| b n) ∧
    (wOp w = 0x39 → VectorResult (.vxor c) s c w fun n => a n ^^^ b n) ∧
    (wOp w = 0x3A → VectorResult (.vshl c) s c w fun n => a n * 2 ^ (b n % 8)) ∧
    (wOp w = 0x3B → VectorResult (.vshr c) s c w fun n => uNat 8 (sa n / 2 ^ (b n % 8))) ∧
    (wOp w = 0x3D → VectorResult (.vmov c) s c w fun n => b n) ∧
    (wOp w = 0x60 → VectorResult (.vperm c) s c w fun n => a (lane8 (vGet h (wB w)) n % 64)) ∧
    (wOp w = 0x61 → VectorResult (.vrot c) s c w fun n => a ((n + (opB32 h w).toNat % 64) % 64)) ∧
    (wOp w = 0x3C → ∃ x : BitVec 512,
      exec (.vsel c) s = .next (complete1 (fetched s c) c 1 fun h => { h with v := vmodN h.v (wD w) fun _ => x }) ∧
      ∀ n, n < 64 → lane8 x n = if (kGet h (wK w)).getLsbD n then a n else b n)

/-- O6. The vector compares and the lane masks. VCEQ, VCNE, VCLT and VCGE, issued, set bit n of kD exactly where their condition on lane n holds (signed when SG is set) and bit n of kK is set; KAND, KOR and KNOT give kD, KGET the two halves of kA in sD and s(D+1), KSET takes kD from them, and KCNT gives the number of bits of kA in sD. Nothing else changes but the pc, the state and the cycle count. -/
def Obligations.LaneMasks : Prop :=
  ∀ (c : Fin 256) (s : State) (w : BitVec 64), Issues s c w →
    let h := s.cast[c]
    let sa := fun n => laneInt (wSg w) (lane8 (vGet h (wA w)) n)
    let sb := fun n => laneInt (wSg w) (opB8 h w n)
    let k := kGet h (wA w)
    (wOp w = 0x40 → MaskResult (.vceq c) s c w fun n => sa n = sb n) ∧
    (wOp w = 0x41 → MaskResult (.vcne c) s c w fun n => sa n ≠ sb n) ∧
    (wOp w = 0x42 → MaskResult (.vclt c) s c w fun n => sa n < sb n) ∧
    (wOp w = 0x43 → MaskResult (.vcge c) s c w fun n => sa n ≥ sb n) ∧
    (wOp w = 0x46 → exec (.kand c) s = .next (complete1 (fetched s c) c 1 fun h => kSet h (wD w) (k &&& kGet h (wB w)))) ∧
    (wOp w = 0x47 → exec (.kor c) s = .next (complete1 (fetched s c) c 1 fun h => kSet h (wD w) (k ||| kGet h (wB w)))) ∧
    (wOp w = 0x48 → exec (.knot c) s = .next (complete1 (fetched s c) c 1 fun h => kSet h (wD w) (~~~k))) ∧
    (wOp w = 0x49 → exec (.kget c) s = .next (complete1 (fetched s c) c 1 fun h =>
      sSet (sSet h (wD w) (k.extractLsb' 0 32)) (wD w + 1) (k.extractLsb' 32 32))) ∧
    (wOp w = 0x4A → exec (.kset c) s = .next (complete1 (fetched s c) c 1 fun h =>
      kSet h (wD w) (sGet h (wA w + 1) ++ sGet h (wA w)))) ∧
    (wOp w = 0x4B → ScalarResult (.kcnt c) s c w (BitVec.ofNat 32 ((List.range 64).countP fun n => k.getLsbD n)))

/-- O7. The accumulators. VMAC, VMUL and ACLR, issued, give each lane of aACC that kK selects the sum, the product or 0, modulo 2^32, and leave the other lanes as they stood; AEXT gives each lane of vD that kK selects the rounded, shifted and saturated accumulator lane. Nothing else changes but the pc, the state and the cycle count. -/
def Obligations.Accumulators : Prop :=
  ∀ (c : Fin 256) (s : State) (w : BitVec 64), Issues s c w →
    let h := s.cast[c]
    let sa := fun n => laneInt (wSg w) (lane8 (vGet h (wA w)) n)
    let sb := fun n => laneInt (wSg w) (opB8 h w n)
    let acc := fun n => lane32 (aGet h (wAcc w)) n
    let n := wImm w % 32
    (wOp w = 0x50 → AccResult (.vmac c) s c w fun i => acc i + sa i * sb i) ∧
    (wOp w = 0x51 → AccResult (.vmul c) s c w fun i => sa i * sb i) ∧
    (wOp w = 0x52 → AccResult (.aclr c) s c w fun _ => 0) ∧
    (wOp w = 0x53 → VectorResult (.aext c) s c w fun i =>
      sat8 (wSg w) ((wordInt (wSg w) (acc i) + (if n = 0 then 0 else 2 ^ (n - 1))) / 2 ^ n))

/-- O8. The reductions and the moves between lanes and scalars. VRSUM and ARSUM, issued, give sD the sum of the lanes that kK sets, modulo 2^32. VRMIN and VRMAX give sD the least or greatest of those lanes and s(D+1) the lowest lane number that holds it, when kK sets a lane; when kK is 0, sD is 127 or 255 and s(D+1) is 64. VGETS gives sD four lanes of vA from lane n, and VSETS puts sA into four lanes of vD; n is IMM[5:0], and n of at most 60 names four lanes. Nothing else changes but the pc, the state and the cycle count. -/
def Obligations.Reductions : Prop :=
  ∀ (c : Fin 256) (s : State) (w : BitVec 64), Issues s c w →
    let h := s.cast[c]
    let set := (List.range 64).filter fun n => (kGet h (wK w)).getLsbD n
    let va := fun n => laneInt (wSg w) (lane8 (vGet h (wA w)) n)
    let pair := fun (i : Instr) (x : Int) (n : Nat) => exec i s = .next (complete1 (fetched s c) c 1 fun h =>
      sSet (sSet h (wD w) (BitVec.ofInt 32 x)) (wD w + 1) (BitVec.ofNat 32 n))
    let n := wImm w % 64
    (wOp w = 0x58 → ScalarResult (.vrsum c) s c w (BitVec.ofInt 32 (set.map va).sum)) ∧
    (wOp w = 0x5B → ScalarResult (.arsum c) s c w
      (BitVec.ofInt 32 (set.map fun n => wordInt (wSg w) (lane32 (aGet h (wAcc w)) n)).sum)) ∧
    (wOp w = 0x59 → ∀ m, m ∈ set → (∀ j, j ∈ set → va m < va j ∨ (va m = va j ∧ m ≤ j)) → pair (.vrmin c) (va m) m) ∧
    (wOp w = 0x5A → ∀ m, m ∈ set → (∀ j, j ∈ set → va j < va m ∨ (va m = va j ∧ m ≤ j)) → pair (.vrmax c) (va m) m) ∧
    (wOp w = 0x59 → set = [] → pair (.vrmin c) (if wSg w then 127 else 255) 64) ∧
    (wOp w = 0x5A → set = [] → pair (.vrmax c) (if wSg w then 127 else 255) 64) ∧
    (wOp w = 0x62 → ScalarResult (.vgets c) s c w ((vGet h (wA w)).extractLsb' (8 * n) 32)) ∧
    (wOp w = 0x63 → n ≤ 60 → ∃ x : BitVec 512,
      exec (.vsets c) s = .next (complete1 (fetched s c) c 1 fun h => { h with v := vmodN h.v (wD w) fun _ => x }) ∧
      ∀ i, i < 64 → lane8 x i = if n ≤ i ∧ i < n + 4 then (sGet h (wA w)).toNat / 256 ^ (i - n) % 256
        else lane8 (vGet h (wD w)) i)

/-- O9. The loads. VLD, SLD, ALD and VLUT, issued at an aligned address within reach whose words the error code can read, put the bytes that stand there into vD, sD, aACC or vD (lane by lane where kK is set; least significant byte first), count the corrected words, and change no memory and no other register. -/
def Obligations.Loads : Prop :=
  ∀ (c : Fin 256) (s : State) (w : BitVec 64), Issues s c w →
    let h := s.cast[c]
    let a := memAddr h w
    let k := fun n => (kGet h (wK w)).getLsbD n
    let fixed := fun (n : Nat) (h : Caster) => countFixed h (anyFixed h (wordsOf a n))
    (wOp w = 0x20 → a % 64 = 0 → Within h a 64 → Readable h a 64 → ∃ x : BitVec 512,
      exec (.vld c) s = .next (complete1 (fetched s c) c 1 fun h => { fixed 64 h with v := vmodN h.v (wD w) fun _ => x }) ∧
      ∀ n, n < 64 → lane8 x n = if k n then (tget 0 h.mem (a + n)).toNat else lane8 (vGet h (wD w)) n) ∧
    (wOp w = 0x22 → a % 4 = 0 → Within h a 4 → Readable h a 4 →
      exec (.sld c) s = .next (complete1 (fetched s c) c 1 fun g => sSet (fixed 4 g) (wD w)
        (tget 0 h.mem (a + 3) ++ tget 0 h.mem (a + 2) ++ tget 0 h.mem (a + 1) ++ tget 0 h.mem a))) ∧
    (wOp w = 0x24 → a % 256 = 0 → Within h a 256 → Readable h a 256 → ∃ x : BitVec 2048,
      exec (.ald c) s = .next (complete1 (fetched s c) c 4 fun h => { fixed 256 h with acc := vmodN h.acc (wAcc w) fun _ => x }) ∧
      ∀ n, n < 64 → lane32 x n = if k n then leNat (readBytes h.mem (a + 4 * n) 4) else lane32 (aGet h (wAcc w)) n) ∧
    (wOp w = 0x64 → a % 64 = 0 →
      let at_ := fun n => a + 64 * (lane8 (vGet h (wB w)) n % 64) + n
      (∀ n, n < 64 → Within h (at_ n) 1 ∧ (wordFlips h (at_ n / 8)).length ≤ 1) → ∃ (x : BitVec 512) (e : Nat),
      exec (.vlut c) s = .next (complete1 (fetched s c) c 1 fun h =>
        { countFixed h e with v := vmodN h.v (wD w) fun _ => x }) ∧
      ∀ n, n < 64 → lane8 x n = if k n then (tget 0 h.mem (at_ n)).toNat else lane8 (vGet h (wD w)) n)

/-- O10. The stores. VST, SST, AST and VHIST, issued at an aligned address within reach, store exactly the bytes that Table 6-5 names and leave every other byte of local memory as it stood: VST the lanes that kK sets to sA + IMM, SST the four bytes of sD, AST the 256 bytes of aACC, least significant first, and VHIST one count for each lane that kK sets in the counter that the lane of vB names. A word stored in part must be readable by the error code. No register changes. -/
def Obligations.Stores : Prop :=
  ∀ (c : Fin 256) (s : State) (w : BitVec 64), Issues s c w →
    let h := s.cast[c]
    let a := memAddr h w
    let k := fun n => (kGet h (wK w)).getLsbD n
    Memory.wf h.mem →
    (wOp w = 0x21 → a % 64 = 0 → Within h a 64 →
      (∀ j, j < 8 → (wordFlips h (a / 8 + j)).length ≤ 1 ∨ (∀ i, i < 8 → k (8 * j + i) = true) ∨ ∀ i, i < 8 → k (8 * j + i) = false) →
      StoreResult (.vst c) s c 1 fun y =>
        if a ≤ y ∧ y < a + 64 ∧ k (y - a) = true then BitVec.ofNat 8 (lane8 (vGet h (wD w)) (y - a)) else tget 0 h.mem y) ∧
    (wOp w = 0x23 → a % 4 = 0 → Within h a 4 → Readable h a 4 →
      StoreResult (.sst c) s c 1 fun y =>
        if a ≤ y ∧ y < a + 4 then (sGet h (wD w)).extractLsb' (8 * (y - a)) 8 else tget 0 h.mem y) ∧
    (wOp w = 0x25 → a % 256 = 0 → Within h a 256 →
      StoreResult (.ast c) s c 4 fun y =>
        if a ≤ y ∧ y < a + 256 then (aGet h (wAcc w)).extractLsb' (8 * (y - a)) 8 else tget 0 h.mem y) ∧
    (wOp w = 0x65 → a % 64 = 0 →
      let at_ := fun n => a + 4 * lane8 (vGet h (wB w)) n
      (∀ n, n < 64 → k n = true → Within h (at_ n) 4 ∧ (wordFlips h (at_ n / 8)).length ≤ 1) →
      StoreResult (.vhist c) s c 8 fun y =>
        let n := (List.range 64).countP fun i => k i && decide (at_ i = y / 4 * 4)
        if n = 0 then tget 0 h.mem y
        else BitVec.ofNat 8 ((leNat (readBytes h.mem (y / 4 * 4) 4) + n) / 256 ^ (y % 4)))

/-- O11. The work-item instructions. TAKE, with no current item, makes the oldest placed item current once its slot is READY: the item in vD, its window's address in sA, and its window length with the error bit in s(A+1). EMIT and PASS put a result into the output half while it holds fewer than four and the item has given fewer than 16; PASS takes its operation from the edge that IMM names. DONE, with no tag busy and no completion waiting, puts the completion into the output half and empties the slot. TRAP is a caster fault of kind 5 with its code. Nothing else changes. -/
def Obligations.WorkItemInstructions : Prop :=
  ∀ (c : Fin 256) (s : State) (w : BitVec 64), Issues s c w →
    let h := s.cast[c]
    (wOp w = 0x80 → curSlot h = none → ∀ i, oldestSlot h = some i → h.slots[i].state = .ready →
      exec (.take c) s = .next (complete1 (fetched s c) c 1 fun g =>
        sSet (sSet (vSet { g with slots := vmod g.slots i fun x => { x with state := .current }, sent := 0 } (wD w) h.slots[i].item)
          (wA w) (BitVec.ofNat 32 (0x1C000 + 0x2000 * i.val))) (wA w + 1)
          (BitVec.ofNat 32 (h.slots[i].winLen % 2 ^ 14 + if h.slots[i].winErr then 2 ^ 31 else 0)))) ∧
    (wOp w = 0x81 → ∀ i, curSlot h = some i → h.sent < 16 → resultsWaiting h < 4 →
      exec (.emit c) s = .next (complete1 (fetched s c) c 1 fun g =>
        { g with sent := g.sent + 1, outHalf := g.outHalf ++
            [⟨.emit, itFlow h.slots[i].item, h.slots[i].oid, setOp (resultItem h.slots[i].item (vGet h (wA w))) (itOp h.slots[i].item)⟩] })) ∧
    (wOp w = 0x82 → ∀ i op, curSlot h = some i → vget none (opRec s (itOp h.slots[i].item)).edges (wImm w % 8) = some op →
      h.sent < 16 → resultsWaiting h < 4 →
      exec (.pass c) s = .next (complete1 (fetched s c) c 1 fun g =>
        { g with sent := g.sent + 1, outHalf := g.outHalf ++
            [⟨.pass (wImm w % 8), itFlow h.slots[i].item, h.slots[i].oid, setOp (resultItem h.slots[i].item (vGet h (wA w))) op⟩] })) ∧
    (wOp w = 0x83 → ∀ i, curSlot h = some i → anyBusy h = false → completionWaits h = false →
      exec (.done c) s = .next (complete1 (fetched s c) c 1 fun g =>
        { g with items := g.items + 1, slots := vmod g.slots i fun x => { x with state := .empty },
                 outHalf := g.outHalf ++ [⟨.completion, itFlow h.slots[i].item, h.slots[i].oid, h.slots[i].item⟩] })) ∧
    (wOp w = 0x8F → exec (.trap c) s = .next (raiseEvent ((fetched s c).modCast c fun g =>
      { g with mode := .faulted, clockStopped := false, fault := 5, faultPc := g.pc.zeroExtend 16, faults := satAdd g.faults 1,
               trapCode := BitVec.ofNat 16 (wImm w) }) 10))

/-- O12. The DMA and wait instructions. DPULL and DPUSH, with both addresses multiples of 64, a local range outside the ladle and an idle tag, make the tag busy with the transfer; DWAIT completes when no named tag is busy; DTEST reads the done and error bits of the tags into sD; WAITC leaves the caster waiting for its count of cycles. DMA_COMPLETE of a transfer with DDR5 moves all its bytes, ends the tag with its error, and counts an error; of a transfer that names no address of DDR5 and no bin it moves nothing and ends the tag with the error. WAITC_EXPIRY lets the caster go on. -/
def Obligations.DmaInstructions : Prop :=
  ∀ (c : Fin 256) (s : State),
    let h := s.cast[c]
    (∀ w, Issues s c w →
      let len := wImm w % 2 ^ 17
      let loc := (sGet h (wA w)).toNat
      let ext := (sGet h (wB w + 1)).toNat % 256 * 2 ^ 32 + (sGet h (wB w)).toNat
      let begins := fun (push : Bool) => complete1 (fetched s c) c 1 fun g =>
        { g with tags := vmodN g.tags (wD w % 8) fun _ => { busy := some { push := push, ext := ext, loc := loc, len := len } } }
      (wOp w = 0x70 → loc % 64 = 0 → ext % 64 = 0 → loc + len ≤ 0x1C000 → (vget ({} : Tag) h.tags (wD w % 8)).busy = none →
        exec (.dpull c) s = .next (begins false)) ∧
      (wOp w = 0x71 → loc % 64 = 0 → ext % 64 = 0 → loc + len ≤ 0x1C000 → (vget ({} : Tag) h.tags (wD w % 8)).busy = none →
        exec (.dpush c) s = .next (begins true)) ∧
      (wOp w = 0x72 → (∀ t : Fin 8, (wImm w).testBit t.val = true → h.tags[t].busy = none) →
        exec (.dwait c) s = .next (complete1 (fetched s c) c 1 id)) ∧
      (wOp w = 0x73 → ∃ x : BitVec 32, ScalarResult (.dtest c) s c w x ∧ ∀ t : Fin 8,
        x.getLsbD t.val = h.tags[t].done ∧ x.getLsbD (8 + t.val) = (h.tags[t].done && h.tags[t].err)) ∧
      (wOp w = 0x78 → exec (.waitc c) s = .next ((fetched s c).modCast c fun g =>
        { g with waitc := wImm w % 2 ^ 16, mode := .inWaitc, pc := g.pc + 1, cycles := g.cycles + wImm w % 2 ^ 16 }))) ∧
    (∀ (t : Fin 8) (d : Dma) (u : State) (l : List Byte) (bad : Bool), h.tags[t].busy = some d → d.push = false →
      extSpan d.ext d.len = .ddr → memReady s d.ext d.len = true → memRead s .caster d.ext d.len = (u, some (l, bad)) →
      u.cast[c].mode ≠ .faulted →
      exec (.dmaComplete c t) s = .next (wakeCaster (u.modCast c fun g =>
        { localFill g d.loc l with tags := vset g.tags t { busy := none, done := true, err := bad },
                                   dmaErr := if bad then satAdd g.dmaErr 1 else g.dmaErr }) c)) ∧
    (∀ (t : Fin 8) (d : Dma) (u : State), h.tags[t].busy = some d → d.push = true → extSpan d.ext d.len = .ddr →
      memReady s d.ext d.len = true → Readable h d.loc d.len → h.mode ≠ .faulted →
      memWrite s .caster d.ext (readBytes h.mem d.loc d.len) = (u, true) → d.loc % 8 = 0 → d.len % 8 = 0 → u.cast[c] = h →
      exec (.dmaComplete c t) s = .next (wakeCaster (u.modCast c fun g =>
        { countFixed g (anyFixed h (wordsOf d.loc d.len)) with tags := vset g.tags t { busy := none, done := true, err := false } }) c)) ∧
    (∀ (t : Fin 8) (d : Dma), h.tags[t].busy = some d → extSpan d.ext d.len = .invalid → h.mode ≠ .faulted →
      exec (.dmaComplete c t) s = .next (wakeCaster (s.modCast c fun g =>
        { g with tags := vset g.tags t { busy := none, done := true, err := true }, dmaErr := satAdd g.dmaErr 1 }) c)) ∧
    (h.mode = .inWaitc → casterRuns s c = true →
      exec (.waitcExpiry c) s = .next (s.modCast c fun g => { g with mode := .running, waitc := 0 }))

/-- O13. What happens to a caster beside its instructions. WINDOW_PULL_COMPLETE fills the window of a FILLING slot with the blocks read, zeros after its length, and makes the slot READY with the error bit. CLOCK_STOP stops the clock of a caster whose wait still stands. CASTER_RESTART, when the DMA of a faulted caster has finished, returns its items, clears its registers and lets it run, or halts it after an error-code fault. KERNEL_LOAD_SWITCH and CASTER_RETIRED, once the caster has drained, put the new kernel or nothing into it, and their command completes with the last caster. -/
def Obligations.CasterEvents : Prop :=
  ∀ (c : Fin 256) (s : State),
    let h := s.cast[c]
    (∀ (n : Fin 2) (u : State) (l : List Byte) (bad : Bool), h.slots[n].state = .filling →
      extReady s c h.slots[n].winSrc (64 * ((h.slots[n].winLen + 63) / 64)) = true →
      extBlocks s c h.slots[n].winSrc ((h.slots[n].winLen + 63) / 64) = (u, l, bad) →
      exec (.windowPullComplete c n) s = .next (wakeCaster (u.modCast c fun g =>
        { localFill g (0x1C000 + 0x2000 * n.val) (padTo (64 * ((h.slots[n].winLen + 63) / 64)) (l.take h.slots[n].winLen)) with
          slots := vmod g.slots n fun x => { x with state := .ready, winErr := bad } }) c)) ∧
    ((h.mode = .inTake ∨ h.mode = .waiting) → casterRuns s c = true → waitStands h = true →
      exec (.clockStop c) s = .next (s.modCast c fun g => { g with clockStopped := true })) ∧
    (h.mode = .faulted → anyBusy h = false → casterRuns s c = true →
      exec (.casterRestart c) s = .next ((returnLadle s c true).modCast c fun g =>
        { clearRegs g with mode := if g.fault = 6 then .halted else .running, clockStopped := false, sent := 0, waitc := 0 })) ∧
    (∀ (job : Nat) (j : Job) m f id prog segs loaded skipped late, h.drain = some (.kernel job) → findJob s job = some j →
      j.kind = .kernelLoad m f id prog segs loaded skipped late → drained h = true →
      exec (.kernelLoadSwitch c) s = .next (casterJobDone (setJobKind (s.modCast c fun g => switchKernel g id prog segs) job
        (.kernelLoad m f id prog segs (loaded + 1) skipped late)) job)) ∧
    (∀ (job : Nat) (persistent : Bool), h.drain = some (.retire job persistent) → drained h = true →
      exec (.casterRetired c) s = .next (casterJobDone
        (if persistent then bookRetired (s.modCast c retireCaster) c.val else s.modCast c retireCaster) job))

/-- O14. A caster fault of an access. VLD issued at an address that is out of the local memory, within the ladle but not in the current item's window, or misaligned is a caster fault of kind ADDR (1), LADLE (3) or ALIGN (2): the caster faults at its pc with that kind, no register and no memory changes, and event 10 rises. Where several apply, ADDR is recorded before LADLE before ALIGN. -/
def Obligations.AccessFaults : Prop :=
  ∀ (c : Fin 256) (s : State) (w : BitVec 64), Issues s c w → wOp w = 0x20 →
    let h := s.cast[c]
    let a := memAddr h w
    let faults := fun (kind : BitVec 8) => exec (.vld c) s = .next (raiseEvent ((fetched s c).modCast c fun g =>
      { g with mode := .faulted, clockStopped := false, fault := kind, faultPc := g.pc.zeroExtend 16, faults := satAdd g.faults 1 }) 10)
    (0x20000 < a + 64 → faults 1) ∧
    (a + 64 ≤ 0x20000 → ¬Within h a 64 → faults 3) ∧
    (Within h a 64 → a % 64 ≠ 0 → faults 2)

/-- O15. Eight carry macrocells add 16 bits. In a stall whose eight macrocells all have CARRY set, with operands from the ports and nothing inverted, tokens a, b, c and d on ports A to D and a carry in of 0 or 1 evaluate to the exact sum: output X is the low byte of (a + 256 c) + (b + 256 d) + carry in, output Y the next byte, and the carry out the ninth bit above. -/
def Obligations.AdderIsExact : Prop :=
  ∀ (s : State) (k n a b c d cin held : Nat), a < 256 → b < 256 → c < 256 → d < 256 → cin ≤ 1 →
    (∀ m, m < 8 → mcCarry s k n m = true ∧ mcHeld s k n m = false ∧ mcOpbInv s k n m = false) →
    let rails : Fin 4 → BitVec 16 := fun p => railsOf (match p with | 0 => a | 1 => b | 2 => c | 3 => d)
    let e := evalStall s k n rails held cin
    let sum := (a + 256 * c) + (b + 256 * d) + cin
    evalOut e 0 = railsOf (sum % 256) ∧ evalOut e 1 = railsOf (sum / 256 % 256) ∧ e.carry = sum / 65536

/-- O16. The firing of a stall. A stall outside a carry chain whose fire conditions hold, none of whose used outputs evaluates to a code violation and which emits or acknowledges something, fires: it presents each emitting output's rails, takes its held digits, acknowledges each port of its fire set whose consume control is met, and the lanes move on; the grant holds on while the firing acknowledges something but not the granted port. A poisoned token or a code violation on a port of its own is instead a stall fault with that port as its site and kind POISON (2) or CODE (1); a violation on a used output is a stall fault of kind CODE at site 4 or 5, at X where both violate. Which of several bad ports is recorded, X before Y, is log entry 100, the model's choice. -/
def Obligations.StallFires : Prop :=
  ∀ (k : Fin 64) (n : Fin 2048) (g : BitVec 3) (s : State), running s k = true → (stallSt s k n).fault = false →
    let e := evalStall s k n (fireRails s k n g.toNat) (stallSt s k n).held.toNat ((carryIn s k n).getD 0)
    let outs := (List.range 2).filter fun o => usedOut s k n o && outcomeOf (evalOut e o) == .emits
    let acks := (fireSet s k n g.toNat).filter fun p => consumes s k n p e
    let s1 := s.modStall k n fun x =>
      { x with passed := if g.toNat < 4 then afterGrant s k n g.toNat x.passed else x.passed, blocked := none,
               grant := if g.toNat < 4 ∧ acks ≠ [] ∧ g.toNat ∉ acks then some (Fin.ofNat 4 g.toNat) else none,
               held := takeHeld x.held e (heldMcs s k n e) }
    let s2 := outs.foldl (fun s o => present s (.out k n o) (evalOut e o)) s1
    let s3 := acks.foldl (fun (a : State × List Move) p =>
      ((ackLeaf a.1 (.port k n p)).1, a.2 ++ (ackLeaf a.1 (.port k n p)).2.map Move.freed)) (s2, [])
    (badPort s k n = none → fires s k n g.toNat = true → chainOut s k n = false → cinSel s k n ≠ 2 →
      (∀ o, o < 2 → usedOut s k n o = true → outcomeOf (evalOut e o) ≠ .violation) → (outs ≠ [] ∨ acks ≠ []) →
      exec (.firing k n g) s = .next (settle s3.1 (outs.map (fun o => Move.shown (.out k n o)) ++ s3.2))) ∧
    (∀ p r, badPort s k n = some (p, r) →
      exec (.firing k n g) s = .next (pdkFault (s.modStall k n fun x => { x with fault := true }) k (if r = poison then 2 else 1) p n.val)) ∧
    (∀ o, badPort s k n = none → fires s k n g.toNat = true → o < 2 → usedOut s k n o = true →
      outcomeOf (evalOut e o) = .violation → (o = 1 → usedOut s k n 0 = true → outcomeOf (evalOut e 0) ≠ .violation) →
      exec (.firing k n g) s = .next (pdkFault (s.modStall k n fun x => { x with fault := true }) k 1 (4 + o) n.val))

/-- O17. Gangs, gate cells, row taps and USER trees. A complete gang takes the token of the input that its control token selects unchanged to output X of its head, whose held digits become the token's (log entry 7, DEDUCED), and acknowledges both. An isolating gate cell set to DRAIN acknowledges and counts a token offered to it. A tree event that reaches a row tap of a paddock past its WRITE release joins the tap's queue, and with 15 events pending it is discarded with the overrun flag and count. A USER tree whose source moves takes the other level, and an edge to the level it has changes nothing but that the tree follows its source from then on (log entry 108, the model's choice). -/
def Obligations.FabricEvents : Prop :=
  ∀ (s : State) (k : Fin 64),
    (∀ (n : Fin 2048), running s k = true → (stallSt s k n).fault = false → gangOk s k n = true →
      let ctl := seen s (.port k n 3)
      let i := tokenOf ctl % 16 % (2 * (gangSize s k n + 1))
      let inp := seen s (gangInput k n i)
      gangBad s k n = none → complete ctl = true → complete inp = true →
      (stallSt s k (n.val + 64 * (i / 2))).fault = false → forks s k n 0 ≠ [] → idleSrc s (.out k n 0) = true →
      let held := s.modStall k n fun x => { x with held := setFld x.held 0 8 (tokenOf inp) }
      let a := ackLeaf (present held (.out k n 0) inp) (.port k n 3)
      let b := ackLeaf a.1 (gangInput k n i)
      exec (.gangFiring k n) s = .next (settle b.1 (Move.shown (.out k n 0) :: (a.2 ++ b.2).map Move.freed))) ∧
    (∀ (n : Fin 16384) (e : End), ahead (n.val / 8 / 64) (n.val / 8 % 64) (n.val / 2 % 4) = 0 →
      borderOut k (n.val / 8 / 64) (n.val / 8 % 64) (n.val / 2 % 4) (n.val % 2) = .lane e → gatePasses s e = false →
      outDrain s e = true → arrived (seen s (.gate e)) = true → cutHeld s k = false →
      exec (.gateCellDiscard k n) s = .next (take (s.modPdk k fun d => { d with drain := satAdd d.drain 1 }) (.gate e))) ∧
    (∀ (row : Fin 32) (ev : TapEv) (rest : List TreeEv), takeTreeEvent s.fab.tree (tapNo k row) = some (ev, rest) →
      (pdkAt s k).relWrite = true →
      let t := tget ({} : TapSt) s.fab.taps (tapNo k row)
      let s1 := { s with fab := { s.fab with tree := rest } }
      (tapPending s1 k row < 15 → exec (.rowTapEvent k row) s = .next (settleShown (tapPresent
        { s1 with fab := { s1.fab with taps := tput {} s.fab.taps (tapNo k row) { t with q := t.q ++ [ev] } } } k row))) ∧
      (15 ≤ tapPending s1 k row → exec (.rowTapEvent k row) s = .next (s1.modPdk k fun d =>
        { d with tapOverrun := true, tapCount := satAdd d.tapCount 1 }))) ∧
    (∀ (n : Fin 3) (rise : Bool), treeMayMove s n rise = true →
      let s1 := { s with pins.trees := vmod s.pins.trees n fun t => { t with stale := false } }
      (s.pins.trees[n].level = rise → exec (.userTreeEdge n rise) s = .next s1) ∧
      (s.pins.trees[n].level ≠ rise → exec (.userTreeEdge n rise) s = .next (treeEdge s1 n rise) ∧
        ∀ t, exec (.userTreeEdge n rise) s = .next t → (t.pins.trees[n]).level = rise))

/-- O18. Parking, the limit of an isolation, and the user reset of a paddock. PARK with the outgoing lanes empty, and ISOLATE_LIMIT_EXPIRY always, park an isolating paddock that no muster cut holds (the latter with DETAIL 1 where an outgoing lane is still busy); under a cut the expiry follows its release. A write of PDK_CTL with bit 0 set asserts the user reset of a LIVE paddock: its stalls and bins are reset, the levels it gives to other paddocks fall, and URST is set; USER_RESET_RELEASE clears it, presents the initial tokens and wakes the fabric; a user pad whose level changes with either gives its edge. Without bit 0 the write changes nothing. -/
def Obligations.ParkAndUserReset : Prop :=
  ∀ (s : State) (k : Fin 64),
    (∀ job, s.pdk[k].isolating = some job → cutHeld s k = false → outBusy s k = false → exec (.park k) s = .next (parkPaddock s k false)) ∧
    (∀ job, s.pdk[k].isolating = some job → cutHeld s k = false →
      exec (.isolateLimitExpiry k) s = .next (parkPaddock s k (outBusy s k))) ∧
    (∀ job, s.pdk[k].isolating = some job → cutHeld s k = true → exec (.isolateLimitExpiry k) s =
      .next { s with mus := { s.mus with deferred := s.mus.deferred ++ [(.limitExpired, k.val)] } }) ∧
    (∀ v : BitVec 32, served s = true → v.getLsbD 0 = true → s.pdk[k].state = .live → cutHeld s k = false →
      let s1 := binsUserReset (stallReset (s.modPdk k fun d => { d with urst := true }) k) k
      exec (.urst k v) s = .next (padEdges s ((departureLanes k).foldl (fun s e => fallLevel s (.gate e)) s1))) ∧
    (∀ v : BitVec 32, v.getLsbD 0 = false → exec (.urst k v) s = .next s) ∧
    (s.pdk[k].urst = true → cutHeld s k = false → exec (.userResetRelease k) s =
      .next (padEdges s (wakeFabric (showOutputs (loadInitial (s.modPdk k fun d => { d with urst := false }) k) k) k)))

/-- O19. Bins as RAM and as a FIFO. In a running bin that no cut holds and whose inputs carry no bad token: a read request of a RAM port presents the addressed word on the port's output lanes, or poison where the array cannot be corrected, and is acknowledged; a write request stores exactly one word at its address and is acknowledged with its data; a word offered to a FIFO that is not full is stored behind the words it holds and counted; and the word presented leaves a FIFO once every used output lane has acknowledged it. The watermark notice follows each change of a FIFO's level. -/
def Obligations.BinTransfers : Prop :=
  ∀ (s : State) (k : Fin 64) (b : Fin 64), binRuns s k b = true → cutHeld s k = false → badInput s k b = none →
    (∀ (p : Fin 2) (a : Nat), ramPort s k b p = true →
      (ramRequest s k b p = some (a, false) → outsIdle s k b p = true →
        let r := binRead s k b (a * binLanes s k b p) (binLanes s k b p)
        let q := presentWord r.1 k b p r.2
        let x := ackLeaf q.1 (.bin k b (10 * p))
        let y := ackLeaf x.1 (.bin k b (10 * p + 1))
        exec (.binRead k b p) s = .next (settle y.1 (q.2.map Move.shown ++ (x.2 ++ y.2).map Move.freed))) ∧
      (∀ w, ramRequest s k b p = some (a, true) → dataWord s k b p = some w →
        exec (.binWrite k b p) s = .next (takeAll (binWrite s k b (a * binLanes s k b p) w) (reqLeaves k b p ++ dataLeaves s k b p)))) ∧
    (binMode s k b = 2 →
      let x := s.bin (64 * k + b)
      (∀ w, dataWord s k b 0 = some w → x.count < 16384 / binLanes s k b 0 →
        exec (.fifoWrite k b) s = .next (settleShown (fifoPresent (takeAll (binNotice
          ((binWrite s k b ((x.rd + x.count) % (16384 / binLanes s k b 0) * binLanes s k b 0) w).modBin (64 * k + b)
            fun x => { x with count := x.count + 1 }) k b) (dataLeaves s k b 0)) k b))) ∧
      (x.shown = true → outsIdle s k b 1 = true →
        exec (.fifoRead k b) s = .next (settleShown (fifoPresent (binNotice (s.modBin (64 * k + b) fun x =>
          { x with count := x.count - 1, rd := (x.rd + 1) % (16384 / binLanes s k b 0), shown := false }) k b) k b))))

/-- O20. Bins as a priority FIFO. In a running bin in priority mode that no cut holds and whose inputs carry no bad token, with an index that the error code reads: a header pair begins an item of its priority and length with free cells and a free handle, and is acknowledged; with no item presented the item of the highest priority class (the lowest number), the earliest in it, becomes read-held and is presented; a command pair releases a read-held item by its handle, or saves, releases through, rewinds to or clears a mark; a command that names nothing so is counted as misuse and changes no item. -/
def Obligations.PriorityItems : Prop :=
  ∀ (s : State) (k : Fin 64) (b : Fin 64), binRuns s k b = true → cutHeld s k = false → badInput s k b = none →
    binMode s k b = 3 →
    let x := s.bin (64 * k + b)
    let s1 := indexRead s k b
    x.idxErr = false → (s1.bin (64 * k + b)).idxErr = false →
    (∀ h, x.writing = none → complete (seen s (.bin k b 0)) = true → complete (seen s (.bin k b 1)) = true → freeHandle x = some h →
      let len := tokenOf (seen s (.bin k b 1)) + 1
      let cells := (freeCells s k b).take len
      cells.length = len →
      exec (.itemWrite k b) s = .next (takeAll (binNotice (s1.modBin (64 * k + b) fun y =>
        { y with items := y.items ++ [⟨h, BitVec.ofNat 4 (tokenOf (seen s (.bin k b 0))), len, x.arrivals, 0, false, 0, cells⟩],
                 writing := some h, arrivals := y.arrivals + 1 }) k b) (reqLeaves k b 0))) ∧
    (∀ it, x.cur = none → x.cmdFirst = false → nextItem x = some it →
      let s2 := s1.modBin (64 * k + b) fun y =>
        { y with seq := y.seq + 1, cur := some { handle := it.handle },
                 items := y.items.map fun i => if i.handle == it.handle then { i with held := true, readseq := y.seq + 1 } else i }
      let p := headerPresent s2 k b
      let q := wordPresent p.1 k b
      exec (.itemSelect k b) s = .next (settle q.1 ((p.2 ++ q.2).map Move.shown))) ∧
    (x.cur = none → cmdComplete s k b = true →
      let lo := tokenOf (seen s (.bin k b 10))
      let hi := tokenOf (seen s (.bin k b 11))
      let m : Fin 4 := ⟨hi / 4 % 4, Nat.mod_lt _ (by decide)⟩
      let does := fun (f : BinSt → BinSt) => takeAll ((binNotice (s1.modBin (64 * k + b) f) k b).modBin (64 * k + b)
        fun y => { y with cmdFirst := false }) (reqLeaves k b 1)
      (hi / 16 = 1 → exec (.release k b) s = .next (does fun y => release y (lo + 256 * (hi % 4)))) ∧
      (hi / 16 = 2 → exec (.releaseThroughMark k b) s = .next (does fun y => releaseThrough y m)) ∧
      (hi / 16 = 3 → exec (.saveMark k b) s = .next (does fun y => { y with marks := vset y.marks m (some y.seq) })) ∧
      (hi / 16 = 4 → exec (.rewind k b) s = .next (does fun y => rewind y m)) ∧
      (hi / 16 = 5 → exec (.clearMark k b) s = .next (does fun y => clearMark y m)))

/-- O21. Which item is selected, and what release and rewind do to items. The item selected is readable and not read-held, and no readable item that is not read-held has a lower priority number, or the same and an earlier arrival. RELEASE of a read-held item removes exactly the items of its handle. RELEASE_THROUGH_MARK removes exactly the read-held items read no later than the mark. REWIND makes exactly the read-held items read after the mark readable again and removes none. -/
def Obligations.ItemOrder : Prop :=
  ∀ (x : BinSt),
    (∀ it, nextItem x = some it → it ∈ x.items ∧ it.taken = it.len ∧ it.held = false ∧
      ∀ j, j ∈ x.items → j.taken = j.len → j.held = false → it.prio < j.prio ∨ (it.prio = j.prio ∧ it.arrival ≤ j.arrival)) ∧
    (∀ h i, itemOfHandle x h = some i → i.held = true → ∀ j, j ∈ (release x h).items ↔ j ∈ x.items ∧ j.handle ≠ h) ∧
    (∀ (m : Fin 4) t, x.marks[m] = some t →
      (∀ j, j ∈ (releaseThrough x m).items ↔ j ∈ x.items ∧ ¬(j.held = true ∧ j.readseq ≤ t)) ∧
      ((rewind x m).items.length = x.items.length ∧
        ∀ n (hn : n < x.items.length) (hm : n < (rewind x m).items.length),
          (rewind x m).items[n] = if x.items[n].held = true ∧ t < x.items[n].readseq then { x.items[n] with held := false }
            else x.items[n]))

/-- O22. The steps of a pour. While a pour runs and neither a set of frames nor its release is under way and no deferred LOADING stands in the way, the next read of its flash or host buffer goes on: between two tries of a pour of any slot the next slot is tried (R378; log entry 52), and within a try a segment that was read is processed; a failed read of the flash stops the try with CHECK_FAILED, DETAIL 0x000C and CFG_WHY 4, and a failed read of the host buffer with ABORTED and the DMA error of its port. Once the rail of a die whose pour lift is held reads back at least 0.75 V the loader goes on with the frames that wait. With every clock loop locked a pour whose frames are all written begins its release, and each release stage takes the next step of every paddock of its job, once no muster cut holds one of them. -/
def Obligations.PourSteps : Prop :=
  ∀ (s : State) (p : Pour), s.cfg.pour = some p → loaderReady s = true →
    (∀ ok, p.releasing = false → p.frames = [] → p.accepted = false → exec (.segmentRead ok) s = .next (nextTry s p ok)) ∧
    (p.releasing = false → p.frames = [] → p.accepted = true →
      exec (.segmentRead true) s = .next (pourSegment s p) ∧
      (p.fromHost = false → exec (.segmentRead false) s = .next (stopTry s (pourStop .check 0x0C 4 none))) ∧
      (∀ j h, p.fromHost = true → findJob s p.job = some j → portOf j.src = some h →
        exec (.segmentRead false) s = .next (stopTry (hpErr s h hpDma) (pourStop .aborted 0 4 none)))) ∧
    (∀ d : Fin 2, 750 ≤ s.gov.die[d].vread → s.gov.die[d].pourLift = true → p.releasing = false → p.accepted = true →
      let s1 := { s with cfg.pour := some { p with lifted := vset p.lifted d true } }
      (p.frames = [] → exec (.pourLiftReady d) s = .next s1) ∧
      (p.frames ≠ [] → exec (.pourLiftReady d) s = .next (afterFrames (writeFrames p.frames s1)))) ∧
    (∀ job, (∃ r ∈ s.cfg.rels, r.job = job) → (∀ r ∈ s.cfg.rels, r.job = job → cutHeld s r.pdk = false) →
      exec (.releaseStage job) s = .next (afterStage (stepRelease s job) job)) ∧
    ((∀ r ∈ s.cfg.rels, r.job ≠ p.job) → p.releasing = true → s.pins.lock = 0xFFFF →
      exec (.releaseStage p.job) s = .next (afterStage (stepRelease (startRelease s p) p.job) p.job))

/-- O23. The fettler. While the fettler runs, its engine of a die deals with the frame at its position, skipping a frame of a LOADING or TORN paddock, and moves on to the next. With a correction held, while the fettler runs outside DOZE, and with the rail of the die at 0.70 V or more, the correction is written; with the last one the fettler's lift goes. -/
def Obligations.FettlerSteps : Prop :=
  ∀ (s : State) (d : Fin 2),
    (fettlerRuns s = true →
      let a := sweepAddr d.val s.cfg.ftlPos[d]
      let p := (pdkAt s (a / 8192)).state
      (p ≠ .loading → p ≠ .torn → exec (.fettlerFrame d) s = .next (nextFrame (fettleFrame s a) d)) ∧
      (p = .loading ∨ p = .torn → exec (.fettlerFrame d) s = .next (nextFrame s d))) ∧
    (∀ a r, s.cfg.ftlHeld[d] = a :: r → fettlerRuns s = true → s.dev.state ≠ .doze → 700 ≤ railOf s.gov.die[d] →
      let s1 := { s with cfg.ftlHeld := vset s.cfg.ftlHeld d r }
      (r ≠ [] → exec (.fettlerWrite d) s = .next (writeCorrection s1 a)) ∧
      (r = [] → exec (.fettlerWrite d) s = .next (writeCorrection (s1.modGov d fun g => { g with fettlerLift := false }) a)))

/-- O24. Upsets. An upset of an existing stored bit of the caster memories, the instruction stores, the bins or the DDR blocks turns that bit of the stored word and changes nothing else; an upset of a stored frame bit turns it, and what the frame configures follows. -/
def Obligations.Upsets : Prop :=
  ∀ (s : State) (b : Nat),
    (∀ a, a < 2 ^ 19 → a % 8192 < 5120 ∨ (5152 ≤ a % 8192 ∧ a % 8192 < 5216) → b < 4144 →
      exec (.upset (.frame a b)) s =
        .next (refit { s with cfg.frames := tmod {} s.cfg.frames a fun f => { f with flips := toggle b f.flips } } (a / 8192))) ∧
    (∀ n w, n < 4096 → w < 2048 → b < 72 →
      exec (.upset (.bin n w b)) s = .next { s with fab.binBad := flipBit s.fab.binBad (2048 * n + w) b }) ∧
    (∀ (c : Fin 256) w, w < 16384 → b < 72 →
      exec (.upset (.casterMem c w b)) s = .next (s.modCast c fun h => { h with memBad := flipBit h.memBad w b })) ∧
    (∀ (c : Fin 256) w, w < 2048 → b < 72 →
      exec (.upset (.casterStore c w b)) s = .next (s.modCast c fun h => { h with storeBad := flipBit h.storeBad w b })) ∧
    (∀ k, k < 2 ^ 34 → b < 40 → exec (.upset (.ddr k b)) s = .next { s with ddr.bad := flipBit s.ddr.bad k b })

/-- O25. The rate governor. At the end of a window in HALTER, RECOVERY, POURING and SERVICE a held configuration comes into force, the freeze is counted, each die's window is evaluated over the window that has ended, and the pace counts are latched; in DOZE the rails are taken to the effective floor, or to the ceiling while the device leaves DOZE, and in SHUTTING_DOWN they are held. In each of these a read of the voltage, the current and the status of each regulator is queued. An AVSBus response that is missing or wrong is retried up to three times and then recorded as a failure; a good one completes its transaction: a voltage that is read stands as the die's, and beside the set voltage by more than 25 mV at least 100 us after the last write it is a failure; a current that is read stands in the die's current register. The reads of the current and the status in each window, and that the status changes nothing, are log entry 104, with entries 30 and 34 for how a response is given and what counts as its failure: the model's choices. -/
def Obligations.GovernorSteps : Prop :=
  ∀ (s : State),
    (let s1 := countFreeze (applyPending s)
      let reads := fun (t : State) (d : Fin 2) => avsPush (avsPush (avsPush t d .readV) d .readI) d .readStatus
      (govRuns s = true →
        let s2 := dieWindow (dieWindow { s1 with gov.params := { s1.gov.params with window := s.gov.params.window } } 0) 1
        exec .governorWindow s = .next (reads (reads (latchPace { s2 with gov.params := s1.gov.params }) 0) 1)) ∧
      (s.dev.state = .doze → s1.dev.dozeExit = none →
        exec .governorWindow s = .next (dozeWritten (reads (reads (latchPace (setRails s1 (floorEff s1) 7)) 0) 1))) ∧
      (s.dev.state = .doze → s1.dev.dozeExit ≠ none →
        exec .governorWindow s = .next (dozeWritten (reads (reads (latchPace (setRails s1 (fun _ => s1.gov.params.ceiling) 7)) 0) 1))) ∧
      (s.dev.state = .shuttingDown → exec .governorWindow s = .next (reads (reads (latchPace s1) 0) 1))) ∧
    (∀ (d : Fin 2) (op : AvsOp) (r : List AvsOp) (mv : Nat), s.gov.die[d].avs = op :: r →
      (s.gov.die[d].tries < 3 → exec (.avsbusResponse d false mv) s =
        .next (dozeWritten ((s.modGov d fun g => { g with tries := g.tries + 1 }).emit (.avs d.val op)))) ∧
      (3 ≤ s.gov.die[d].tries → exec (.avsbusResponse d false mv) s = .next (dozeWritten (avsNext (avsFail s d) d))) ∧
      (∀ v, op = .write v → exec (.avsbusResponse d true mv) s = .next (dozeWritten (avsNext s d))) ∧
      (op = .readStatus → exec (.avsbusResponse d true mv) s = .next (dozeWritten (avsNext s d))) ∧
      (op = .readI → exec (.avsbusResponse d true mv) s =
        .next (dozeWritten (avsNext { s with pins.iread := vset s.pins.iread d (BitVec.ofNat 16 mv) } d))) ∧
      (op = .readV →
        let s1 := s.modGov d fun g => { g with vread := mv }
        let far := s.gov.die[d].vset + 25 < mv ∨ mv + 25 < s.gov.die[d].vset
        (far ∧ s.gov.die[d].wroteAt + 100000 ≤ s.dev.yard → exec (.avsbusResponse d true mv) s = .next (dozeWritten (avsNext (avsFail s1 d) d))) ∧
        (¬(far ∧ s.gov.die[d].wroteAt + 100000 ≤ s.dev.yard) → exec (.avsbusResponse d true mv) s = .next (dozeWritten (avsNext s1 d)))))

/-- O26. Dispatch, completions and releases. A DISPATCH in SERVICE at a cycle at least two after the last one tries the dispatchable flows class by class in their turn, and the first that dispatches or waits for pool entries decides; with none nothing but the cycle count and the mark of a placement that waits changes. A COMPLETION_GRANT to a caster whose turn it may be takes the oldest entry of its output half, and the caster may go on. RELEASE_RESUME releases what the flow's in-order window now allows. -/
def Obligations.SchedulerSteps : Prop :=
  ∀ (s : State),
    (∀ cycle, s.dev.state = .service → s.sch.cycle + 2 ≤ cycle →
      let s1 := { s with sch.cycle := cycle, sch.placeWait := false }
      let flows := (List.range 4).flatMap (flowsInTurn s1)
      (∀ f t, flows.findSome? (fun f => tryFlow s1 f s.sch.cycle cycle) = some t → f ∈ flows → exec (.dispatch cycle) s = .next t) ∧
      ((∀ f ∈ flows, tryFlow s1 f s.sch.cycle cycle = none) → exec (.dispatch cycle) s = .next s1)) ∧
    (∀ (c : Fin 256) e r, s.cast[c].outHalf = e :: r → s.dev.state = .service → arbFair s c.val = true →
      exec (.completionGrant c) s =
        .next (acceptEntry (wakeCaster ((arbGrant s c.val).modCast c fun h => { h with outHalf := r }) c) e)) ∧
    (∀ f : BitVec 20, exec (.releaseResume f) s = .next (releaseFlow s f.toNat))

/-- O27. The rows of an operation port. With a whole record free of bad tokens in a port that is served: a submission (kind 0) in a port of mode 1 or 2 whose flow is OPEN and can take it enters that flow and the record is consumed; in a port of mode 3 an emission (kind 1) and a pass (kinds 2 to 9) along a valid edge become a result of the item delivered first, which has sent fewer than 16, and a done (kind 10) completes that item; an emission, a pass or a done in a port of another mode, or with no item delivered to the port, discards its record. Outside SERVICE these three keep a record that names such a result and change nothing (log entry 82, the model's choice). A record held back is taken up again at ADMISSION_RESUME like a submission. -/
def Obligations.OperationPorts : Prop :=
  ∀ (s : State) (n : Fin 512) (r : Record) (v : Nat), portServed s n.val = true → portRecord s.sch.ports[n] = some r →
    recordBad r = false → r.kind = some v →
    (v = 0 → (portMode s n.val = 1 ∨ portMode s n.val = 2) →
      (opRec s (itOp (recordItem r))).cls ≠ 0 → (s.flow (itFlow (recordItem r))).state = .open →
      ∀ t, enterItem s (.port n.val) (b2n (portMode s n.val == 2)) (recordItem r) = (t, true) →
        exec (.portSubmit n) s = .next (consumeRecord t n r) ∧
        (s.sch.ports[n].holding = true → exec (.admissionResume (some n)) s = .next (consumeRecord t n r))) ∧
    (portMode s n.val = 3 → s.dev.state = .service → ∀ f oid k l, s.sch.ports[n].items = (f, oid, k) :: l →
      (∀ o, findOut s f oid = some o → k < 16 →
        (v = 1 → exec (.portEmit n) s = .next (consumeRecord (addResult (countSent s n) f oid
          (.emit (setOp (resultItem o.item (recordItem r)) (itOp o.item)))) n r)) ∧
        (∀ e, 2 ≤ v → v ≤ 9 → vget none (opRec s (itOp o.item)).edges (v - 2) = some e →
          exec (.portPass n) s = .next (consumeRecord (addResult (countSent s n) f oid
            (.pass (v - 2) (setOp (resultItem o.item (recordItem r)) e))) n r))) ∧
      (v = 10 → exec (.portDone n) s =
        .next (completeItem (consumeRecord (s.modOpPort n fun x => { x with items := l }) n r) f oid))) ∧
    (portMode s n.val ≠ 3 ∨ s.sch.ports[n].items = [] →
      (v = 1 → exec (.portEmit n) s = .next (discardRecord s n r)) ∧
      (2 ≤ v → v ≤ 9 → exec (.portPass n) s = .next (discardRecord s n r)) ∧
      (v = 10 → exec (.portDone n) s = .next (discardRecord s n r))) ∧
    (portMode s n.val = 3 → s.dev.state ≠ .service → ∀ f oid k l, s.sch.ports[n].items = (f, oid, k) :: l →
      (∀ o, findOut s f oid = some o → k < 16 →
        (v = 1 → exec (.portEmit n) s = .next s) ∧
        (∀ e, 2 ≤ v → v ≤ 9 → vget none (opRec s (itOp o.item)).edges (v - 2) = some e → exec (.portPass n) s = .next s)) ∧
      (v = 10 → exec (.portDone n) s = .next s))

/-- O28. Refill, admission, drains and limits. With no port named, ADMISSION_RESUME continues the first FLOW_SUBMIT that can go on. While fewer pool entries are used than the refill level, the oldest spilled page of the flow to refill returns to the pool once its memory can be read, and waits for it before. FLOW_DRAIN_COMPLETE closes the draining flows that hold nothing and, with none left, completes the FLOW_DRAIN with DONE. At COMMAND_LIMIT_EXPIRY a FLOW_DRAIN closes the flows that hold nothing and ends with TIMEOUT, or with DONE where none is left open, and a KERNEL_LOAD or CASTER_RETIRE deals with the casters that still drain. -/
def Obligations.SchedulerJobs : Prop :=
  ∀ (s : State),
    (∀ j items dropped, s.cmdp.jobs.find? (submitMoves s) = some j → j.kind = .flowSubmit items dropped →
      exec (.admissionResume none) s = .next (resumeSubmit s j items dropped)) ∧
    (∀ f r p l, refillNow s = some f → spillRegion s = some r → (s.flow f).spill = p :: l →
      (memReady s (r.base + 4096 * p.page) 4096 = true → exec .spillRefill s = .next (traceCycle (fun s => refillPage s f r p) s)) ∧
      (memReady s (r.base + 4096 * p.page) 4096 = false → exec .spillRefill s = .next { s with sch.refilling := some f })) ∧
    (refillNow s = none → exec .spillRefill s = .next { s with sch.refilling := none }) ∧
    (∀ job j lo hi, findJob s job = some j → j.kind = .flowDrain lo hi →
      let t := (flowsIn s lo hi .draining).foldl closeIfEmpty s
      (flowsIn t lo hi .draining = [] → exec (.flowDrainComplete job) s = .next (finishJob t job .done 0 [])) ∧
      (flowsIn t lo hi .draining ≠ [] → exec (.flowDrainComplete job) s = .next t) ∧
      (flowsIn t lo hi .draining = [] → exec (.commandLimitExpiry job) s = .next (finishJob t job .done 0 [])) ∧
      (flowsIn t lo hi .draining ≠ [] → exec (.commandLimitExpiry job) s = .next (finishJob t job .timeout 0 []))) ∧
    (∀ job j, findJob s job = some j →
      ((∃ m f i p g l k n, j.kind = .kernelLoad m f i p g l k n) ∨ (∃ m f p, j.kind = .casterRetire m f p)) →
      exec (.commandLimitExpiry job) s = .next (casterLimit s j))

/-- O29. Cooling lists, ticks and the trace. In a state in which the cooling block runs, the tick domains are evaluated and the first entry due is counted, traced and re-enters the flow of its item. A pending token of a tick input is delivered and counted. A new tick value or a new yard time makes the entries it reaches due at once (tickDue). The oldest record of the trace buffer goes to a destination that is not full and takes the mark of records lost before it; at a full destination it is discarded and counted. When the upper 16 bits of yard time are new while the trace runs, an epoch record is produced. A write of TRC_RDIDX while registers are served sets the read index, unless a stopping trace would then hold more records than its ring. -/
def Obligations.CoolingAndTrace : Prop :=
  ∀ (s : State),
    (coolState s.dev.state = true →
      let t := evalDomains s
      (t.cool.dueQ = [] → exec .coolDue s = .next t) ∧
      (∀ e r, t.cool.dueQ = e :: r → exec .coolDue s =
        .next (traceCycle (fun u => reenter (traceItem u 8 (1007 + e.profile) e.item false) (itFlow e.item) e.item)
          { t with cool.dueQ := r, cool.cntDue := t.cool.cntDue + 1 }))) ∧
    (∀ n : Fin 8, s.pins.tickPend[n] ≠ 0 → exec (.tickInput n) s =
      .next (tickDue { s with pins.tickPend := vmod s.pins.tickPend n (· - 1), cool.ticks := vmod s.cool.ticks n (· + 1) })) ∧
    (∀ r l, traceReady s = true → s.trc.buf = r :: l →
      (traceFull s.trc = false → exec .traceWrite s =
        .next (let t := tracePut s (if s.trc.lost then r ||| BitVec.twoPow 128 62 else r)
          traceNotify { t with trc := { t.trc with buf := l, lost := false, written := t.trc.written + 1, wrIdx := t.trc.wrIdx + 1 } })) ∧
      (traceFull s.trc = true → exec .traceWrite s =
        .next { s with trc := { s.trc with buf := l, drop := s.trc.drop + 1, dropped := true, lost := true } })) ∧
    (∀ y, let s1 := tickDue { s with dev.yard := max s.dev.yard y }
      (s1.trc.en = true → s1.trc.epoch ≠ BitVec.ofNat 16 (s1.dev.yard / 2 ^ 48) → exec (.traceEpoch y) s = .next (traceEpochRecord s1)) ∧
      (s1.trc.en = false → exec (.traceEpoch y) s = .next s1)) ∧
    (∀ v : BitVec 32, served s = true →
      (s.trc.wrap = true ∨ (s.trc.wrIdx - v).toNat ≤ s.trc.size → exec (.trcRdidx v) s = .next (traceNotify { s with trc.rdIdx := v })) ∧
      (s.trc.wrap = false → s.trc.size < (s.trc.wrIdx - v).toNat → exec (.trcRdidx v) s = .next s))

/-- O30. Lines and stream packets. A line start on a STREAMING link is stamped by its group, its takers are chosen, and the line waits for its bytes; on a link whose group is stopping it ends the line in progress (log entry 85: the model's choice). A stream packet that comes in order while its group takes bytes enters the ingest FIFO before those of later tags, and a line's reception ends once its last packet and every one before it have come; one out of the order of tags, as one more than 16 tags ahead of the first tag not received, is a packet error and its line ends with trailer bit 3 (log entry 103 holds the tags' arithmetic and the first packet of a run). A line that waits for an adapter whose edge paddock is not LIVE with its WRITE stage released is discarded there with CXP_ERR.PDK; at an open adapter its tokens enter the lanes until the last is caught, and what does not fit waits; and to the pixel store as a record once its memory can be written. -/
def Obligations.LinesAndPackets : Prop :=
  ∀ (s : State) (n : Fin 128),
    let m := masterOf s n
    (∀ t, s.cxp.links[n].state = .streaming →
      let s1 := s.modLinks (groupLinks s m) fun l => { l with lastStart := t, skip := false }
      let a := stampLine s1 m t
      let b := lineTakers a.1 m a.2
      exec (.lineStart n t) s = .next (settleGroup (b.1.modGroup m fun g =>
        { g with starts := g.starts ++ [{ b.2 with link := n.val }], startLink := if g.taking then g.startLink else n.val,
                 taking := true, rx := g.rx + 1, stopping := false }) m)) ∧
    (∀ t, s.cxp.links[n].state ≠ .streaming → s.cxp.groups[m].stopping = true → exec (.lineStart n t) s = .next (cutLines s m 1)) ∧
    (∀ tag bytes crcOk last, s.cxp.groups[m].taking = true →
      (s.cxp.links[n].state = .streaming ∨ (s.cxp.links[n].state = .up ∧ s.cxp.groups[m].stopping = true)) →
      let s1 := if crcOk then s else packetError s n
      (outOfOrder s1 m n tag = false →
        let s2 := s1.modGroup m fun g => arriveTag g n tag
        let s3 := ingest s2 n { tag := s2.cxp.groups[m].rxRef, bytes := bytes, crcOk := crcOk, last := last, run := s2.cxp.groups[m].run }
        exec (.streamPacket n tag bytes crcOk last) s = .next (settleGroup (s3.modGroup m fun g => arriveLast g last) m)) ∧
      (outOfOrder s1 m n tag = true →
        exec (.streamPacket n tag bytes crcOk last) s = .next (cutLatest (packetError s n) m 8))) ∧
    (let drop := fun (t : State) => settleGroup (t.modGroup m fun g => { g with toAdapt := g.toAdapt.filter (· != n.val) }) m
     (s.cxp.groups[m].line = none ∨ n.val ∉ s.cxp.groups[m].toAdapt → exec (.adapterLine n) s = .next s) ∧
     (∀ l, s.cxp.groups[m].line = some l → n.val ∈ s.cxp.groups[m].toAdapt →
      let put := (List.finRange 4).foldl (fun s i => lanePut s m n l i) s
      let one := fun (t : State) => adapterMove s n = some t ∧ (adapterMove t n = none → exec (.adapterLine n) s = .next t)
      (adapterOpen s n = false → one (drop (linkErr s n cxPdk))) ∧
      (adapterOpen s n = true → l.done = true → adapterCaught put m n l = true → one (drop put)) ∧
      (adapterOpen s n = true → (l.done = false ∨ adapterCaught put m n l = false) →
        (adapterSent put n ≠ adapterSent s n → one (settleGroup put m)) ∧
        (adapterSent put n = adapterSent s n → exec (.adapterLine n) s = .next s)))) ∧
    (∀ l t, s.cxp.groups[n].line = some l → l.done = true → s.cxp.groups[n].toStore = true → storePut s n l = some t →
      exec (.pixelStoreRecord n) s = .next (settleGroup (t.modGroup n fun g => { g with toStore := false }) n))

/-- O31. Acknowledgments, control accesses, events and heartbeats of a link. An I/O acknowledgment removes the oldest trigger packet that waits for one; after 10 us without it the packet goes and CXP_ERR.ACK_MISS sets. A good acknowledgment with the tag of the control packet outstanding on a master link, none of whose links is at discovery, completes the access with its last packet (the data of a read delivered) and sends the next packet before; one with an error code c ends it with CHECK_FAILED, DETAIL 0x0100 + c; a corrupt or missing one ends a write with CHECK_FAILED 0x0200, and repeats a read until the third in a row ends it with TIMEOUT 0x0201. An acknowledgment with another tag, or with no access outstanding, changes nothing; at discovery a good one gives the bootstrap registers. A wait acknowledgment restarts the access's limit; at its limit the access completes with TIMEOUT, DETAIL 0x0202. An event packet on a connected link sets CXP_ERR.EVENT, is counted and is discarded. A connected master link sends a heartbeat with yard time. The split of an access into packets of at most 128 bytes is log entry 42 (PRESUMED), and that a read ends at its third bad acknowledgment in a row is log entry 87: the model's choices. -/
def Obligations.LinkControl : Prop :=
  ∀ (s : State) (n : Fin 128),
    exec (.ioAcknowledgment n) s = .next (s.modLink n fun l => { l with ackWait := l.ackWait.drop 1 }) ∧
    (s.cxp.links[n].ackWait ≠ [] →
      exec (.ackMiss n) s = .next (linkErr (s.modLink n fun l => { l with ackWait := l.ackWait.drop 1 }) n cxAckMiss)) ∧
    (s.cxp.links[n].ackWait = [] → exec (.ackMiss n) s = .next s) ∧
    (∀ c r, s.cxp.groups[n].ctrl = c :: r →
      (s.cxp.links[n].wait = .none →
        let len := min 128 (c.len - c.sent)
        (∀ code data,
          (c.write = true → exec (.controlAcknowledgment n c.tag false code data) s =
            .next (finishJob (ctrlPop s n) c.job .check 0x0200 [])) ∧
          (c.write = false → 2 ≤ c.fails → exec (.controlAcknowledgment n c.tag false code data) s =
            .next (finishJob (ctrlPop s n) c.job .timeout 0x0201 [])) ∧
          (c.write = false → c.fails < 2 → exec (.controlAcknowledgment n c.tag false code data) s =
            .next (ctrlSend (setCtrl s n { c with fails := c.fails + 1 }) n)) ∧
          (code ≠ 0 → exec (.controlAcknowledgment n c.tag true code data) s =
            .next (finishJob (ctrlPop s n) c.job .check (0x0100 + code) [])) ∧
          (∀ tag ok, tag ≠ c.tag → exec (.controlAcknowledgment n tag ok code data) s = .next s)) ∧
        (∀ data,
          (c.sent + len < c.len → exec (.controlAcknowledgment n c.tag true 0 data) s = .next (ctrlSend (setCtrl s n
            { c with sent := c.sent + len, fails := 0, data := if c.write then c.data else c.data ++ padTo len data }) n)) ∧
          (c.len ≤ c.sent + len → c.write = true →
            exec (.controlAcknowledgment n c.tag true 0 data) s = .next (finishJob (ctrlPop s n) c.job .done 0 [])) ∧
          (c.len ≤ c.sent + len → c.write = false → exec (.controlAcknowledgment n c.tag true 0 data) s =
            .next (finishOut (ctrlPop s n) c.job 0 (c.data ++ padTo len data))))) ∧
      (∀ ms, ms ≠ 0 → exec (.waitAcknowledgment n ms) s = .next (setCtrl s n { c with waits := c.waits + 1 })) ∧
      exec (.waitAcknowledgment n 0) s = .next s ∧
      exec (.controlTimeout n) s = .next (finishJob (ctrlPop s n) c.job .timeout 0x0202 [])) ∧
    (s.cxp.groups[n].ctrl = [] →
      (∀ tag ok code data, s.cxp.links[n].wait = .none → exec (.controlAcknowledgment n tag ok code data) s = .next s) ∧
      (∀ ms, exec (.waitAcknowledgment n ms) s = .next s) ∧ exec (.controlTimeout n) s = .next s) ∧
    (∀ j tag data, s.cxp.links[n].wait = .bootstrap j →
      exec (.controlAcknowledgment n tag true 0 data) s = .next (bootstrapped s n j data) ∧
      ∀ ok code, (ok = false ∨ code ≠ 0) → exec (.controlAcknowledgment n tag ok code data) s = .next s) ∧
    (linkUp s.cxp.links[n] = true → exec (.eventPacket n) s =
      .next ((linkErr s n cxEvent).modLink n fun l => { l with cntEvent := l.cntEvent + 1 })) ∧
    (linkUp s.cxp.links[n] = false → exec (.eventPacket n) s = .next s ∧ exec (.heartbeat n) s = .next s) ∧
    (isMaster s n = true → linkUp s.cxp.links[n] = true →
      exec (.heartbeat n) s = .next (s.emit (.heartbeat n.val s.dev.yard)))

/-- O32. Discovery, rate changes and loss of a link. After the power wait a link of a discovery begins to lock at CXP-1. Symbol lock in a discovery leads to the read of the bootstrap registers, and after a rate change to UP, and a group all of whose links a rediscovery has brought back goes on as R255 says. A discovery that times out puts the link OFF, or LOST in a rediscovery; a rate change that times out, in a CXP_SET_LINK or in a rediscovery, puts it LOST. A connected link that is lost stops its group, keeps its rate as the rate to restore, goes to LOST with CXP_ERR.LOST and raises the CoaXPress event; a low level on the sense pin of a powered link that is not FAILED withdraws the power and puts the link in POWER_FAULT with CXP_ERR.PWR, stopping the group of a connected link and ending the wait of its command, and without that level nothing happens. A retry begins discovery again on the links of a group with a LOST link whose AUTO is set. The register write that turns a link off acts while registers are served. The bootstrap registers are read as 8 bytes at 0x4000 (log entry 87, PRESUMED). -/
def Obligations.LinkStates : Prop :=
  ∀ (s : State) (n : Fin 128) (j : Nat),
    (s.cxp.links[n].wait = .power j → exec (.pocxpPowerWait n) s = .next (beginLock s n j)) ∧
    (s.cxp.links[n].state = .discovering →
      (s.cxp.links[n].wait = .lock j → exec (.symbolLock n) s =
        .next (((drawEq s n).modLink n fun l => { l with wait := .bootstrap j }).emit (.ctrlPacket n.val false 0x4000 8 [] 0))) ∧
      (∀ c, s.cxp.links[n].wait = .rate j c → j ≠ 0 → exec (.symbolLock n) s =
        .next (linkJobDone ((drawEq s n).modLink n fun l => { l with state := .up, wait := .none }) j)) ∧
      (∀ c, s.cxp.links[n].wait = .rate 0 c → let t := (drawEq s n).modLink n fun l => { l with state := .up, wait := .none }
        exec (.symbolLock n) s = .next (groupBack t (masterOf t n)))) ∧
    (s.cxp.links[n].wait = .lock j →
      (j = 0 → exec (.discoveryTimeout n) s =
        .next (s.modLink n fun l => { l with state := .lost, wait := .none, rate := 0, eq := 0 })) ∧
      (j ≠ 0 → exec (.discoveryTimeout n) s = .next (linkJobDone (linkOff s n) j))) ∧
    (∀ c, s.cxp.links[n].wait = .rate j c →
      let t := s.modLink n fun l => { l with state := .lost, wait := .none, rate := 0, eq := 0 }
      exec (.setLinkLockTimeout n) s = .next (if j = 0 then t else linkJobDone t j)) ∧
    (linkUp s.cxp.links[n] = true → exec (.linkLoss n) s =
      .next (raiseEvent ((linkErr (groupLost s (masterOf s n)) n cxLost).modLink n fun l =>
        { l with state := .lost, prevRate := l.rate, rate := 0, eq := 0, ackWait := [] }) 4)) ∧
    (s.cxp.links[n].pocxp = true → hasPocxp s n = true → senseLow s n = true → s.cxp.links[n].state ≠ .failed →
      let s1 := if linkUp s.cxp.links[n] then groupLost s (masterOf s n) else s
      let s2 := (linkErr (setPocxp s1 n false) n cxPwr).modLink n fun l =>
        { l with state := .powerFault, wait := .none, rate := 0, eq := 0, ackWait := [] }
      (s.cxp.links[n].wait = .none → exec (.pocxpSenseFault n) s = .next s2) ∧
      (∀ i, waitJob s.cxp.links[n].wait = some i →
        exec (.pocxpSenseFault n) s = .next (if i = 0 then s2 else linkJobDone s2 i))) ∧
    (senseLow s n = false → exec (.pocxpSenseFault n) s = .next s) ∧
    (∀ x ∈ groupLinks s (masterOf s n), s.cxp.links[x].state = .lost → s.cxp.links[x].auto = true →
      exec (.rediscoveryRetry n) s = .next ((groupLinks s (masterOf s n)).foldl beginAgain s)) ∧
    (∀ v : BitVec 32, served s = true → exec (.linkOff n v) s = .next (linkCtlWrite s n v))

/-- O33. Edges, instants and pulses. At an encoder whose pins carry it, every instant that lies before an edge has fired before the edge is taken, and after instants, edges and index edges the cooling entries that the new tick values reach are due (tickDue). A level that did not stand for the filter time counts as a glitch and is no edge, on A, B and Z alike; one that did is decoded where the engine has not seen that level yet. A rise of Z that is new in a state in which the trigger engine runs, with A and B low and ZMODE 1, latches the position word. At a pin in its switch interval nothing is taken. PMAX without an edge empties the velocity estimator. The instants of the earliest time scheduled fire together while the trigger engine runs. The end of a pulse on a TRIG output makes it inactive. Instants that lie before an edge fire first, those of one cycle of the scheduler together (log entry 76), and COUNT and INDEX carry a transition of the pin and how long its new level holds (log entries 77 and 79): the model's choices. -/
def Obligations.TriggerSteps : Prop :=
  ∀ (s : State) (e : Fin 8),
    (∀ (onB : Bool) (t held : Nat),
      (encPinOpen s e (if onB then 1 else 0) = true →
        exec (.count e onB ⟨t, held⟩) s = .next (tickDue (encoderInput (fireBefore s t) e onB t held))) ∧
      (encPinOpen s e (if onB then 1 else 0) = false → exec (.count e onB ⟨t, held⟩) s = .next s) ∧
      (let s1 := s.modEnc e fun x => if onB then { x with pinB := !x.pinB } else { x with pinA := !x.pinA }
       let seen := if onB then (s.trig.enc[e]).pinB = !(s.trig.enc[e]).b else (s.trig.enc[e]).pinA = !(s.trig.enc[e]).a
       (held < (s.trig.enc[e]).par.filt * 160 → encoderInput s e onB t held =
         (encErr s1 e 29).modEnc e fun x => { x with glitch := satAdd x.glitch 1 }) ∧
       ((s.trig.enc[e]).par.filt * 160 ≤ held → seen → encoderInput s e onB t held = s1) ∧
       ((s.trig.enc[e]).par.filt * 160 ≤ held → ¬seen → encoderInput s e onB t held = encoderEdge s1 e onB t))) ∧
    (∀ t held, let s1 := fireBefore s t
      (encPinOpen s e 2 = true → exec (.index e ⟨t, held⟩) s = .next (tickDue (indexInput s1 e held))) ∧
      (encPinOpen s e 2 = false → exec (.index e ⟨t, held⟩) s = .next s)) ∧
    (∀ held, let x := s.trig.enc[e]
      let s1 := s.modEnc e fun x => { x with pinZ := !x.pinZ }
      let s2 := s1.modEnc e fun y => { y with z := !x.pinZ }
      (held < x.par.filt * 160 → indexInput s e held = (encErr s1 e 29).modEnc e fun x => { x with glitch := satAdd x.glitch 1 }) ∧
      (x.par.filt * 160 ≤ held → x.z = !x.pinZ → indexInput s e held = s1) ∧
      (x.par.filt * 160 ≤ held → x.z = x.pinZ → indexInput s e held = if x.pinZ then s2 else indexEdge s2 e)) ∧
    (trigRuns s = true → (s.trig.enc[e]).failed = false → (s.trig.enc[e]).par.mode ∈ [1, 2, 3] →
      (s.trig.enc[e]).par.zmode = 1 → (s.trig.enc[e]).a = false → (s.trig.enc[e]).b = false →
      indexEdge s e = s.modEnc e fun x => { x with zpos := x.pos, zseen := true, indexed := true }) ∧
    exec (.pmaxExpiry e) s = .next (s.modEnc e fun x => { x with stamps := [] }) ∧
    (∀ g x, trigRuns s = true → nextInstant s (fun _ => true) = some (g, x) →
      exec .instantFire s = .next (tickDue (fireAll s fun i => i.t == x.t))) ∧
    (∀ o : Fin 256, o.val < 160 → s.trig.out[o].active = true →
      exec (.pulseEnd o) s = .next ((s.modTrigOut o fun x => { x with active := false }).emitPad (.pulseEnd o.val)))

/-- O34. A count moves the position word by one count. A quadrature edge in mode 3 (x4) whose level stands for the filter time, new to the decoder, not within 20 ns of an edge of the other phase and not closer than the limit to the last counted edge, moves the position word by exactly 1,024 in the direction of the Gray sequence of the levels, negated with INV, and in no other way. -/
def Obligations.CountMovesPosition : Prop :=
  ∀ (s : State) (e : Fin 8) (onB : Bool) (t held : Nat),
    let x := s.trig.enc[e]
    trigRuns s = true → x.failed = false → x.par.mode = 3 → encPinOpen s e (if onB then 1 else 0) = true →
    x.par.filt * 160 ≤ held → (if onB then x.pinB = x.b else x.pinA = x.a) →
    (∀ l, (if onB then x.lastA else x.lastB) = some l → l + stampNs 20 ≤ t) →
    (∀ l, x.lastCnt = some l → l + stampNs (countLimit x.par) ≤ t) →
    let a := if onB then x.a else !x.a
    let b := if onB then !x.b else x.b
    let fwd := (gray x.a x.b + 1) % 4 = gray a b
    ∀ u, exec (.count e onB ⟨t, held⟩) s = .next u →
      ((u.trig.enc[e]).pos = if (fwd ∧ x.par.inv = false) ∨ (¬fwd ∧ x.par.inv = true) then x.pos + 1024 else x.pos - 1024)

/-- O35. The PPS input. With the stamping of PPS edges enabled on a pin of that function, an edge stamps yard time and clears LOST; one 999 to 1,001 ms after the edge before, or the first, disciplines yard time as R424 says. After 1.5 s without an edge LOST sets. That an edge which R424 ignores still becomes the edge before the next one and clears LOST is log entry 97, the model's choice. -/
def Obligations.PpsSteps : Prop :=
  ∀ (s : State) (t : Nat), ppsOn s = true →
    let s1 := { s with pps.last := some t, pps.lost := false }
    (ppsSpaced s t = true → exec (.ppsEdge t) s = .next (ppsTake s1 t)) ∧
    (ppsSpaced s t = false → exec (.ppsEdge t) s = .next s1) ∧
    (∀ l, s.pps.last = some l → l + 1500000000 ≤ s.dev.yard → exec .ppsLost s = .next { s with pps.lost := true })

/-- O36. The steps of a DDR5 channel. An ACTIVE channel serves the oldest request of the lowest class that waits: one that its requester may not make is counted and recorded as denied, and a host's read of it answers all ones; a permitted write stores its bytes, and a permitted host read answers the bytes with a mark where a block could not be corrected. The request of a MEM_READ or MEM_WRITE that waits (log entries 90 and 107) carries that command out when it is the last one of it, or joins the queues of the channels that do not serve. A channel that is not ACTIVE, or that no request waits for, does nothing. A request of a class above 2 that ages moves to class 2 and is counted. An ACTIVE channel with the scrub enabled scrubs its next block once the requests of a class before the scrub's are served. A recalibration step of an ACTIVE channel counts, and a reading of the thermal status stands, with MEM_ERR.THERM where the refresh rate is doubled or more. In DOZE an idle ACTIVE channel enters power-down and counts it. A result region without a free place has its release index read. A recalibration that ends makes the channel ACTIVE and counts; a full training ends in success or failure, each with its job; a failed quick restore becomes a full training, which leaves the contents undefined. -/
def Obligations.MemoryChannels : Prop :=
  ∀ (s : State) (ch : Fin 8),
    let h := s.ddr.chan[ch]
    (∀ r, h.state = .active → h.reqs.find? (fun r => r.cls == lowestClass h.reqs) = some r →
      exec (.memoryAccess ch) s = .next (serveReq (s.modChan ch fun h => { h with reqs := h.reqs.erase r, powerDown := false }) r)) ∧
    (∀ r : MemReq, r.job = none →
      let len := if r.write then r.data.length else r.len
      (∀ x p, firstDenied s r.user r.write r.addr len = some x → r.write = false → r.user = .host p →
        serveReq s r = (recordDeny s r.user x).emit (.apertureData p r.addr (List.replicate r.len 0xFF) false)) ∧
      (∀ x, firstDenied s r.user r.write r.addr len = some x → r.write = true → serveReq s r = recordDeny s r.user x) ∧
      (firstDenied s r.user r.write r.addr len = none → r.write = true → serveReq s r = writePiece s r.addr r.data) ∧
      (∀ p t l bad, firstDenied s r.user r.write r.addr len = none → r.write = false → r.user = .host p →
        readPieces s (blocksOf r.addr r.len) = (t, l, bad) → serveReq s r = t.emit (.apertureData p r.addr l bad))) ∧
    (∀ (r : MemReq) id j c, r.job = some id → jobWaits s id = false → findJob s id = some j → j.kind = .memWait c →
      c.opcode = 0x0601 ∨ c.opcode = 0x0602 →
      (memReady s (par c 0 8) (par c 8 4) = true → serveReq s r =
        let x := memWaited s c
        finishJob x.1 id x.2.1 x.2.2.1 x.2.2.2) ∧
      (memReady s (par c 0 8) (par c 8 4) = false → serveReq s r = placeJob s id (par c 0 8) (par c 8 4) fun n =>
        (vget ({} : Channel) s.ddr.chan n).state != .active)) ∧
    (∀ (r : MemReq) id, r.job = some id → jobWaits s id = true → serveReq s r = s) ∧
    (h.state ≠ .active ∨ h.reqs = [] → exec (.memoryAccess ch) s = .next s) ∧
    (∀ r ∈ h.reqs, 2 < r.cls →
      exec (.requestAging ch) s = .next (s.modChan ch fun h => { h with reqs := ageFirst h.reqs, cntAged := h.cntAged + 1 })) ∧
    (h.state = .active →
      (h.scrubEn = true → exec (.scrubBlock ch) s = .next (scrubBlock s ch)) ∧
      exec (.recalibration ch none) s = .next (s.modChan ch fun h => { h with cntRecal := h.cntRecal + 1 }) ∧
      (∀ r : Fin 3, exec (.recalibration ch (some r)) s = .next (s.modChan ch fun h =>
        { h with cntRecal := h.cntRecal + 1, therm := BitVec.ofNat 2 r.val, err := if r.val = 0 then h.err else h.err ||| BitVec.twoPow 32 27 })) ∧
      (s.dev.state = .doze → h.powerDown = false → h.reqs = [] →
        exec (.powerDown ch) s = .next (s.modChan ch fun h => { h with powerDown := true, cntPd := h.cntPd + 1 }))) ∧
    (∀ (k : Fin 64) r, regionOf s .result k.val = some r → resultFree s r = false →
      exec (.releaseIndexRead k) s = .next (readRelease s k.val)) ∧
    (∀ ok, h.state = .recal → exec (.trainingComplete ch ok) s =
      .next (trainJobDone (s.modChan ch fun h => { h with state := .active, training := none, cntRecal := h.cntRecal + 1 }) h.training)) ∧
    (h.state = .training →
      exec (.trainingComplete ch true) s = .next (trainJobDone (trainOk s ch) h.training) ∧
      (h.quick = true → exec (.trainingComplete ch false) s = .next ((wipeChannel s ch).modChan ch fun h => { h with quick := false })) ∧
      (h.quick = false → exec (.trainingComplete ch false) s = .next (trainJobDone (trainFail s ch) h.training)))

/-- O37. Musters: requests, pins, cuts and the acknowledgment. A pending request issues a strobe in a state that takes musters while the logic is not busy. A muster input that has been high for 20 ns requests a muster once for its rise, and a token of a fabric request port requests one and is counted, the last two where their source is enabled. A cut ends complete when every held paddock is quiescent, and incomplete at its timeout while one is not. A write of MUS_ACK acknowledges as its value says while registers may be written. -/
def Obligations.MusterSteps : Prop :=
  ∀ (s : State),
    (s.mus.pend ≠ 0 → s.mus.busy = false → musterState s.dev.state = true → exec .musterRequest s = .next (strobe s)) ∧
    (∀ (n : Fin 96) t, (s.pins.gpio[n]).highAt = some t → (s.pins.gpio[n]).actFunc = 7 → (s.pins.gpio[n]).actRole = 0 →
      (s.pins.gpio[n]).pad = true → (s.pins.gpio[n]).switching = false → t + 20 ≤ s.dev.yard →
      let s1 := s.modGpio n fun p => { p with highAt := none }
      exec (.musterPin n) s = .next (musterRequest
        (if sourceOn s1 1 then { s1 with mus.cntPin := s1.mus.cntPin + 1 } else s1) 1)) ∧
    (∀ d : Fin 2, s.pins.musPend[d] ≠ 0 → exec (.fabricMusterRequest d) s =
      let s1 := { s with pins.musPend := vmod s.pins.musPend d (· - 1) }
      .next (musterRequest (if sourceOn s 5 then { s1 with mus.cntFreq := s1.mus.cntFreq + 1 } else s1) 5)) ∧
    (s.mus.hold = true →
      ((∀ k ∈ heldPdks s, quiet s k.val = true) → exec .cutLatch s = .next (endCut s false)) ∧
      (∀ k ∈ heldPdks s, quiet s k.val = false → exec .cutTimeout s = .next (endCut s true))) ∧
    (∀ v : BitVec 32, regsOpen s = true → exec (.musAck v) s = .next (musAckWrite s v))

/-- O38. Pins and the USER tree pulse. A change of the level at a pad that is switching only changes the pad; a muster input's rise in a state that serves notes when it rose, a fall at a PoCXP sense pin is the sense fault of its link, and at any other pin the change gives the edge tokens of the pins that watch it. A write of a GPIO_PIN register acts while registers are served. At the end of a switch interval the new function and role take the pad, with the edges and moves that the new level gives. A PULSE write of a tree register acts while registers are served as the write with PULSE set. -/
def Obligations.PinSteps : Prop :=
  ∀ (s : State) (n : Fin 96),
    (∀ level, (s.pins.gpio[n]).pad ≠ level →
      let s1 := s.modGpio n fun p => { p with pad := level }
      ((s.pins.gpio[n]).switching = true → exec (.pinEdge n level) s = .next s1) ∧
      ((s.pins.gpio[n]).switching = false → served s = true → (s.pins.gpio[n]).actFunc = 7 → (s.pins.gpio[n]).actRole = 0 →
        exec (.pinEdge n level) s = .next (s1.modGpio n fun p => { p with highAt := if level then some s.dev.yard else none })) ∧
      ((s.pins.gpio[n]).switching = false → served s = true → (s.pins.gpio[n]).actFunc = 8 → (s.pins.gpio[n]).actRole = 1 →
        level = false → exec (.pinEdge n level) s = .next (senseFault s1 (Fin.ofNat 128 (s.pins.gpio[n]).sel.toNat))) ∧
      ((s.pins.gpio[n]).switching = false → served s = true → ((s.pins.gpio[n]).actFunc ≠ 7 ∨ (s.pins.gpio[n]).actRole ≠ 0) →
        ((s.pins.gpio[n]).actFunc ≠ 8 ∨ (s.pins.gpio[n]).actRole ≠ 1 ∨ level = true) →
        exec (.pinEdge n level) s = .next (padEdges s s1))) ∧
    (∀ v : BitVec 32, served s = true → exec (.gpioFuncWrite n v) s = .next (gpioWrite s n v)) ∧
    ((s.pins.gpio[n]).switching = true →
      let t := takePad (s.modGpio n fun p => { p with actFunc := p.func, actRole := p.role, switching := false, cmd := none, highAt := none }) n
      exec (.switchIntervalEnd n) s = .next (pinChanged s t n)) ∧
    (∀ (k : Fin 3) (v : BitVec 32), served s = true → exec (.pulse k v) s = .next (treeWrite s k (v ||| 0x80000000)))

/-- O39. Serial cells and crossings that time out. A byte on a serving UART RX pin enters its buffer; one with a framing error is dropped and counted, and one that finds 16 bytes waiting sets the overrun bit. A serving UART TX pin sends the token of its lane, which is then acknowledged. A serving I2C cell takes a start or write command to await its byte, runs a stop or a read at once, and gives a byte that is awaited to the target. A serving SPI cell shifts one token out while one byte is shifted in. A crossing that times out poisons the token that stands on its lane, or presents one for an entry that waits, towards the fabric, and discards its token, or an event it holds, towards a clocked unit, counted each time; one with nothing in it changes nothing. Which transfer a timeout ends, and the serial cells' order of steps, are log entries 75 and 73, the model's choices. -/
def Obligations.SerialCells : Prop :=
  ∀ (s : State) (n : Fin 96),
    (∀ v, serves s n 4 1 = true →
      exec (.uartReceive n v false) s = .next { s with pins.serErr := satAdd s.pins.serErr 1 } ∧
      (16 ≤ (s.pins.gpio[n]).buf.length → exec (.uartReceive n v true) s = .next (s.modGpio n fun p => { p with ovr := true })) ∧
      ((s.pins.gpio[n]).buf.length < 16 → exec (.uartReceive n v true) s = .next (pinByte s n v))) ∧
    (∀ t, serves s n 4 0 = true → outToken s n = some t →
      exec (.uartTransmit n) s = .next (take (s.emitPad (.uart n.val (BitVec.ofNat 8 t))) (.pin n.val))) ∧
    (∀ t ack v g, serves s n 5 1 = true → cellPin s 5 0 (s.pins.gpio[n]).inst = some g → (s.pins.gpio[n]).buf = [] →
      outToken s n = some t →
      (∀ c, (s.pins.gpio[n]).cmd = some c → exec (.i2cCommand n ack v) s = .next (take (i2cByte
        (s.modGpio n fun p => { p with cmd := none }) n c.toNat (BitVec.ofNat 8 t) (if ack then 0 else 1)) (.pin n.val))) ∧
      ((s.pins.gpio[n]).cmd = none → t % 4 < 2 →
        exec (.i2cCommand n ack v) s = .next (take (s.modGpio n fun p => { p with cmd := some (BitVec.ofNat 8 t) }) (.pin n.val))) ∧
      ((s.pins.gpio[n]).cmd = none → 2 ≤ t % 4 →
        exec (.i2cCommand n ack v) s = .next (take (i2cByte s n t v v) (.pin n.val)))) ∧
    (∀ t v g m, serves s n 6 1 = true → cellPin s 6 0 (s.pins.gpio[n]).inst = some g → outToken s n = some t →
      cellPin s 6 2 (s.pins.gpio[n]).inst = some m → (s.pins.gpio[m]).buf = [] →
      exec (.spiTransfer n v) s = .next (take (pinByte (s.emitPad (.spi n.val (BitVec.ofNat 8 t))) m v) (.pin n.val))) ∧
    (served s = true →
      (∀ (l : Fin 128) (j : Fin 4), exec (.crossingTimeout (.adapter l j)) s = .next (poisonLane s (.adapter l.val j.val) (!s.cxp.links[l].lanes[j].isEmpty)
        fun s => s.modLink l fun h => { h with lanes := vmod h.lanes j fun q => q.drop 1 })) ∧
      (∀ (o : Fin 512) (j : Fin 8), exec (.crossingTimeout (.del o j)) s = .next (poisonLane s (.del o.val j.val) (!s.sch.ports[o].del[j].isEmpty)
        fun s => s.modOpPort o fun h => { h with del := vmod h.del j fun q => q.drop 1 })) ∧
      (∀ (o : Fin 512) (j : Fin 9), exec (.crossingTimeout (.op o j)) s = .next (discardToken s (.op o.val j.val))) ∧
      (let p := s.pins.gpio[n]
       ((s.chan (srcKey (.pin n.val))).rails ≠ 0 → exec (.crossingTimeout (.pinIn n)) s =
         .next (settle (spoilToken (countTimeout s) (.pin n.val)) [.shown (.pin n.val)])) ∧
       ((s.chan (srcKey (.pin n.val))).rails = 0 → p.pend = [] → p.resync = false → p.buf = [] →
         exec (.crossingTimeout (.pinIn n)) s = .next s) ∧
       (idleSrc s (.pin n.val) = true → (p.pend ≠ [] → exec (.crossingTimeout (.pinIn n)) s = .next (settle (present
         ((countTimeout s).modGpio n fun p => { p with pend := p.pend.drop 1 }) (.pin n.val) poison) [.shown (.pin n.val)])))) ∧
      (exec (.crossingTimeout (.pinOut n)) s = .next (discardToken s (.pin n.val))) ∧
      (∀ m : Fin 8,
        (s.pins.tickPend[m] = 0 → exec (.crossingTimeout (.tick m)) s = .next (discardToken s (.tick m.val))) ∧
        (s.pins.tickPend[m] ≠ 0 → exec (.crossingTimeout (.tick m)) s =
          let t := countTimeout s
          .next { t with pins := { t.pins with tickPend := vmod t.pins.tickPend m (· - 1) } })) ∧
      (∀ d : Fin 2,
        (s.pins.musPend[d] = 0 → exec (.crossingTimeout (.muster d)) s = .next (discardToken s (.muster d.val))) ∧
        (s.pins.musPend[d] ≠ 0 → exec (.crossingTimeout (.muster d)) s =
          let t := countTimeout s
          .next { t with pins := { t.pins with musPend := vmod t.pins.musPend d (· - 1) } })))

/-- O40. Loops that lose lock and the JTAG port. A clock loop that loses lock in a state that serves is marked and dealt with as its kind says. In every state from STARTING on, a JTAG instruction selects its register and shifts it out: the boundary register (the 417 cells, loaded with the cells shifted in) for the boundary instructions, whose EXTEST kinds drive the output cells, the identity with its first bit 1 for IDCODE, and the one bit of BYPASS for the others, of which CLAMP drives the output cells and HIGHZ none; an internal-scan instruction acts as BYPASS unless SCAN_ENABLE has opened the scan; and with the scan open the model stops, since the manual gives its effect no meaning (the refusal internalScan). The cells of the boundary register and their order, the bits of IDCODE and the one-bit register under CLAMP and HIGHZ are log entry 95, the model's choices. -/
def Obligations.LoopsAndJtag : Prop :=
  ∀ (s : State),
    (∀ n : Fin 16, served s = true → s.pins.lock.getLsbD n.val = true →
      let l := s.pins.lock &&& ~~~(BitVec.twoPow 16 n.val)
      let m := s.pins.lost ||| BitVec.twoPow 16 n.val
      exec (.loopLockLost n) s = .next (loopLost { s with pins.lock := l, pins.lost := m } n.val)) ∧
    (s.dev.state ≠ .off → s.dev.heldInReset = false →
      (∀ i cells, let t := State.emit { s with sec.jtag := i, sec.cells := cells.take 417, free := s.free + 256 } (.jtag i (boundaryLevels s))
        (i = .sample ∨ i = .preload → exec (.jtagInstruction ⟨i, cells⟩) s = .next t) ∧
        (i = .extest ∨ i = .extestPulse ∨ i = .extestTrain →
          exec (.jtagInstruction ⟨i, cells⟩) s = .next (t.emit (.jtagPads i (boundaryDrives t))))) ∧
      (∀ cells, exec (.jtagInstruction ⟨.idcode, cells⟩) s = .next ({ s with sec.jtag := .idcode }.emit
        (.jtag .idcode (true :: (List.range 31).map fun b => Config.idcode.getLsbD b)))) ∧
      (∀ i cells, let t := State.emit { s with sec.jtag := i } (.jtag i [false])
        (i = .bypass → exec (.jtagInstruction ⟨i, cells⟩) s = .next t) ∧
        (i = .clamp ∨ i = .highz → exec (.jtagInstruction ⟨i, cells⟩) s = .next (t.emit (.jtagPads i (boundaryDrives t))))) ∧
      (∀ c cells, s.sec.scan = false →
        exec (.jtagInstruction ⟨.internal c, cells⟩) s = .next ({ s with sec.jtag := .bypass }.emit (.jtag .bypass [false]))) ∧
      (∀ c cells, s.sec.scan = true → exec (.jtagInstruction ⟨.internal c, cells⟩) s = .refused (.internalScan c)))

/-- O41. Rings: fetch, replies, moderation and enable. A command whose slots lie below the tail of an open submission ring that is next in turn is fetched: the fetch index passes its slots and the command arrives. The first reply that waits is written once its slots are free. At the end of a moderation time one message goes for the updates made during it. The port's own writes of HP_RCFG while registers are served enable or disable the selected ring; a ring that is being enabled becomes ACTIVE, once no write of the port waits for bus mastering (log entry 68). -/
def Obligations.RingSteps : Prop :=
  ∀ (s : State) (p : Fin 2),
    (∀ (n : Fin 4) whole slots buf, mayFetch s p n whole (cmdSlots slots) = true →
      exec (.commandFetch p n whole slots buf) s =
        .next (arrive (readCmd (.ring p n) slots buf) (advanceFetch s p n (cmdSlots slots)))) ∧
    (∀ (n : Fin 4) w rest, (s.ring p (rqOf n)).waiting = w :: rest → replyFits (s.ring p (rqOf n)) w.bytes.length = true →
      exec (.replyWrite p n) s = .next (writeReply (s.modRing p (rqOf n) fun r => { r with waiting := rest }) p n w.bytes)) ∧
    (∀ r : Fin 24, (s.ring p r).imodOn = true →
      let t := s.modRing p r fun h => { h with imodOn := false, imodPend := false }
      ((s.ring p r).imodPend = true → exec (.imodExpiry p r) s = .next (ringMessage t p r)) ∧
      ((s.ring p r).imodPend = false → exec (.imodExpiry p r) s = .next t)) ∧
    (∀ v : BitVec 32, reaches s p = true → holdsWrites s = false → served s = true →
      exec (.ringEnable p p v) s = .next (rcfgWrite s p (v ||| 0x80000000)) ∧
      exec (.ringDisable p p v) s = .next (rcfgWrite s p (v &&& 0x7FFFFFFF))) ∧
    (∀ r : Fin 24, (s.ring p r).state = .enabling →
      (s.hosts.port[p].dmaHeld = [] → exec (.ringActive p r) s = .next (s.modRing p r fun r => { r with state := .active })) ∧
      (s.hosts.port[p].dmaHeld ≠ [] → exec (.ringActive p r) s = .next s))

/-- O42. Host index writes take effect only forward within the ring. With the port's link up, its memory space enabled and registers served, a write of HP_SQ_TAILn by its own port is accepted exactly when (new - F) mod 2^32 is at most N, and one of HP_RQ_HEADn or HP_RR_RELr exactly when (new - old) mod 2^32 is at most (W - old) mod 2^32; any other write leaves the register unchanged and sets HP_ERR.DB, or HP_ERR.REL for a release register. In the control page of a result ring in window placement, bytes 4 to 7 then read the release index. -/
def Obligations.HostIndexWrites : Prop :=
  ∀ (s : State) (p : Fin 2) (v : BitVec 32), reaches s p = true → holdsWrites s = false → served s = true →
    (∀ n : Fin 4,
      ((v - (s.ring p (sqOf n)).dev).toNat ≤ ringN (s.ring p (sqOf n)) →
        exec (.hpSqTail p p n v) s = .next (s.modRing p (sqOf n) fun r => { r with host := v })) ∧
      (ringN (s.ring p (sqOf n)) < (v - (s.ring p (sqOf n)).dev).toNat →
        exec (.hpSqTail p p n v) s = .next (hpErr s p hpDb))) ∧
    (∀ n : Fin 4,
      ((v - (s.ring p (rqOf n)).host).toNat ≤ ((s.ring p (rqOf n)).dev - (s.ring p (rqOf n)).host).toNat →
        exec (.hpRqHead p p n v) s = .next (s.modRing p (rqOf n) fun r => { r with host := v })) ∧
      (((s.ring p (rqOf n)).dev - (s.ring p (rqOf n)).host).toNat < (v - (s.ring p (rqOf n)).host).toNat →
        exec (.hpRqHead p p n v) s = .next (hpErr s p hpDb))) ∧
    (∀ r : Fin 16,
      ((v - (s.ring p (rrOf r)).host).toNat ≤ ((s.ring p (rrOf r)).dev - (s.ring p (rrOf r)).host).toNat →
        ∃ t, exec (.hpRrRel p p r v) s = .next t ∧ (t.ring p (rrOf r)).host = v ∧
          ((s.ring p (rrOf r)).place = true → windowRead t p (r.val * 2 ^ 23 + 4) 4 = leBytes 4 v.toNat)) ∧
      (((s.ring p (rrOf r)).dev - (s.ring p (rrOf r)).host).toNat < (v - (s.ring p (rrOf r)).host).toNat →
        exec (.hpRrRel p p r v) s = .next (hpErr s p hpRel)))

/-- O43. Taking and releasing a semaphore. While registers are served, a read of SEM_s by a port that finds it free returns its word as it stood, clears FREE, makes the port its owner, counts the take and clears LOST; a read that finds it taken, by the owner too, returns its word and changes nothing. A write of 1 to RELEASE by the owner frees it and leaves no owner; by another port it changes only that port's HP_CNT_SEMIGN, which counts up; a write of 0 has no effect. That the word read shows OWNER and FREE as they stood is log entry 94 (DEDUCED). -/
def Obligations.Semaphores : Prop :=
  ∀ (s : State) (p : Fin 2) (n : Fin 64), reaches s p = true → served s = true →
    let x := s.hosts.sem[n]
    (∀ both, (both = true → reaches s (1 - p) = false) →
      (x.free = true → exec (.semTake p both n) s = .next ((readReply s p (semWord x)).modSem n fun x =>
        { x with free := false, owner := some p, takes := x.takes + 1, lost := false })) ∧
      (x.free = false → exec (.semTake p both n) s = .next (readReply s p (semWord x)))) ∧
    (∀ v : BitVec 32,
      (v.getLsbD 30 = true → x.owner = some p →
        exec (.semRelease p n v) s = .next (s.modSem n fun x => { x with free := true, owner := none })) ∧
      (v.getLsbD 30 = true → x.owner ≠ some p →
        exec (.semRelease p n v) s = .next (s.modPort p fun h => { h with cntSemign := h.cntSemign + 1 })) ∧
      (v.getLsbD 30 = false → exec (.semRelease p n v) s = .next s))

/-- O44. Two reads of one semaphore in one cycle. While registers are served, reads of one free semaphore by both ports in the same hub cycle: the port that TIE names is answered first, with FREE 1, and takes it; the other is answered next with FREE 0 and OWNER naming the winner; the semaphore is taken once, and TIE inverts. -/
def Obligations.SemaphoreTie : Prop :=
  ∀ (s : State) (p : Fin 2) (n : Fin 64), reaches s 0 = true → reaches s 1 = true → served s = true →
    (s.hosts.sem[n]).free = true →
    let w : Fin 2 := if (s.hosts.sem[n]).tie then 1 else 0
    ∃ t a b, exec (.semTake p true n) s = .next t ∧
      t.out = s.out ++ [Out.readData w (leBytes 4 a), Out.readData (1 - w) (leBytes 4 b)] ∧
      a.testBit 31 = true ∧ b.testBit 31 = false ∧ b / 2 ^ 26 % 4 = w.val + 1 ∧
      (t.hosts.sem[n]).owner = some w ∧ (t.hosts.sem[n]).free = false ∧
      (t.hosts.sem[n]).takes = (s.hosts.sem[n]).takes + 1 ∧ (t.hosts.sem[n]).tie = !(s.hosts.sem[n]).tie ∧
      ∀ m : Fin 64, m ≠ n → t.hosts.sem[m] = s.hosts.sem[m]

/-- O45. The mailbox, the claim and the grace timer. While registers are served, a port's write of 1 to GO makes its mailbox BUSY and the command in its window arrives; on a BUSY mailbox it only sets HP_ERR.MBX. A write of 1 to CLAIM stops the grace timer. When the grace timer has run out, every semaphore of the port is freed with LOST 1 and its result rings that are not ACTIVE enter DISCARD; freeing at least one sets HP_ERR.SEM_LOST and raises the semaphore-lost event, freeing none neither. -/
def Obligations.MailboxAndGrace : Prop :=
  ∀ (s : State) (p : Fin 2), 
    (∀ v : BitVec 32, reaches s p = true → holdsWrites s = false → served s = true → v.getLsbD 0 = true →
      (∀ buf, s.hosts.port[p].mbxState ≠ 1 → exec (.go p p v buf) s = .next (arrive
        (readCmd (.mailbox p) (readBytes s.hosts.port[p].mbx 0 4096) buf) (s.modPort p fun h => { h with mbxState := 1, mbxAcc := false }))) ∧
      (∀ buf, s.hosts.port[p].mbxState = 1 → exec (.go p p v buf) s = .next (hpErr s p hpMbx)) ∧
      exec (.claim p p v) s = .next (s.modPort p fun h => { h with grace := false, graceEnd := 0 })) ∧
    (s.hosts.port[p].grace = true → s.hosts.port[p].graceEnd ≤ s.dev.yard →
      let freed := s.hosts.sem.toList.any fun x => x.owner == some p
      let s1 := { s with hosts.sem := s.hosts.sem.map fun (x : Sem) => if x.owner = some p then { x with free := true, owner := none, lost := true } else x }
      let s2 := s1.modPort p fun h => { h with grace := false, graceEnd := 0, rings := vmapI h.rings fun i (r : Ring) => if 8 ≤ i ∧ r.state ≠ .active then { r with state := .discard } else r }
      (freed = true → exec (.graceExpiry p) s = .next (raiseEvent (hpErr s2 p hpSemLost) 1)) ∧
      (freed = false → exec (.graceExpiry p) s = .next s2))

/-- O46. Register accesses from a host port. An aligned 32-bit read through BAR0 of a port whose link and memory space are enabled takes the link out of ASPM L1 and reads the register at its address, with the effects of the read; so do the rows of the view captures, the low-word captures and the RC fields. An aligned write outside the other port's block, while registers are served, writes the register. Two accesses of both ports in one cycle are served as the tie of R5 says (tiedAccess). A read of BAR4 answers its word and a write writes it. A misaligned access or one of another size, outside the mailbox windows and not a write to the other port's block, has no effect, sets HP_ERR.ACC and reads all ones; a write to the other port's block or mailbox sets HP_ERR.ACC only. That a row of a read reads whatever register stands at its address is log entry 70, and that the access takes the link out of ASPM L1 is log entry 68: the model's choices. -/
def Obligations.RegisterAccesses : Prop :=
  ∀ (s : State) (p : Fin 2) (addr : BitVec 24), reaches s p = true →
    let a := addr.toNat
    let s0 := if s.hosts.port[p].l1 then s.modPort p fun h => { h with l1 := false } else s
    (a % 4 = 0 →
      exec (.viewCaptureRead p addr none) s = .next (readReg s0 p a) ∧
      exec (.lowWordCaptureRead p addr none) s = .next (readReg s0 p a) ∧
      exec (.rcRead p .bar0 addr none) s = .next (readReg s0 p a) ∧
      (∀ v, (∀ q, ownerOf a = some q → q = p) → holdsWrites s = false → served s = true →
        exec (.registerWrite p .bar0 addr v none) s = .next (writeReg s0 p a v none))) ∧
    (∀ y, reaches s (1 - p) = true →
      exec (.viewCaptureRead p addr (some y)) s = .next (tiedAccess s p a .read y) ∧
      exec (.lowWordCaptureRead p addr (some y)) s = .next (tiedAccess s p a .read y) ∧
      exec (.rcRead p .bar0 addr (some y)) s = .next (tiedAccess s p a .read y) ∧
      (∀ v, exec (.registerWrite p .bar0 addr v (some y)) s = .next (tiedAccess s p a (.write v) y))) ∧
    exec (.rcRead p .bar4 addr none) s = .next (readReply s p (bar4Read s p (a % 0x1000))) ∧
    (∀ v, exec (.registerWrite p .bar4 addr v none) s = .next (bar4Write s p (a % 0x1000) v)) ∧
    (∀ size : BitVec 13, size ≠ 4 ∨ a % 4 ≠ 0 → inMailbox a = false →
      exec (.bar0BadAccess p addr size false) s = .next ((hpErr s p hpAcc).emit (.readData p (List.replicate size.toNat 0xFF))) ∧
      ((∀ q, ownerOf a = some q → q = p) → exec (.bar0BadAccess p addr size true) s = .next (hpErr s p hpAcc))) ∧
    (∀ (size : BitVec 13) q, ownerOf a = some q → q ≠ p → exec (.bar0BadAccess p addr size true) s = .next (hpErr s p hpAcc))

/-- O47. The aperture, the result windows, configuration requests and the link of a port. Through a port whose link and memory space are enabled: an aperture access in a state that serves reaches device memory at the aperture's base, piece by 64-byte block; before HALTER a read answers all ones and a write does nothing; a result window is read as its ring's window holds it and a write to one sets HP_ERR.ACC. A configuration request on a link that is up is answered with retry status until the port is ready, and then reads or writes the configuration register; a device whose start has stuck answers none. A link loss of any kind outside reset, OFF and STABLED loses the port, and within them PERST only leaves it not ready; a data link of a legal speed and width that comes up ends PERST and makes the link up. A host read that completes changes nothing; a failed fetch of an ACTIVE submission ring disables it and sets HP_ERR.FETCH. The aperture before HALTER and its 64-byte pieces are log entry 69; the standard's error bits of a failed read, and a data link up in reset as PERST's rise, are log entry 68: the model's choices. -/
def Obligations.PortAccesses : Prop :=
  ∀ (s : State) (p : Fin 2),
    (reaches s p = true → ∀ (off : BitVec 28) (data : List (Option Byte)),
      (off.getLsbD 27 = false → served s = true → ∀ w, exec (.apertureAccess p off w data) s =
        .next (aperPieces s p w (blocksOf (s.hosts.port[p].aper.toNat * 0x8000000 + off.toNat) data.length) data)) ∧
      (off.getLsbD 27 = false → served s = false → exec (.apertureAccess p off true data) s = .next s ∧
        exec (.apertureAccess p off false data) s = .next (s.emit (.readData p (List.replicate data.length 0xFF)))) ∧
      (off.getLsbD 27 = true → exec (.apertureAccess p off true data) s = .next (hpErr s p hpAcc) ∧
        exec (.apertureAccess p off false data) s = .next (s.emit (.readData p (windowRead s p (off.toNat % 2 ^ 27) data.length)))) ∧
      (∀ len, exec (.resultWindowRead p off len) s = .next (s.emit (.readData p (windowRead s p (off.toNat % 2 ^ 27) len))))) ∧
    (s.hosts.port[p].linkUp = true → s.dev.stuck = false → ∀ (off : BitVec 12) (v : BitVec 32),
      let a := off.toNat / 4 * 4
      (s.hosts.port[p].ready = false → ∀ w, exec (.configurationRequest p off w v) s = .next (s.emit (.crs p))) ∧
      (s.hosts.port[p].ready = true → exec (.configurationRequest p off true v) s = .next (cfgWrite s p a v) ∧
        exec (.configurationRequest p off false v) s = .next (readReply (cfgRead s p a).2 p (cfgRead s p a).1))) ∧
    (s.dev.state ≠ .off → s.dev.state ≠ .stabled → s.dev.heldInReset = false →
      (∀ why, exec (.portLoss p why) s = .next (losePortBy s p why)) ∧
      (s.hosts.port[p].linkUp = false → ∀ speed width, 1 ≤ speed → speed ≤ 5 → width ∈ [1, 2, 4] →
        exec (.dataLinkUp p speed width) s = .next ((s.modPort p perstRise).modPort p fun h =>
          { h with linkUp := true, speed := speed, width := width }))) ∧
    (s.hosts.port[p].linkUp = true → s.dev.stuck = true → ∀ off w v, exec (.configurationRequest p off w v) s = .next s) ∧
    (s.dev.state = .off ∨ s.dev.state = .stabled ∨ s.dev.heldInReset = true →
      exec (.portLoss p .perst) s = .next (s.modPort p fun h => { h with perst := true, ready := false }) ∧
      (∀ speed width, exec (.dataLinkUp p speed width) s = .next (s.modPort p perstRise))) ∧
    (∀ what, exec (.hostReadCompletion p what true) s = .next s) ∧
    (∀ n : Fin 4, (s.ring p (sqOf n)).state = .active →
      exec (.hostReadCompletion p (.fetch n) false) s = .next (hpErr (disableRing (readError s p) p (sqOf n)) p hpFetch))

/-- O48. Power, reset, start and wake. The loss of a rail that may not be removed makes the device OFF and resets everything but fuses, studbook, flash and the levels at its pins, where a studbook write of that moment may be cut off (log entry 105); POWER_UP from OFF begins STARTING. RST_L low outside OFF and STABLED resets the device and holds it, its rise begins STARTING; in STABLED it resets what is on and a wake under way goes on waiting, and its rise is a wake event of cause 3. A start whose boot ROM fails stops at step 2, and one whose yard loops fail at step 5, after step 4, where it has not run yet, has read the studbook and consumed its shutdown record; both stay in STARTING for good. Otherwise the start runs the steps of Table 15-3 and ends. In STABLED an enabled wake begins the wait for the rails; with the rails good STARTING begins with the wake's cause, and after 1 s without them STBY_L is asserted again and the failed wake is entered in the fault log. That RST_L in STABLED keeps a wake waiting and that its rise replaces the cause are log entry 63, and what a command of a start stands for is log entry 62: the model's choices. -/
def Obligations.PowerAndStart : Prop :=
  ∀ (s : State),
    (∀ r, s.dev.state ≠ .off → (s.dev.stbyL = true ∨ mayRemove r = false) →
      let t := coldState (cutWrites s)
      exec (.railLost r) s = .next { t with dev := { t.dev with state := .off, heldInReset := true } }) ∧
    (∀ r, s.dev.state = .off ∨ (s.dev.stbyL = false ∧ mayRemove r = true) → exec (.railLost r) s = .next s) ∧
    (∀ low, s.dev.state = .off → exec (.powerUp low) s = .next (beginStart { s with dev.rstL := true } 0 low)) ∧
    (∀ low, s.dev.state ≠ .off → s.dev.thermtripL = true →
      (s.dev.rstL = true → let t := coldState { s with dev.rstL := false }
        (s.dev.state ≠ .stabled → exec (.rstL false low) s = .next { t with dev := { t.dev with heldInReset := true } }) ∧
        (s.dev.state = .stabled → exec (.rstL false low) s = .next
          { t with dev := { t.dev with state := .stabled, stbyL := s.dev.stbyL, waking := s.dev.waking } })) ∧
      (s.dev.rstL = false → s.dev.state ≠ .stabled → exec (.rstL true low) s = .next (beginStart { s with dev.rstL := true } 3 low)) ∧
      (s.dev.rstL = false → s.dev.state = .stabled →
        exec (.rstL true low) s = .next (wakeEvent { s with dev.rstL := true, dev.waking := none } 3 low))) ∧
    (∀ failed blocks quick trained, s.dev.state = .starting → s.dev.heldInReset = false → s.dev.stuck = false →
      let read := if s.dev.startStep < 4 then readStudbook (zeroise (flashReset s)) else s
      exec (.startUpComplete .romFailed failed blocks quick trained) s = .next { s with dev := { s.dev with stuck := true, startStep := 2 } } ∧
      exec (.startUpComplete .loopFailed failed blocks quick trained) s =
        .next { read with dev := { read.dev with stuck := true, startStep := 5 } } ∧
      exec (.startUpComplete .good failed blocks quick trained) s = .next (endStarting (flashPins (findFlash
        (startMemory (powerOnTests (calibrated read) failed blocks) quick trained))))) ∧
    (s.dev.state = .stabled → ∀ low,
      (∀ n : Fin 16, s.dev.wakeMask.getLsbD n.val = true → (vget ({} : Gpio) s.pins.gpio n.val).actFunc = 0xB →
        (vget ({} : Gpio) s.pins.gpio n.val).switching = false →
        exec (.wakeEvent (.pin n) low) s = .next (wakeEvent s 1 low)) ∧
      (s.dev.wakeSb = true → exec (.wakeEvent .sideband low) s = .next (wakeEvent s 2 low)) ∧
      (s.dev.rstL = false → exec (.wakeEvent .rstRise low) s = .next (wakeEvent { s with dev.rstL := true, dev.waking := none } 3 low)) ∧
      (∀ cause, s.dev.waking = none → wakeEvent s cause low =
        { s with dev := { s.dev with wake := BitVec.ofNat 2 cause, recPin := low, recoveryL := !low, stbyL := true, waking := some s.dev.yard },
                 hosts.port := vmapI s.hosts.port fun p h => { h with wakeOut := h.wakeOut || s.dev.wakeSig.getLsbD p } }) ∧
      (∀ t, s.dev.waking = some t → s.dev.rstL = true →
        exec .wakeRailsGood s = .next (beginStart (wokenState s) s.dev.wake.toNat s.dev.recPin)) ∧
      (∀ t, s.dev.waking = some t → t + 1000000000 ≤ s.dev.yard → exec .wakeRailTimeout s =
        .next (logFault { s with dev := { s.dev with stbyL := false, waking := none } } (.failedWake s.dev.yard))))

/-- O49. Faults, sensors, DOZE, shutdown and the ends of flash and BIST jobs. A DEVICE_FAULT in HALTER, POURING, SERVICE or DOZE is noted, aborts the pour and enters RECOVERY with RCAUSE 3, where the streams that DOZE had stopped resume; in RECOVERY it is noted and aborts what runs; in SHUTTING_DOWN it excludes what failed and enters STABLED, with the SHUTDOWN's reply DEVICE_FAULT. A thermal trip consumes a shutdown record, is entered in the fault log and holds the device in reset with THERMTRIP asserted (log entries 64 and 105). A sensor that BIST has not marked failed takes its sample, and a rail monitor its reading, with OOT kept set once the monitor or Table 19-2 says so, which for the rails that STBY_L may remove is not while STBY_L is low. In DOZE an enabled wake input raises the device event and begins the return to SERVICE; once both rails are at the ceiling the device enters SERVICE, the streams resume and each SET_STATE that waits is DONE. The end of the shutdown set excludes what failed, writes the verdicts and the shutdown record and enters STABLED with the final reply; a SHUTDOWN that skips the set writes the record only. A flash write that worked and reads back is DONE and one that failed CHECK_FAILED; a flash read delivers its data; a BIST_RUN answers with what passed and what failed. The state after a trip is log entry 64, and that a fault stops the pour and that streams resume in RECOVERY is log entry 65: the model's choices. -/
def Obligations.DeviceEvents : Prop :=
  ∀ (s : State),
    (s.dev.state = .halter ∨ s.dev.state = .pouring ∨ s.dev.state = .service ∨ s.dev.state = .doze →
      ∀ (code : BitVec 16) (failed : BitVec 32) blocks,
        let t := dozeCancel (abortPour (noteFault s code))
        let u := enterRecovery { t with cast := t.cast.map fun h => { h with dozeStopped := false } } 3
        exec (.deviceFault code failed blocks) s = .next (if s.dev.state = .doze then resumeStreams u else u)) ∧
    (s.dev.state = .recovery → ∀ (code : BitVec 16) (failed : BitVec 32) blocks,
      exec (.deviceFault code failed blocks) s = .next (enterRecovery (abortAll (noteFault s code) 0) 3)) ∧
    (s.dev.state = .shuttingDown → ∀ (code : BitVec 16) (failed : BitVec 32) blocks j skip,
      let t := excludeBad (raiseEvent (noteFault s code) 11) (failingBlocks (List.range 9) failed.toNat blocks)
      shutJob t = some (j, skip) →
      exec (.deviceFault code failed blocks) s = .next (enterStabled (finishJob t j.id .deviceFault 0 []))) ∧
    (∀ n : Fin 36, s.dev.state ≠ .off → s.dev.state ≠ .stabled → s.dev.thermtripL = true →
      let t := coldState (logFault (spoilShut (cutWrites s)) (.trip s.dev.yard n.val))
      exec (.thermalTrip n) s = .next { t with dev := { t.dev with heldInReset := true, thermtripL := false } }) ∧
    (s.dev.state ≠ .off → s.dev.heldInReset = false →
      (∀ (n : Fin 36) temp d, s.dev.state ≠ .stabled → s.pins.sensors[n].failed = false → sensorDie n.val = some d → served s = true →
        exec (.sensorSample n temp) s = .next (wireTrim (thermWarn
          { s with pins.sensors := vmod s.pins.sensors n fun x => { x with temp := temp, valid := true } } d temp) d)) ∧
      (∀ (r : Fin 7) mv oot, exec (.railMonitorRefresh r mv oot) s = .next { s with pins.rails := vmod s.pins.rails r fun x =>
        if x.fail then { x with mv := 0 } else { x with mv := BitVec.ofNat 16 mv, oot := x.oot || ((s.dev.stbyL || decide (5 ≤ r.val)) && (oot || railOut r.val mv)) } })) ∧
    (s.dev.state = .doze →
      (∀ n : Fin 16, s.dev.wakeMask.getLsbD n.val = true → (vget ({} : Gpio) s.pins.gpio n.val).actFunc = 0xB →
        (vget ({} : Gpio) s.pins.gpio n.val).switching = false →
        (raiseEvent s 11).dev.dozeExit = none → exec (.dozeWake n) s = .next (leaveDoze (raiseEvent s 11) [])) ∧
      (∀ ids, s.dev.dozeExit = some ids → atCeiling s = true → exec .dozeExitComplete s =
        .next (ids.foldl (fun s id => finishJob s id .done 0 []) (resumeStreams (changeState
          { s with dev.dozeExit := none, cast := s.cast.map fun h => { h with dozeStopped := false } } .service))))) ∧
    (s.dev.state = .shuttingDown → ∀ j (failed : BitVec 32) blocks,
      (shutJob s = some (j, false) →
        let bad := failingBlocks (List.range 9) (failed.toNat &&& 511) blocks
        let f := failedTests (List.range 9) (failed.toNat &&& 511) blocks
        let t := writeShutRecord (bookCal (bookVerdict (excludeBad s bad) (511 ^^^ f) f)) true f bad.length
        exec (.shutdownComplete failed blocks) s =
          .next (enterStabled (finishJob { t with dev.alert := true } j.id .done (if bad = [] then 0 else 1) []))) ∧
      (shutJob s = some (j, true) →
        let t := writeShutRecord (excludeBad s []) false 0 0
        exec (.shutdownComplete failed blocks) s = .next (enterStabled (finishJob { t with dev.alert := true } j.id .done 0 [])))) ∧
    (∀ job j, findJob s job = some j →
      (∀ d a erase data, j.kind = .flashWrite d a erase data →
        let t := flashPut (if erase then flashClear s d a data.length else s) d a data
        (flashRead t d a data.length = data → exec (.flashTransferComplete job true) s = .next (finishJob t job .done 0 [])) ∧
        (flashRead t d a data.length ≠ data → exec (.flashTransferComplete job true) s = .next (finishJob t job .check 0x000B [])) ∧
        exec (.flashTransferComplete job false) s = .next (finishJob (undoJob s j) job .check 0x000B [])) ∧
      (∀ d a len, j.kind = .flashRead d a len →
        exec (.flashTransferComplete job true) s = .next (finishOut s job 0 (flashRead s d a len)) ∧
        exec (.flashTransferComplete job false) s = .next (finishJob s job .check 0x000C []))) ∧
    (∀ j (mask failed : BitVec 32) retire blocks,
      jobWhere s isBist = some j → j.kind = .bist mask retire →
      let f := failedTests (testsOf mask.toNat) (mask.toNat &&& failed.toNat) blocks
      exec (.bistComplete failed blocks) s = .next (finishJob (bistResult s mask.toNat (mask.toNat &&& failed.toNat) retire blocks)
        j.id .done 0 (leBytes 4 (mask.toNat &&& (511 ^^^ f)) ++ leBytes 4 f)))

/-- O50. The sideband. In every state but OFF, and after a thermal trip, in which it answers nothing, the sideband answers IDENT, STATE (the state code), HEALTH and TEMPS (the values of the last refresh and the stale marker, 0x00 while they are live and 0xFF while they are held), each with the packet error code of the bytes of its transaction. A write with a command code outside Table 12-8 and a SHUTDOWN write whose byte 0 is not 0x5D are NACKed; any other write with a wrong PEC is counted and discarded; a right SHUTDOWN outside STABLED acts as the SHUTDOWN command and in STABLED, where the wake configuration lets it, as a wake event of cause 2; a right write of a code that is only read has no effect (log entry 63). An alert is released when its address is answered, and without one the Alert Response Address is NACKed. A refresh in a state that serves renews the values. The answer 0xB4 to the Alert Response Address, the bytes its packet error code covers and the NACK without an alert are log entry 72 (PRESUMED). -/
def Obligations.Sideband : Prop :=
  ∀ (s : State),
    let answer := fun (code : Byte) (l : List Byte) =>
      (Host.Outcome.next (s.emit (.sideband l (smbusPec ([0xB4, code, 0xB5] ++ l)))) : Host.Outcome State Fault Refusal)
    let block := fun (code : Byte) (l : List Byte) =>
      (Host.Outcome.next (s.emit (.sideband l (smbusPec ([0xB4, code, 0xB5] ++ leBytes 1 l.length ++ l)))) : Host.Outcome State Fault Refusal)
    (s.dev.state ≠ .off → s.dev.thermtripL = true →
      exec .ident s = block 0x01 (identBytes s) ∧
      exec .state s = answer 0x02 (leBytes 1 (devCode s.dev.state)) ∧
      exec .health s = block 0x03 (padTo 7 s.pins.health ++ [if served s then 0x00 else 0xFF]) ∧
      exec .temps s = block 0x04 (padTo 10 s.pins.temps ++ [if served s then 0x00 else 0xFF]) ∧
      (∀ code b0 b1 ok low, code = 0 ∨ 5 < code.toNat → exec (.sidebandShutdown b0 b1 ⟨code, ok, low⟩) s = .next (s.emit .nack)) ∧
      (∀ b0 b1 ok low, b0 ≠ 0x5D → exec (.sidebandShutdown b0 b1 ⟨0x05, ok, low⟩) s = .next (s.emit .nack)) ∧
      (∀ b1 low, exec (.sidebandShutdown 0x5D b1 ⟨0x05, false, low⟩) s = .next { s with pins.pec := satAdd s.pins.pec 1 }) ∧
      (∀ code b0 b1 low, 1 ≤ code.toNat → code.toNat ≤ 4 →
        exec (.sidebandShutdown b0 b1 ⟨code, false, low⟩) s = .next { s with pins.pec := satAdd s.pins.pec 1 } ∧
        exec (.sidebandShutdown b0 b1 ⟨code, true, low⟩) s = .next s) ∧
      (∀ b1 low, s.dev.state ≠ .stabled → exec (.sidebandShutdown 0x5D b1 ⟨0x05, true, low⟩) s =
        .next (runCmd shutdownSpec shutdownBody (sidebandCmd b1) s)) ∧
      (∀ b1 low, s.dev.state = .stabled →
        (s.dev.wakeSb = false → exec (.sidebandShutdown 0x5D b1 ⟨0x05, true, low⟩) s = .next s) ∧
        (s.dev.wakeSb = true → exec (.sidebandShutdown 0x5D b1 ⟨0x05, true, low⟩) s = .next (wakeEvent s 2 low))) ∧
      (s.dev.alert = true →
        exec .alertResponse s = .next ({ s with dev.alert := false }.emit (.sideband [0xB4] (smbusPec [0x19, 0xB4])))) ∧
      (s.dev.alert = false → exec .alertResponse s = .next (s.emit .nack))) ∧
    (s.dev.state = .off ∨ s.dev.thermtripL = false → (∀ i ∈ [Instr.ident, .state, .health, .temps, .alertResponse], exec i s = .next s) ∧
      ∀ code b0 b1 ok low, exec (.sidebandShutdown b0 b1 ⟨code, ok, low⟩) s = .next s) ∧
    (served s = true → exec .sidebandRefresh s =
      .next { (tempBytes s).2 with pins.health := healthBytes (tempBytes s).2, pins.temps := (tempBytes s).1 }) ∧
    (served s = false → exec .sidebandRefresh s = .next s)

/-- O51. Commands that read. A command of these rows that passes its checks completes at once and changes nothing but its port's counters: GET_IDENTITY, GET_STATE, GET_HEALTH, ECHO, LC_STATUS, MUSTER_READ and CASTER_STATUS answer with the bytes of their reply data, inline or through the host buffer where it has room; READBACK_FRAMES delivers the frames of its range, none of a LOADING paddock, with the error counts that reading them brings; MEM_READ answers the bytes of its range with DETAIL 1 where a block could not be corrected, is refused with BAD_PARAM where the range may not be read, and waits for memory that is being trained (log entry 49). -/
def Obligations.ReadingCommands : Prop :=
  Completes getIdentitySpec .getIdentity (fun c s => Fits c (identityBytes s).length) (fun c s => delivered c s (identityBytes s)) ∧
  Completes getStateSpec .getState (fun c s => Fits c (stateBytes s).length) (fun c s => delivered c s (stateBytes s)) ∧
  Completes getHealthSpec .getHealth (fun c s => Fits c (getHealthBytes s).1.length)
    (fun c s => delivered c (getHealthBytes s).2 (getHealthBytes s).1) ∧
  Completes echoSpec .echo (fun _ _ => True) (fun c s => doneWith c s c.params) ∧
  Completes lcStatusSpec .lcStatus (fun _ _ => True) (fun c s => doneWith c s (lcStatusBytes s)) ∧
  Completes musterReadSpec .musterRead (fun _ _ => True) (fun c s => doneWith c s ((musterRecord s (par c 0 1) (par c 2 2)).getD [])) ∧
  (let recs := fun c s => (castMask c).flatMap fun x => statusRecord (vget ({} : Caster) s.cast x)
   Completes casterStatusSpec .casterStatus (fun c s => Fits c (recs c s).length) (fun c s => delivered c s (recs c s))) ∧
  (let read := fun c s => (readbackAddrs c).foldl (fun (r : State × List Byte) a => let x := readFrame r.1 a; (x.1, r.2 ++ x.2)) (s, [])
   Completes readbackSpec .readbackFrames
    (fun c s => rangePdk c (fun k => (pdkAt s k).state == .loading) = none ∧ Fits c (read c s).2.length)
    (fun c s => delivered c (read c s).1 (read c s).2)) ∧
  (∀ t l bad, Completes memReadSpec .memRead
    (fun c s => memReady s (par c 0 8) (par c 8 4) = true ∧ memRead s .memCmd (par c 0 8) (par c 8 4) = (t, some (l, bad)))
    (fun c _ => replyTo c t .done (if bad then 1 else 0) l)) ∧
  (∀ t, Completes memReadSpec .memRead
    (fun c s => memReady s (par c 0 8) (par c 8 4) = true ∧ memRead s .memCmd (par c 0 8) (par c 8 4) = (t, none))
    (fun c _ => replyTo c t .badParam 4 [])) ∧
  Completes memReadSpec .memRead (fun c s => memReady s (par c 0 8) (par c 8 4) = false) (fun c s => memHold c s (par c 0 8) (par c 8 4))

/-- O52. Commands of the device, its life cycle and its power. A command of these rows that passes its checks and meets no busy resource completes with exactly this effect: SEM_BIND binds or unbinds the range to the semaphore; LC_ADVANCE with a good tail zeroises and enters the new life-cycle state; KEY_PROVISION stores the key that unwraps, in a free fuse slot or in the studbook; SCAN_ENABLE with a good tail zeroises and opens the scan; BIST_RUN, in FIELD with a good tail, zeroises and starts; a bad tail is refused as its check says and still changes the nonce (R360); SET_STATE goes to DOZE, DONE once the effective floor has been written to both dies, begins the return to SERVICE or waits with the one under way (log entry 65, the model's choice), or enters STABLED; SHUTDOWN is accepted and enters SHUTTING_DOWN; WAKE_CONFIG, MUSTER_ARM and FETTLER_CONFIG set their settings; MUSTER_FIRE is accepted with its sequence number and requests a muster; GOVERNOR_CONFIG holds the parameters for the next window, or past a freeze of the rails, and raises a rail to its new floor. -/
def Obligations.DeviceCommands : Prop :=
  (∀ t, Completes semBindSpec .semBind (fun c s => semBind s (par c 0 1 == 1) (par c 1 1) (par c 2 1) (par c 4 4) (par c 8 4) = .ok t)
    (fun c _ => doneWith c t [])) ∧
  (∀ t, Completes lcAdvanceSpec .lcAdvance
    (fun c s => lcOfCode (par c 0 1) = some t ∧ zeroiseBusy s = none ∧ s.dev.sbRo = false ∧ tailCheck c s = none)
    (fun c s => let s := advanceNonce s
      doneWith c (lcEnter (countSigned s) t) [])) ∧
  (∀ k, Completes keyProvisionSpec .keyProvision
    (fun c s => par c 1 1 = 0 ∧ vget none s.fuse.keys (par c 0 1) = none ∧
      keyUnwrap (keyBytes s.fuse.provKey) ((c.params.drop 8).take 40) = some k)
    (fun c s => doneWith c { s with fuse.keys := vmodN s.fuse.keys (par c 0 1) fun _ => some (keyOf k) } [])) ∧
  (∀ k, Completes keyProvisionSpec .keyProvision
    (fun c s => par c 1 1 ≠ 0 ∧ s.dev.sbRo = false ∧ keyUnwrap (keyBytes s.fuse.provKey) ((c.params.drop 8).take 40) = some k)
    (fun c s => doneWith c (bookWrite { s with book.wrapped := tput none s.book.wrapped (par c 0 1) (some (keyOf k)) } .wrappedKeys) [])) ∧
  Completes scanEnableSpec .scanEnable (fun c s => zeroiseBusy s = none ∧ s.dev.sbRo = false ∧ tailCheck c s = none)
    (fun c s => let s := advanceNonce s
      scanEnableDo c (countSigned s)) ∧
  Completes bistRunSpec .bistRun
    (fun c s => jobWhere s isBist = none ∧ zeroiseBusy s = none ∧
      bistBusy s (testsOf (par c 0 4)) = none ∧ (bistPersists c s = true → s.dev.sbRo = false) ∧ s.fuse.lcs ≠ .field)
    (fun c s => zeroise (startJob c s (.bist (BitVec.ofNat 32 (par c 0 4)) (par c 4 1 == 1)) [])) ∧
  Completes bistRunSpec .bistRun
    (fun c s => jobWhere s isBist = none ∧ zeroiseBusy s = none ∧
      bistBusy s (testsOf (par c 0 4)) = none ∧ s.dev.sbRo = false ∧ s.fuse.lcs = .field ∧ tailCheck c s = none)
    (fun c s => zeroise (startJob c (countSigned (advanceNonce s)) (.bist (BitVec.ofNat 32 (par c 0 4)) (par c 4 1 == 1)) [])) ∧
  (let tailed := fun (sp : CmdSpec) (row : Cmd → Instr) (cond : Cmd → State → Prop) => ∀ d, Completes sp row
      (fun c s => cond c s ∧ zeroiseBusy s = none ∧ s.dev.sbRo = false ∧ tailCheck c s = some d)
      (fun c s => refuse c (advanceNonce s) d)
   tailed lcAdvanceSpec .lcAdvance (fun c _ => (lcOfCode (par c 0 1)).isSome = true) ∧
   tailed scanEnableSpec .scanEnable (fun _ _ => True) ∧
   tailed bistRunSpec .bistRun (fun c s => jobWhere s isBist = none ∧ bistBusy s (testsOf (par c 0 4)) = none ∧ s.fuse.lcs = .field)) ∧
  (let written := fun (s : State) => floorWritten (toDoze s) 0 = true ∧ floorWritten (toDoze s) 1 = true
   Completes setStateSpec .setState (fun c s => s.dev.state = .service ∧ devOfCode (par c 0 1) = some .doze ∧ written s)
    (fun c s => doneWith c (toDoze s) []) ∧
   Completes setStateSpec .setState (fun c s => s.dev.state = .service ∧ devOfCode (par c 0 1) = some .doze ∧ ¬written s)
    (fun c s => let t := toDoze s
      { t with cmdp.jobs := t.cmdp.jobs ++ [waitJobOf c t], cmdp.nextId := t.cmdp.nextId + 1, dev.dozeEntry := some t.cmdp.nextId })) ∧
  (let waits := fun (c : Cmd) (s : State) => { s with cmdp.jobs := s.cmdp.jobs ++ [waitJobOf c s], cmdp.nextId := s.cmdp.nextId + 1 }
   Completes setStateSpec .setState (fun c s => s.dev.state = .doze ∧ devOfCode (par c 0 1) = some .service ∧ s.dev.dozeExit = none)
    (fun c s => leaveDoze (waits c s) [s.cmdp.nextId]) ∧
   (∀ l, Completes setStateSpec .setState (fun c s => s.dev.state = .doze ∧ devOfCode (par c 0 1) = some .service ∧ s.dev.dozeExit = some l)
    (fun c s => { waits c s with dev.dozeExit := some (l ++ [s.cmdp.nextId]) }))) ∧
  Completes setStateSpec .setState
    (fun c s => s.dev.state ∈ [.halter, .service, .doze, .recovery] ∧ devOfCode (par c 0 1) = some .stabled)
    (fun c s => enterStabled (doneWith c s [])) ∧
  Completes shutdownSpec .shutdown (fun _ _ => True)
    (fun c s => enterShutdown (startJob c s (.shutdown (par c 0 1 == 1)) []) s.cmdp.nextId) ∧
  Completes wakeConfigSpec .wakeConfig (fun _ _ => True)
    (fun c s => doneWith c { s with dev.wakeMask := BitVec.ofNat 16 (par c 0 2), dev.wakeSig := BitVec.ofNat 2 (par c 2 1), dev.wakeSb := par c 3 1 == 1 } []) ∧
  Completes musterArmSpec .musterArm (fun _ _ => True)
    (fun c s => let s := doneWith c s []
      { s with mus := { s.mus with src := BitVec.ofNat 6 (par c 0 2), latest := par c 2 1 == 1, timeout := orDefault (par c 4 4) 2000, errMask := BitVec.ofNat 13 (par c 8 4) } }) ∧
  Completes musterFireSpec .musterFire (fun _ s => s.mus.src.getLsbD 0 = true ∧ musterMissed s = false)
    (fun c s => musterRequest (startJob c s (.musterFire (nextSeqNo s.mus.seq)) (leBytes 4 (nextSeqNo s.mus.seq).toNat)) 0) ∧
  (∀ p, Completes governorConfigSpec .governorConfig (fun c _ => govParams c = some p)
    (fun c s => let s := { s with gov.pending := some p, gov.heldConfig := s.gov.heldConfig || frozen s }
      doneWith c (raiseTo (raiseTo s 0 (floorWith s p 0) 6) 1 (floorWith s p 1) 6) [])) ∧
  Completes fettlerConfigSpec .fettlerConfig (fun _ _ => True)
    (fun c s => doneWith c { s with cfg.ftlEn := par c 0 1 == 1, cfg.ftlPeriod := orDefault (par c 4 4) 100 } [])

/-- O53. Commands of patterns, paddocks and flash. A command of these rows that passes its checks and meets no busy resource: FLASH_WRITE and FLASH_READ are accepted and their work begins; POUR_PATTERN and POUR_PARTIAL with no pour in progress open their pattern, from the host buffer or a slot, and are accepted as the pour of their paddocks or refused by what the opening finds, and NO_SPACE refuses one that would record a new golden slot in a studbook that takes no more writes; ISOLATE_PADDOCK of a LIVE or FAULTED paddock is accepted, stops the delivery to it and its admission; RELEASE_PADDOCK of an ISOLATED poured paddock makes it LIVE at once, or with its flag set withdraws its stages and begins to run through them again, and while a muster cut holds the paddock waits for its release; SET_RELEASE_ORDER sets the order of the paddocks it names. -/
def Obligations.PatternCommands : Prop :=
  (∀ l, Completes flashWriteSpec .flashWrite
    (fun c s => flashBusy s (par c 0 1) true = none ∧ inBuf c (par c 8 4) = .ok l)
    (fun c s => startJob c s (.flashWrite (par c 0 1) (par c 4 4) (par c 1 1 % 2 == 1) (l.take (par c 8 4))) [])) ∧
  Completes flashReadSpec .flashRead
    (fun c s => flashBusy s (par c 0 1) false = none ∧ (c.hlen.toNat ≠ 0 → par c 8 4 ≤ c.hlen.toNat))
    (fun c s => startJob c s (.flashRead (par c 0 1) (par c 4 4) (par c 8 4)) []) ∧
  (let space := fun (c : Cmd) (s : State) => par c 0 1 = 1 ∨ s.dev.sbRo = false ∨ ∀ d, (directory s).1 = some d → newGolden s d = none
  (∀ t q, Completes pourPatternSpec .pourPattern
    (fun c s => s.cfg.pour = none ∧ space c s ∧
      (if par c 0 1 = 1 then openHost c (noFrames s) { full := true, mask := BitVec.allOnes 64 } else openFlash (noFrames s) { full := true, mask := BitVec.allOnes 64 } (par c 1 1)) = (t, .ok q))
    (fun c _ => acceptTry (startJob c t .pour []) { q with job := t.cmdp.nextId })) ∧
  (∀ t e, Completes pourPatternSpec .pourPattern
    (fun c s => s.cfg.pour = none ∧ space c s ∧
      (if par c 0 1 = 1 then openHost c (noFrames s) { full := true, mask := BitVec.allOnes 64 } else openFlash (noFrames s) { full := true, mask := BitVec.allOnes 64 } (par c 1 1)) = (t, .error e))
    (fun c _ => refuse c t { st := e.st, detail := e.detail, data := e.data, dma := e.dma })) ∧
  (∀ t q, Completes pourPartialSpec .pourPartial
    (fun c s => s.cfg.pour = none ∧ (maskList (BitVec.ofNat 64 (par c 4 8))).findSome? (partialDeny s) = none ∧ space c s ∧
      (if par c 0 1 = 1 then openHost c (noFrames s) { full := false, mask := BitVec.ofNat 64 (par c 4 8) } else openFlash (noFrames s) { full := false, mask := BitVec.ofNat 64 (par c 4 8) } (par c 1 1)) = (t, .ok q))
    (fun c _ => acceptTry (startJob c t .pour []) { q with job := t.cmdp.nextId })) ∧
  (∀ t e, Completes pourPartialSpec .pourPartial
    (fun c s => s.cfg.pour = none ∧ (maskList (BitVec.ofNat 64 (par c 4 8))).findSome? (partialDeny s) = none ∧ space c s ∧
      (if par c 0 1 = 1 then openHost c (noFrames s) { full := false, mask := BitVec.ofNat 64 (par c 4 8) } else openFlash (noFrames s) { full := false, mask := BitVec.ofNat 64 (par c 4 8) } (par c 1 1)) = (t, .error e))
    (fun c _ => refuse c t { st := e.st, detail := e.detail, data := e.data, dma := e.dma })) ∧
  (∀ d, let full := fun (c : Cmd) (s : State) => s.cfg.pour = none ∧ par c 0 1 ≠ 1 ∧ s.dev.sbRo = true ∧
      (directory s).1 = some d ∧ (newGolden s d).isSome = true
   Completes pourPatternSpec .pourPattern full (fun c s => refuse c s (denyDev .noSpace s)) ∧
   Completes pourPartialSpec .pourPartial
    (fun c s => full c s ∧ (maskList (BitVec.ofNat 64 (par c 4 8))).findSome? (partialDeny s) = none)
    (fun c s => refuse c s (denyDev .noSpace s)))) ∧
  (let k := fun (c : Cmd) => Fin.ofNat 64 c.tindex.toNat
   Completes isolateSpec .isolatePaddock
    (fun c s => (s.pdk[k c].state = .live ∨ s.pdk[k c].state = .faulted) ∧ pdkBusy s (k c).val = false ∧
      (par c 0 1 % 2 = 1 ∨ portItems s (k c).val = []))
    (fun c s => admissionStop ((startJob c s (.isolate (k c).val (par c 0 1 % 2 == 1)) []).modPdk (k c) fun d =>
      { d with deliver := false, isolating := some s.cmdp.nextId }) (k c)) ∧
   Completes releasePdkSpec .releasePaddock
    (fun c s => s.pdk[k c].state = .isolated ∧ s.pdk[k c].poured = true ∧ pdkBusy s (k c).val = false ∧ par c 0 1 % 2 = 0 ∧ cutHeld s (k c).val = false)
    (fun c s => finishJob (toLive (startJob c s (.release (k c).val) []) (k c)) s.cmdp.nextId .done 0 []) ∧
   Completes releasePdkSpec .releasePaddock
    (fun c s => s.pdk[k c].state = .isolated ∧ s.pdk[k c].poured = true ∧ pdkBusy s (k c).val = false ∧ par c 0 1 % 2 = 1 ∧ cutHeld s (k c).val = false)
    (fun c s => let t := withdraw (startJob c s (.release (k c).val) []) (k c)
      { t with cfg.rels := t.cfg.rels ++ [{ job := s.cmdp.nextId, pdk := (k c).val, stages := orderOf t (k c).val }] }) ∧
   Completes releasePdkSpec .releasePaddock
    (fun c s => s.pdk[k c].state = .isolated ∧ s.pdk[k c].poured = true ∧ pdkBusy s (k c).val = false ∧ cutHeld s (k c).val = true)
    (fun c s => let t := startJob c s (.release (k c).val) []
      { t with mus.deferred := t.mus.deferred ++ [(if par c 0 1 % 2 = 0 then .release else .reRelease, (k c).val)] })) ∧
  Completes releaseOrderSpec .setReleaseOrder (fun _ _ => True)
    (fun c s => doneWith c (s.modPdks (bitsOf 64 (par c 0 8)) fun d =>
      { d with order := if par c 9 1 % 2 = 1 then none else some (par c 8 1, par c 10 2, par c 12 2) }) [])

/-- O54. Commands of links, encoders and triggers. A command of these rows that passes its checks and finds no resource retired, in a state that refuses it, or busy: CXP_DISCOVER dissolves the groups of its links and begins discovery on each; CXP_SET_LINK writes the rate to the camera and retrains the group; CXP_GROUP forms the group, or answers a query with its settings; CXP_CTRL_READ and CXP_CTRL_WRITE are accepted and queue their access; CXP_STREAM_ENABLE starts or stops its groups; CXP_PIXEL_STORE sets the store or turns it off; ENC_CONFIG, TRIG_GEN_CONFIG, TRIG_GEN_ARM, TRIG_GEN_STOP, HEAD_OFFSETS and POSITION_COMPARE set, arm and stop what they name and are DONE. The write of the rate as 4 bytes at 0x4014 is log entry 87 (PRESUMED). -/
def Obligations.LinkAndTriggerCommands : Prop :=
  Completes cxpDiscoverSpec .cxpDiscover (fun c s => discoverDeny c s (maskLinks c 0) = none ∧ s.dev.sbRo = false)
    (fun c s => linkJobDone ((maskLinks c 0).foldl (fun t n => discoverBegin t n (par c 16 1 == 1) s.cmdp.nextId)
      (dissolve (startJob c s (.discover (BitVec.ofNat 128 (par c 0 16))) []) (maskLinks c 0))) s.cmdp.nextId) ∧
  (let l := fun c s => groupLinks s (linkTarget c)
   Completes cxpSetLinkSpec .cxpSetLink
    (fun c s => firstLink .retired s (l c s) linkFailed = none ∧ firstLink .stateRefused s (l c s) (fun x => x.state != .up) = none ∧
      firstLink .busy s (l c s) (fun _ => bistLinks s) = none ∧ s.dev.sbRo = false ∧ par c 0 1 ≤ s.cxp.links[linkTarget c].maxRate ∧ linkCtrl s (l c s) = none)
    (fun c s => (l c s).foldl (fun t n => beginRate t n s.cmdp.nextId (par c 0 1))
      (((startJob c s (.setLink (linkTarget c).val (par c 0 1)) []).emit
        (.ctrlPacket (linkTarget c).val true 0x4014 4 (leBytes 4 (par c 0 1)) 0)).modLinks (l c s) fun x => { x with prevRate := x.rate })) ∧
   Completes cxpGroupSpec .cxpGroup (fun c s => queryOnly c = true ∧ firstLink .retired s (l c s) linkFailed = none)
    (fun c s => doneWith c s (groupBytes s.cxp.links[linkTarget c].gsize s.cxp.groups[linkTarget c].set))) ∧
  Completes cxpGroupSpec .cxpGroup (fun c s => queryOnly c = false ∧ groupDeny c s = none)
    (fun c s => doneWith c (formGroup s (linkTarget c) (par c 0 1) (groupParams c)) (groupBytes (par c 0 1) (groupParams c))) ∧
  Completes cxpCtrlReadSpec .cxpCtrlRead (fun c s => ctrlDeny s (linkTarget c) = none ∧ outFits c s (par c 4 2) = none)
    (fun c s => ctrlPush (startJob c s (.ctrl (linkTarget c).val) []) (linkTarget c)
      { job := s.cmdp.nextId, addr := BitVec.ofNat 32 (par c 0 4), len := par c 4 2 }) ∧
  (∀ l, Completes cxpCtrlWriteSpec .cxpCtrlWrite (fun c s => ctrlDeny s (linkTarget c) = none ∧
      ((c.hlen.toNat = 0 ∧ l = c.params.drop 12) ∨ (c.hlen.toNat ≠ 0 ∧ inBuf c (par c 4 2) = .ok l)))
    (fun c s => ctrlPush (startJob c s (.ctrl (linkTarget c).val) []) (linkTarget c)
      { job := s.cmdp.nextId, write := true, addr := BitVec.ofNat 32 (par c 0 4), len := par c 4 2, data := l.take (par c 4 2) })) ∧
  (let l := fun c s => (maskLinks c 0).flatMap fun n => groupLinks s n
   Completes cxpStreamEnableSpec .cxpStreamEnable
    (fun c s => firstLink .retired s (l c s) linkFailed = none ∧ firstLink .stateRefused s (l c s) (fun x => !linkUp x) = none)
    (fun c s => doneWith c ((maskLinks c 0).foldl (fun s n => if par c 16 1 = 1 then startGroup s n else stopGroup s n) s) [])) ∧
  Completes cxpPixelStoreSpec .cxpPixelStore (fun c s => firstLink .retired s (groupLinks s (linkTarget c)) linkFailed = none ∧
      linkChanging s (groupLinks s (linkTarget c)) = none)
    (fun c s => doneWith c (setStore s (linkTarget c)
      (if par c 0 1 % 2 = 1 then storeParams c else { s.cxp.groups[linkTarget c].store with on := false, pport := none })) []) ∧
  (let set := fun c s => s.modEnc (encTarget c) fun x =>
      { x with par := encParams c, zseen := false, indexed := false, stamps := if encChanges x.par (encParams c) then [] else x.stamps.take (2 ^ (encParams c).win + 1) }
   Completes encConfigSpec .encConfig
    (fun c s => s.trig.enc[encTarget c].failed = false ∧
      (encChanges s.trig.enc[encTarget c].par (encParams c) = true → armedOf s (encTarget c) = []))
    (fun c s => let t := fallBack (set c s) (encTarget c) (insNs s.dev.yard)
      doneWith c (tickDue (if par c 9 1 = 1 then preset t (encTarget c) (encParams c).preset else t)) [])) ∧
  Completes trigGenConfigSpec .trigGenConfig (fun c s => s.trig.gen[genTarget c].state ≠ .armed)
    (fun c s => doneWith c (s.modGen (genTarget c) fun y =>
      { y with par := genParams c, state := if y.state = .unconfigured then .idle else y.state }) []) ∧
  Completes trigGenArmSpec .trigGenArm (fun c s => (maskGens c).find? (armBlocked s) = none)
    (fun c s => doneWith c ((maskGens c).zipIdx.foldl (fun s x => armGen s x.1 (par c (8 + 4 * x.2) 4)) s) []) ∧
  Completes trigGenStopSpec .trigGenStop (fun _ _ => True) (fun c s => doneWith c ((maskGens c).foldl stopGen s) []) ∧
  Completes headOffsetsSpec .headOffsets (fun c s => (headEntries c).findSome? (headBusy s) = none)
    (fun c s => doneWith c ((headEntries c).foldl (fun s e => { s with trig.out := vmodN s.trig.out e.out fun x => headApply x e }) s) []) ∧
  Completes positionCompareSpec .positionCompare (fun c _ => par c 1 1 = 1)
    (fun c s => doneWith c { s with trig.cmp := vmodN s.trig.cmp (par c 0 1) fun u =>
      { u with armed := true, enc := par c 2 1, dir := par c 3 1, muster := (par c 4 1).testBit 0, msix := (par c 4 1).testBit 1, pos := BitVec.ofNat 64 (par c 8 8) } } []) ∧
  Completes positionCompareSpec .positionCompare (fun c _ => par c 1 1 = 0)
    (fun c s => doneWith c { s with trig.cmp := vmodN s.trig.cmp (par c 0 1) fun u => { u with armed := false } } [])

/-- O55. Commands of the memory, the scheduler and the casters. A command of these rows that passes its checks and meets nothing that its entry refuses: MEM_MAP replaces the map, in the studbook too where it says so, and items at the tails of flows take pages that it makes free; MEM_WRITE, with its data inline or in the host buffer, writes its bytes to memory that serves, is refused with BAD_PARAM where its range may not be written, and waits for memory that is being trained (log entry 49); MEM_TRAIN sets a description and trains its channels, recalibrates, retrains, retires or restores a channel; GRAPH_LOAD of a good image, from the host buffer or from device memory, makes it the graph, and an image in memory that is being trained is waited for, as KERNEL_LOAD waits; FLOW_CONFIG opens, reconfigures or closes its flows, and a port record held for a flow that closes or drains is dropped; FLOW_SUBMIT admits its items and is DONE, or with LONG goes on with the items that must wait, and without it is refused as the first of them says; FLOW_DRAIN is accepted and its flows drain, their queued items dropped where it says so, and those that hold nothing close; COOL_CONFIG sets its settings where no list of a domain whose source changes holds an item and no edge names a profile that changes so, and SPILL_CONFIG sets its settings; SCHED_TRACE turns the trace off or on or arms its match again; KERNEL_LOAD and CASTER_RETIRE with a target that may drain are accepted and drain their targets, with FORCE throwing the ladles of a retirement out, and a restore makes its casters IDLE. The resource that a refused FLOW_SUBMIT names, and the fields of a flow that is closed, are log entry 81, and how a command waits for memory is log entries 49, 90 and 107: the model's choices. -/
def Obligations.SchedulerCommands : Prop :=
  (∀ m, Completes memMapSpec .memMap
    (fun c s => newMap s c = some m ∧ s.ddr.map.find? (fun r => regionInUse s r && regionDisturbed m r) = none ∧
      (par c 2 1 % 2 = 1 → s.dev.sbRo = false))
    (fun c s => doneWith c (settleTails
      (if par c 2 1 % 2 = 1 then bookWrite { applyMap s m with book.map := some m } .memoryMap else applyMap s m)) [])) ∧
  (let data := fun (c : Cmd) (l : List Byte) => (c.hlen.toNat = 0 ∧ l = (c.params.drop 16).take (par c 8 4)) ∨
      (c.hlen.toNat ≠ 0 ∧ ∃ b, inBuf c (par c 8 4) = .ok b ∧ l = b.take (par c 8 4))
   (∀ l, Completes memWriteSpec .memWrite
     (fun c s => data c l ∧ memReady s (par c 0 8) (par c 8 4) = true ∧ (memWrite s .memCmd (par c 0 8) l).2 = true)
     (fun c s => doneWith c (memWrite s .memCmd (par c 0 8) l).1 [])) ∧
   (∀ l, Completes memWriteSpec .memWrite
     (fun c s => data c l ∧ memReady s (par c 0 8) (par c 8 4) = true ∧ (memWrite s .memCmd (par c 0 8) l).2 = false)
     (fun c s => replyTo c (memWrite s .memCmd (par c 0 8) l).1 .badParam 4 [])) ∧
   (∀ l, Completes memWriteSpec .memWrite (fun c s => data c l ∧ memReady s (par c 0 8) (par c 8 4) = false)
     (fun c s => memHold c s (par c 0 8) (par c 8 4)))) ∧
  (let start := fun (c : Cmd) (s : State) => startJob c s (.memTrain (par c 0 1) (par c 1 1) (par c 2 1 / 2 % 2 == 1)) []
   let ch := fun (c : Cmd) => Fin.ofNat 8 (par c 1 1)
   let force := fun (c : Cmd) => par c 2 1 % 2 = 1
   let forced := fun (c : Cmd) (s : State) => if par c 2 1 % 2 = 1 then forceQuiet s (dieOfChan (ch c)) else s
   let idle := fun (c : Cmd) (s : State) => chanTaken s (dieOfChan (ch c)) (par c 0 1 == 1) (ch c) = none
   let still := fun (c : Cmd) (s : State) => notQuiet s (dieOfChan (ch c)) (par c 2 1 % 2 == 1) = none
   (∀ m, Completes memTrainSpec .memTrain
     (fun c s => par c 0 1 = 0 ∧ trainDesc c = some m ∧ chanTaken s (Fin.ofNat 2 (par c 1 1)) false 0 = none ∧
       s.ddr.active[(Fin.ofNat 2 (par c 1 1) : Fin 2)] = [] ∧ s.dev.sbRo = false)
     (fun c s => memDescribe (start c s) s.cmdp.nextId (Fin.ofNat 2 (par c 1 1)) m)) ∧
   Completes memTrainSpec .memTrain
     (fun c s => par c 0 1 = 1 ∧ idle c s ∧ s.ddr.chan[ch c].state = .active ∧ (force c ∨ ringOnDie s (dieOfChan (ch c)) = false))
     (fun c s => (start c s).modChan (ch c) fun h => { h with state := .recal, training := some s.cmdp.nextId }) ∧
   Completes memTrainSpec .memTrain
     (fun c s => par c 0 1 = 2 ∧ idle c s ∧ s.ddr.chan[ch c].state ∈ [.active, .failedTrain] ∧ still c s ∧ s.dev.sbRo = false)
     (fun c s => beginTraining ((dieChans (dieOfChan (ch c))).foldl (fun s x => wipeChannel s x.val) (forced c (start c s)))
       (ch c) (some s.cmdp.nextId) false) ∧
   Completes memTrainSpec .memTrain
     (fun c s => par c 0 1 = 3 ∧ idle c s ∧ s.ddr.chan[ch c].state = .active ∧ still c s ∧
       (par c 2 1 / 2 % 2 = 1 → s.dev.sbRo = false))
     (fun c s =>
       let lasting := par c 2 1 / 2 % 2 == 1
       let t := (forced c (start c s)).modChan (ch c) fun h => { h with state := .retired, persist := lasting, byCommand := !lasting }
       let u := if lasting then bookEnter t [{ block := .channel (ch c).val, byCommand := true }] else t
       finishJob (leaveActive u (ch c)) s.cmdp.nextId .done 0 []) ∧
   Completes memTrainSpec .memTrain
     (fun c s => par c 0 1 = 4 ∧ idle c s ∧ s.ddr.chan[ch c].state = .retired ∧ s.ddr.chan[ch c].persist = false ∧ still c s ∧
       s.dev.sbRo = false)
     (fun c s => beginTraining (forced c (start c s)) (ch c) (some s.cmdp.nextId) false)) ∧
  (let good := fun (s : State) (g : Graph) => g.ops.any (badProfile s) = false ∧ deadOp s g = none ∧
      (∀ e ∈ s.sch.flows, flowHolds s e.1 = false ∧ (e.2.state ≠ .closed → collectorUsed g e.2.coll = true))
   (∀ l g, Completes graphLoadSpec .graphLoad
     (fun c s => par c 0 1 = 0 ∧ inBuf c (par c 12 4) = .ok l ∧ graphOf (l.take (par c 12 4)) = some g ∧ good s g)
     (fun c s => finishJob (setGraph (startJob c s .graphLoad []) g) s.cmdp.nextId .done 0 [])) ∧
   (∀ t l e g, Completes graphLoadSpec .graphLoad
     (fun c s => par c 0 1 = 1 ∧ imageRegion s (par c 4 8) (par c 12 4) = true ∧ memReady s (par c 4 8) (par c 12 4) = true ∧
       ddrFetch s .memCmd (par c 4 8) (par c 12 4) = (t, l, e) ∧ graphOf l = some g ∧ good t g)
     (fun c _ => finishJob (setGraph (startJob c t .graphLoad []) g) t.cmdp.nextId .done 0 [])) ∧
   Completes graphLoadSpec .graphLoad
     (fun c s => par c 0 1 = 1 ∧ imageRegion s (par c 4 8) (par c 12 4) = true ∧ memReady s (par c 4 8) (par c 12 4) = false)
     (fun c s => memHold c s (par c 4 8) (par c 12 4))) ∧
  (let all := fun (c : Cmd) (p : Nat → Prop) => ∀ i, i < par c 8 4 + 1 - par c 4 4 → p (par c 4 4 + i)
   Completes flowConfigSpec .flowConfig (fun c s => par c 0 1 = 0 ∧ all c fun f => (s.flow f).state = .closed)
     (fun c s => doneWith c (modRange s (par c 4 4) (par c 8 4) fun _ =>
       { state := .open, keep := par c 2 1 == 1, prio := par c 1 1, coll := par c 12 2, last := BitVec.ofNat 32 (par c 16 4) }) []) ∧
   Completes flowConfigSpec .flowConfig (fun c s => par c 0 1 = 1 ∧ all c fun f => (s.flow f).state = .open)
     (fun c s => doneWith c (modRange s (par c 4 4) (par c 8 4) fun x => { x with prio := par c 1 1 }) []) ∧
   Completes flowConfigSpec .flowConfig
     (fun c s => 2 ≤ par c 0 1 ∧ all c fun f => (s.flow f).state = .open ∧ flowHolds s f = false)
     (fun c s => doneWith c (dropClosed (modRange s (par c 4 4) (par c 8 4) fun _ => {}) (par c 4 4) (par c 8 4)) []) ∧
   (let buffer := fun (c : Cmd) => c.hlen.toNat = 0 ∨ ∃ b, inBuf c (64 * par c 0 2) = .ok b
    (∀ t d, Completes flowSubmitSpec .flowSubmit
      (fun c s => buffer c ∧ itemsDeny s (submitItems c) = none ∧ admitItems s (srcOf c.src) 0 (submitItems c) = (t, [], d))
      (fun c _ => doneWith c t [])) ∧
    (∀ t i r d j, Completes flowSubmitSpec .flowSubmit
      (fun c s => buffer c ∧ itemsDeny s (submitItems c) = none ∧ c.long = true ∧
        admitItems s (srcOf c.src) 0 (submitItems c) = (t, i :: r, d) ∧
        findJob (startJob c s (.flowSubmit (submitItems c) 0) []) s.cmdp.nextId = some j)
      (fun c s =>
        let u := resumeSubmit (startJob c s (.flowSubmit (submitItems c) 0) []) j (submitItems c) 0
        if (i :: r).length = (submitItems c).length then holdBegins u (srcOf c.src) 1 i else u)) ∧
    (∀ t i r d, Completes flowSubmitSpec .flowSubmit
      (fun c s => buffer c ∧ itemsDeny s (submitItems c) = none ∧ c.long = false ∧
        admitItems s (srcOf c.src) 0 (submitItems c) = (t, i :: r, d))
      (fun c s => refuse c s (if t.sch.params.hLimit ≤ t.sch.used then denyRes .busy 0x0E 0 0 else denyFlow .busy t (itFlow i))))) ∧
   (let drain := fun (c : Cmd) (s : State) (discard : Bool) =>
      modRange (startJob c s (.flowDrain (par c 4 4) (par c 8 4)) []) (par c 4 4) (par c 8 4) fun x =>
        { x with state := .draining, discard := discard }
    let each := fun (c : Cmd) (g : State → Nat → State) (s : State) =>
      (List.range (par c 8 4 + 1 - par c 4 4)).foldl (fun s i => g s (par c 4 4 + i)) s
    Completes flowDrainSpec .flowDrain (fun c s => par c 0 1 ≠ 1 ∧ all c fun f => (s.flow f).state = .open)
      (fun c s => dropClosed (each c closeIfEmpty (drain c s false)) (par c 4 4) (par c 8 4)) ∧
    Completes flowDrainSpec .flowDrain (fun c s => par c 0 1 = 1 ∧ all c fun f => (s.flow f).state = .open)
      (fun c s => dropClosed (each c closeIfEmpty (each c dropQueued (drain c s true))) (par c 4 4) (par c 8 4)))) ∧
  (let dom := fun (k : Cooling) (d : Nat) => domainSource (vget ({} : Domain) k.domains d)
   let pro := fun (k : Cooling) (p : Nat) => vget ({} : Profile) k.profiles p
   Completes coolConfigSpec .coolConfig
    (fun c s => let k := coolAfter c s
      (k.period ≠ s.cool.period → domainHolds s 0 = false) ∧
      (∀ d, d < 16 → dom k d ≠ dom s.cool d → domainHolds s d = false) ∧
      (∀ p, p < 16 → profileNamed s p = true → (pro k p).domain = (pro s.cool p).domain ∧ (pro k p).base = (pro s.cool p).base ∧
        ((pro s.cool p).valid = true → (pro k p).valid = true)))
    (fun c s => doneWith c { s with cool := coolAfter c s } [])) ∧
  Completes spillConfigSpec .spillConfig (fun _ _ => True)
    (fun c s => doneWith c (spillNotify (poolNotify { s with sch.params := spillParams c })) []) ∧
  Completes schedTraceSpec .schedTrace (fun c _ => par c 0 1 = 0) (fun c s => doneWith c (traceOff s) []) ∧
  Completes schedTraceSpec .schedTrace (fun c s => par c 0 1 = 1 ∧ (par c 1 1 = 0 → ∃ r, traceRegion s = some r))
    (fun c s => doneWith c (traceOn c (traceOff s)) []) ∧
  Completes schedTraceSpec .schedTrace (fun c _ => 2 ≤ par c 0 1)
    (fun c s => doneWith c { s with trc.armed := s.trc.en && s.trc.matchOn } []) ∧
  (let targets := fun (c : Cmd) (s : State) => (castMask c).filter fun x => !casterGone s x
   let free := fun (s : State) (l : List Nat) => bistChanges s 8 = false ∧ ∀ x ∈ l, (vget ({} : Caster) s.cast x).drain = none
   let load := fun (c : Cmd) (s : State) (k : Kernel) =>
     startDrain (startJob c s (.kernelLoad (BitVec.ofNat 256 (maskOf (targets c s))) (par c 32 1 % 2 == 1) k.id k.prog k.segs 0
       ((castMask c).length - (targets c s).length) 0) []) (targets c s) (.kernel s.cmdp.nextId)
   let fromMemory := fun (c : Cmd) => (BitVec.ofNat 8 (par c 32 1)).getLsbD 1
   (∀ h l k, Completes kernelLoadSpec .kernelLoad
     (fun c s => fromMemory c = false ∧ inBuf c 32 = .ok h ∧ inBuf c (max 32 (leAt (h.take 32) 8 4)) = .ok l ∧
       kernelOf (l.take (max 32 (leAt (h.take 32) 8 4))) = some k ∧ targets c s ≠ [] ∧ free s (targets c s))
     (fun c s => load c s k)) ∧
   (∀ h u v t l e k, Completes kernelLoadSpec .kernelLoad
     (fun c s => fromMemory c = true ∧ imageRegion s (par c 40 8) 32 = true ∧ memReady s (par c 40 8) 32 = true ∧
       ddrFetch s .memCmd (par c 40 8) 32 = (u, h, v) ∧
       imageRegion s (par c 40 8) (max 32 (leAt h 8 4)) = true ∧ memReady s (par c 40 8) (max 32 (leAt h 8 4)) = true ∧
       ddrFetch s .memCmd (par c 40 8) (max 32 (leAt h 8 4)) = (t, l, e) ∧
       kernelOf l = some k ∧ targets c t ≠ [] ∧ free t (targets c t))
     (fun c _ => load c t k)) ∧
   Completes kernelLoadSpec .kernelLoad
     (fun c s => fromMemory c = true ∧ imageRegion s (par c 40 8) 32 = true ∧ memReady s (par c 40 8) 32 = false)
     (fun c s => memHold c s (par c 40 8) 32) ∧
   Completes casterRetireSpec .casterRetire
    (fun c s => par c 32 1 ≠ 1 ∧ targets c s ≠ [] ∧ free s (targets c s) ∧ (par c 33 1 / 2 % 2 = 1 → s.dev.sbRo = false))
    (fun c s =>
      let lasting := par c 33 1 / 2 % 2 == 1
      let t := startJob c s (.casterRetire (BitVec.ofNat 256 (maskOf (targets c s))) (par c 33 1 % 2 == 1) lasting) []
      let again := (castMask c).filter fun x => (vget ({} : Caster) t.cast x).mode == .retired
      let u := startDrain (if lasting then again.foldl bookRetired t else t) (targets c s) (.retire s.cmdp.nextId lasting)
      if par c 33 1 % 2 = 1 then forceOut u (targets c s) else u) ∧
   Completes casterRetireSpec .casterRetire
    (fun c s => par c 32 1 = 1 ∧ free s (castMask c) ∧
      ∀ x ∈ castMask c, (vget ({} : Caster) s.cast x).mode ≠ .excluded ∧ (vget ({} : Caster) s.cast x).persist = false)
    (fun c s => finishJob (unretire (startJob c s (.casterRetire 0 false false) []) (castMask c)) s.cmdp.nextId .done 0 []))

/-- O56. A host command that is refused by its checks changes nothing but its reply. For every row that carries a host command, in a state in which commands are served and nothing makes it wait: where one of the checks 1 to 8 fails, the row answers the next state in which its port has counted the command and the reply with that check's status, DETAIL and data has gone its way; only the host ports, the output log, the event bits of HUB_EVT with the time of the last error event, and the musters that a mailbox event or port error may request differ from the state before. Where they all pass and the entry's own checks refuse the command, the answer is that refusal. Outside the states in which commands are served, the row changes nothing. -/
def Obligations.RefusedCommands : Prop :=
  ∀ (i : Instr) (op : Nat) (c : Cmd) (sp : CmdSpec) (body : CmdBody) (s : State),
    i.hostCmd = some (op, c) → cmdOf op = some (sp, body) →
    (served s = false → exec i s = .next s) ∧
    (∀ d, Reaches sp c s → checkCmd sp (typed sp c) (counted c s) = some d →
      ∃ t, exec i s = .next t ∧ t = refuse (typed sp c) (counted c s) d ∧
        t.fuse = s.fuse ∧ t.dev = { s.dev with evt := t.dev.evt, lastErr := t.dev.lastErr } ∧ t.sec = s.sec ∧ t.book = s.book ∧ t.cmdp = s.cmdp ∧ t.pps = s.pps ∧ t.gov = s.gov ∧
        t.cfg = s.cfg ∧ t.pdk = s.pdk ∧ t.fab = s.fab ∧ t.cast = s.cast ∧ t.sch = s.sch ∧ t.cool = s.cool ∧ t.trc = s.trc ∧
        t.cxp = s.cxp ∧ t.trig = s.trig ∧ t.ddr = s.ddr ∧ t.pins = s.pins ∧ t.free = s.free ∧ t.pending = s.pending) ∧
    (∀ d, Begins sp c s → body (typed sp c) (counted c s) = .error d → exec i s = .next (refuse (typed sp c) (counted c s) d))

/-- O57. The order of the checks of a host command. The first check that fails gives the refusal, in the order: header CRC (CHECK_FAILED 1); header version, flags and length (BAD_PARAM 1); opcode (BAD_OPCODE); parameter size and target (BAD_PARAM 2); life-cycle restrictions (LIFECYCLE_REFUSED); device state (STATE_REFUSED of class 0 with the state's code); semaphores (SEM_NOT_HELD with the semaphore); then the parameters and the host buffer. A command that passes them all is carried out or refused by its entry's own checks, on the state as it stands when it begins. The order inside check 8 (semaphore field, target, buffer, parameters), after the semaphores, is log entry 48, the model's choice. -/
def Obligations.CheckOrder : Prop :=
  ∀ (sp : CmdSpec) (c : Cmd) (s : State),
    let target := fun (c : Cmd) => match sp.target with
      | some (k, _) => c.tclass.toNat = k
      | none => c.tclass.toNat = 0 ∧ c.tindex.toNat = 0
    (c.hdr = 1 → checkCmd sp c s = some { st := .check, detail := 1 }) ∧
    (c.hdr ≠ 0 → c.hdr ≠ 1 → checkCmd sp c s = some { st := .badParam, detail := 1 }) ∧
    (c.hdr = 0 →
      (sp.known = false → checkCmd sp c s = some { st := .badOpcode }) ∧
      (sp.known = true →
        (sp.size c = false ∨ ¬target c → checkCmd sp c s = some { st := .badParam, detail := 2 }) ∧
        (sp.size c = true → target c →
          (sp.life c s = false → checkCmd sp c s = some { st := .lifecycle }) ∧
          (sp.life c s = true →
            (s.dev.state ∉ sp.states → checkCmd sp c s =
              some { st := .stateRefused, detail := devCode s.dev.state, data := leBytes 4 0 }) ∧
            (s.dev.state ∈ sp.states →
              (∀ n, semCheck s c (sp.touches c s) = some n → checkCmd sp c s = some { st := .semNotHeld, detail := n }) ∧
              (semCheck s c (sp.touches c s) = none →
                (64 ≤ c.sem.toNat → c.sem ≠ 0xFFFF → checkCmd sp c s = some { st := .badParam, detail := 4 }) ∧
                (c.sem.toNat < 64 ∨ c.sem = 0xFFFF →
                  (∀ k n, sp.target = some (k, n) → n ≤ c.tindex.toNat → checkCmd sp c s = some { st := .badParam, detail := 4 }) ∧
                  ((∀ k n, sp.target = some (k, n) → c.tindex.toNat < n) →
                    (sp.buffer = false → c.hlen ≠ 0 → checkCmd sp c s = some { st := .badParam, detail := 4 }) ∧
                    (sp.buffer = true ∨ c.hlen = 0 → checkCmd sp c s = sp.params c s)))))))))

/-- O58. Every command answers a next state, but for the internal scan. In every state every command of the block answers a next state, with one exception: a JTAG internal-scan instruction, in a device that is powered and not held in reset, with the scan enabled, is refused by name. A step therefore never ends in a fault, and it completes unless such an instruction stands at the front of the queue. That an event whose enabling condition does not hold changes nothing is the model's choice (log entry 1). -/
def Obligations.EveryCommandAnswers : Prop :=
  (∀ (i : Instr) (s : State), (∃ t, exec i s = .next t) ∨
    ∃ c l, i = .jtagInstruction ⟨.internal c, l⟩ ∧ s.sec.scan = true ∧ s.dev.state ≠ .off ∧ s.dev.heldInReset = false ∧
      exec i s = .refused (.internalScan c)) ∧
  (∀ s, (∀ c l rest, s.pending ≠ .jtagInstruction ⟨.internal c, l⟩ :: rest) → SafeStep s)

/-- O59. Fuses are only ever blown. Whatever command stands at the front of the queue, and on an empty queue too, a step leaves the fuses of a unit as they were with at most more of them blown: the identity, the lot, the die and the public-key hash never change, the life-cycle state never goes back in the order of Table 16-8, a key slot once programmed keeps its key, and key slots once disabled stay disabled. So for any fuses f, a step keeps the invariant that the unit's fuses are f with at most more blown. -/
def Obligations.FusesOnlyGrow : Prop :=
  ∀ (f : Fuses) (s t : State), FusesGrow f s.fuse → step s = .next t → FusesGrow f t.fuse

/-- O60. The state after reset. After reset yard time is 0, the device is in STARTING and serves nothing, every paddock is EMPTY, every link is OFF, every caster's registers are stored as 0, no flow holds anything, no command waits or runs, no semaphore is owned, every memory lists nothing, and the fuses are themselves with nothing more blown. That the queue of waiting commands is empty is the model's own. -/
def Obligations.ResetState : Prop :=
  let s := State.reset
  s.dev.yard = 0 ∧ s.dev.state = .starting ∧ served s = false ∧
  (∀ k : Fin 64, s.pdk[k].state = .empty) ∧ (∀ n : Fin 128, s.cxp.links[n].state = .off) ∧
  (∀ c : Fin 256, (∀ r : Fin 32, s.cast[c].v[r] = 0) ∧ (∀ r : Fin 16, s.cast[c].sreg[r] = 0) ∧ (∀ r : Fin 4, s.cast[c].acc[r] = 0) ∧
    (∀ r : Fin 8, s.cast[c].k[r] = 0)) ∧
  s.sch.flows = [] ∧ s.cmdp.jobs = [] ∧ s.cmdp.held = [] ∧ s.pending = [] ∧
  (∀ n : Fin 64, s.hosts.sem[n].owner = none) ∧
  s.ddr.bytes = [] ∧ (∀ c : Fin 256, s.cast[c].mem = []) ∧ (∀ p : Fin 2, s.hosts.port[p].windows = []) ∧
  FusesGrow s.fuse s.fuse
end

