-- ==== Sys2Proof/Laws/Tab.lean ====
section
/-! SUPPORT. Laws of the sparse tables and arrays: every memory operation keeps the canonical form, and what a read finds
after a write. -/

namespace Sys2Proof.Laws

open Sys2Proof Machine

variable {α : Type} [DecidableEq α] {d : α}

/-! ### The canonical form -/

section

variable {d : Nat → α}

/-- A lower bound of the keys may be lowered, or dropped. -/
theorem tabFrom_weaken {lo : Option Nat} {k : Nat} {t : Tab α} (h : tabFrom d (some k) t = true)
    (hk : ∀ l, lo = some l → l ≤ k) : tabFrom d lo t = true := by
  cases t with
  | nil => rfl
  | cons e r =>
    obtain ⟨j, v⟩ := e
    cases lo with
    | none => simp_all [tabFrom]
    | some l =>
      have := hk l rfl
      simp only [tabFrom, Bool.and_eq_true, decide_eq_true_eq] at h ⊢
      exact ⟨⟨by omega, h.1.2⟩, h.2⟩

theorem tabFrom_tput {lo : Option Nat} {t : Tab α} {k : Nat} {v : α} (h : tabFrom d lo t = true)
    (hk : ∀ l, lo = some l → l < k) : tabFrom d lo (tput (d k) t k v) = true := by
  induction t generalizing lo with
  | nil =>
    unfold tput
    split
    · rfl
    · cases lo with
      | none => simp_all [tabFrom]
      | some l => simp_all [tabFrom]
  | cons e r ih =>
    obtain ⟨j, w⟩ := e
    have hr : tabFrom d (some j) r = true := by simp_all [tabFrom]
    have hw : w ≠ d j := by simp_all [tabFrom]
    unfold tput
    split
    · split
      · exact h
      · cases lo with
        | none => simp_all [tabFrom]
        | some l => simp_all [tabFrom]
    · split
      · rename_i hjk
        subst hjk
        split
        · exact tabFrom_weaken hr fun l hl => Nat.le_of_lt (hk l hl)
        · cases lo with
          | none => simp_all [tabFrom]
          | some l => simp_all [tabFrom]
      · have := ih hr (by intro l hl; cases hl; omega)
        cases lo with
        | none => simp_all [tabFrom]
        | some l => simp_all [tabFrom]

theorem tabFrom_tdrop {lo : Option Nat} {t : Tab α} (p : Nat → Bool) (h : tabFrom d lo t = true) :
    tabFrom d lo (tdrop p t) = true := by
  induction t generalizing lo with
  | nil => rfl
  | cons e r ih =>
    obtain ⟨j, w⟩ := e
    have hr : tabFrom d (some j) r = true := by simp_all [tabFrom]
    simp only [tdrop, List.filter_cons]
    split
    · have := ih hr
      cases lo <;> simp_all [tabFrom, tdrop]
    · refine tabFrom_weaken (k := j) (ih hr) ?_
      intro l hl
      subst hl
      simp only [tabFrom, Bool.and_eq_true, decide_eq_true_eq] at h
      omega

theorem tget_of_from {lo k : Nat} {t : Tab α} (h : tabFrom d (some lo) t = true) (hk : k ≤ lo) : tget (d k) t k = d k := by
  induction t generalizing lo with
  | nil => rfl
  | cons e r ih =>
    obtain ⟨j, w⟩ := e
    simp only [tabFrom, Bool.and_eq_true, decide_eq_true_eq] at h
    rw [tget, if_neg (by omega)]
    exact ih h.2 (by omega)

theorem tget_tput_from {lo : Option Nat} {t : Tab α} (k j : Nat) (v : α) (h : tabFrom d lo t = true) :
    tget (d j) (tput (d k) t k v) j = if k = j then v else tget (d j) t j := by
  induction t generalizing lo with
  | nil => by_cases hv : v = d k <;> by_cases hj : k = j <;> simp_all [tput, tget]
  | cons e r ih =>
    obtain ⟨i, w⟩ := e
    have hr : tabFrom d (some i) r = true := by simp_all [tabFrom]
    have hi := ih hr
    unfold tput
    split
    · rename_i hki
      have : tget (d k) r k = d k := tget_of_from hr (by omega)
      by_cases hv : v = d k <;> by_cases hj : k = j <;> simp_all [tget]
      all_goals (intros; omega)
    · split
      · rename_i hki
        subst hki
        have : tget (d k) r k = d k := tget_of_from hr (Nat.le_refl _)
        by_cases hv : v = d k <;> by_cases hj : k = j <;> simp_all [tget]
      · by_cases hj : k = j
        · subst hj; simp_all [tget]; intro; omega
        · simp_all [tget]

end

/-- Setting a key keeps the canonical form. -/
theorem tput_wf {t : Tab α} (k : Nat) (v : α) (h : tabWf d t = true) : tabWf d (tput d t k v) = true :=
  tabFrom_tput h (by simp)

/-- Changing the value of a key keeps the canonical form. -/
theorem tmod_wf {t : Tab α} (k : Nat) (f : α → α) (h : tabWf d t = true) : tabWf d (tmod d t k f) = true := tput_wf _ _ h

/-- Dropping entries keeps the canonical form. -/
theorem tdrop_wf {t : Tab α} (p : Nat → Bool) (h : tabWf d t = true) : tabWf d (tdrop p t) = true := tabFrom_tdrop p h

/-- Writing bytes keeps the canonical form of a memory. -/
theorem writeBytes_wf {m : Memory} (a : Nat) (l : List Byte) (h : Memory.wf m) : Memory.wf (writeBytes m a l) := by
  induction l generalizing m a with
  | nil => exact h
  | cons b r ih => exact ih (a := a + 1) (tput_wf a b h)

/-- Writing the enabled bytes keeps the canonical form of a memory. -/
theorem writeEnabled_wf {f : Nat → Byte} {m : Memory} (a : Nat) (l : List (Option Byte)) (h : filledWf f m) :
    filledWf f (writeEnabled f m a l) := by
  induction l generalizing m a with
  | nil => exact h
  | cons b r ih => cases b with
    | none => exact ih (a := a + 1) h
    | some b => exact ih (a := a + 1) (tabFrom_tput h (by simp))

/-- Dropping entries keeps the canonical form of a memory whose unlisted bytes read alike. -/
theorem tdrop_filled {f : Nat → Byte} {m : Memory} (p : Nat → Bool) (h : filledWf f m) : filledWf f (tdrop p m) :=
  tabFrom_tdrop p h

/-! ### Reads after writes -/

/-- A read after a write finds the value written, and every other key as before. -/
theorem tget_tput {t : Tab α} (k j : Nat) (v : α) (h : tabWf d t = true) :
    tget d (tput d t k v) j = if k = j then v else tget d t j := tget_tput_from k j v h

/-- What a byte of a memory holds after bytes were written from `a`. -/
theorem tget_writeBytes {m : Memory} (a : Nat) (l : List Byte) (h : Memory.wf m) (y : Nat) :
    tget 0 (writeBytes m a l) y = if a ≤ y ∧ y < a + l.length then byteAt l (y - a) else tget 0 m y := by
  induction l generalizing m a with
  | nil => rw [writeBytes, if_neg (by simp only [List.length_nil]; omega)]
  | cons b r ih =>
    rw [writeBytes, ih (a + 1) (tput_wf a b h), tget_tput a y b h, List.length_cons]
    by_cases h1 : a = y
    · subst h1
      rw [if_neg (by omega), if_pos rfl, if_pos (by omega)]
      simp [byteAt]
    · by_cases h2 : a + 1 ≤ y ∧ y < a + 1 + r.length
      · rw [if_pos h2, if_pos (by omega)]
        obtain ⟨n, rfl⟩ : ∃ n, y = a + 1 + n := ⟨y - (a + 1), by omega⟩
        simp [byteAt, show a + 1 + n - a = n + 1 by omega, show a + 1 + n - (a + 1) = n by omega]
      · rw [if_neg h2, if_neg h1, if_neg (by omega)]

/-! ### Arrays -/

@[simp] theorem vset_get {β : Type} {n : Nat} (v : Vector β n) (i : Fin n) (x : β) : (vset v i x)[i.val] = x := by simp [vset]

theorem vset_get_ne {β : Type} {n : Nat} (v : Vector β n) (i j : Fin n) (x : β) (h : i ≠ j) :
    (vset v i x)[j.val] = v[j.val] := by
  have : i.val ≠ j.val := fun e => h (Fin.ext e)
  simp [vset, Vector.getElem_set_ne, this]

@[simp] theorem vmod_get {β : Type} {n : Nat} (v : Vector β n) (i : Fin n) (f : β → β) :
    (vmod v i f)[i.val] = f v[i.val] := vset_get v i _

theorem vmod_get_ne {β : Type} {n : Nat} (v : Vector β n) (i j : Fin n) (f : β → β) (h : i ≠ j) :
    (vmod v i f)[j.val] = v[j.val] := vset_get_ne v i j _ h

/-- An array changed twice at one place. -/
@[simp] theorem vmod_vmod {β : Type} {n : Nat} (v : Vector β n) (i : Fin n) (f g : β → β) :
    vmod (vmod v i f) i g = vmod v i (fun x => g (f x)) := by simp [vmod, vset]

end Sys2Proof.Laws
end

