-- ==== Sys2Proof/Laws/State.lean ====
section
/-! SUPPORT. Laws of the state: for each named update, what every field of the state is after it. -/

namespace Sys2Proof.Laws

open Sys2Proof Machine

variable (s : State)

/-! ### `modPort` changes `hosts` alone -/

@[simp] theorem modPort_fuse (p : Fin 2) (f : Port → Port) : (s.modPort p f).fuse = s.fuse := rfl
@[simp] theorem modPort_dev (p : Fin 2) (f : Port → Port) : (s.modPort p f).dev = s.dev := rfl
@[simp] theorem modPort_sec (p : Fin 2) (f : Port → Port) : (s.modPort p f).sec = s.sec := rfl
@[simp] theorem modPort_book (p : Fin 2) (f : Port → Port) : (s.modPort p f).book = s.book := rfl
@[simp] theorem modPort_cmdp (p : Fin 2) (f : Port → Port) : (s.modPort p f).cmdp = s.cmdp := rfl
@[simp] theorem modPort_mus (p : Fin 2) (f : Port → Port) : (s.modPort p f).mus = s.mus := rfl
@[simp] theorem modPort_pps (p : Fin 2) (f : Port → Port) : (s.modPort p f).pps = s.pps := rfl
@[simp] theorem modPort_gov (p : Fin 2) (f : Port → Port) : (s.modPort p f).gov = s.gov := rfl
@[simp] theorem modPort_cfg (p : Fin 2) (f : Port → Port) : (s.modPort p f).cfg = s.cfg := rfl
@[simp] theorem modPort_pdk (p : Fin 2) (f : Port → Port) : (s.modPort p f).pdk = s.pdk := rfl
@[simp] theorem modPort_fab (p : Fin 2) (f : Port → Port) : (s.modPort p f).fab = s.fab := rfl
@[simp] theorem modPort_cast (p : Fin 2) (f : Port → Port) : (s.modPort p f).cast = s.cast := rfl
@[simp] theorem modPort_sch (p : Fin 2) (f : Port → Port) : (s.modPort p f).sch = s.sch := rfl
@[simp] theorem modPort_cool (p : Fin 2) (f : Port → Port) : (s.modPort p f).cool = s.cool := rfl
@[simp] theorem modPort_trc (p : Fin 2) (f : Port → Port) : (s.modPort p f).trc = s.trc := rfl
@[simp] theorem modPort_cxp (p : Fin 2) (f : Port → Port) : (s.modPort p f).cxp = s.cxp := rfl
@[simp] theorem modPort_trig (p : Fin 2) (f : Port → Port) : (s.modPort p f).trig = s.trig := rfl
@[simp] theorem modPort_ddr (p : Fin 2) (f : Port → Port) : (s.modPort p f).ddr = s.ddr := rfl
@[simp] theorem modPort_pins (p : Fin 2) (f : Port → Port) : (s.modPort p f).pins = s.pins := rfl
@[simp] theorem modPort_out (p : Fin 2) (f : Port → Port) : (s.modPort p f).out = s.out := rfl
@[simp] theorem modPort_free (p : Fin 2) (f : Port → Port) : (s.modPort p f).free = s.free := rfl
@[simp] theorem modPort_pending (p : Fin 2) (f : Port → Port) : (s.modPort p f).pending = s.pending := rfl

/-! ### `modRing` changes `hosts` alone -/

@[simp] theorem modRing_fuse (p : Fin 2) (r : Fin 24) (f : Ring → Ring) : (s.modRing p r f).fuse = s.fuse := rfl
@[simp] theorem modRing_dev (p : Fin 2) (r : Fin 24) (f : Ring → Ring) : (s.modRing p r f).dev = s.dev := rfl
@[simp] theorem modRing_sec (p : Fin 2) (r : Fin 24) (f : Ring → Ring) : (s.modRing p r f).sec = s.sec := rfl
@[simp] theorem modRing_book (p : Fin 2) (r : Fin 24) (f : Ring → Ring) : (s.modRing p r f).book = s.book := rfl
@[simp] theorem modRing_cmdp (p : Fin 2) (r : Fin 24) (f : Ring → Ring) : (s.modRing p r f).cmdp = s.cmdp := rfl
@[simp] theorem modRing_mus (p : Fin 2) (r : Fin 24) (f : Ring → Ring) : (s.modRing p r f).mus = s.mus := rfl
@[simp] theorem modRing_pps (p : Fin 2) (r : Fin 24) (f : Ring → Ring) : (s.modRing p r f).pps = s.pps := rfl
@[simp] theorem modRing_gov (p : Fin 2) (r : Fin 24) (f : Ring → Ring) : (s.modRing p r f).gov = s.gov := rfl
@[simp] theorem modRing_cfg (p : Fin 2) (r : Fin 24) (f : Ring → Ring) : (s.modRing p r f).cfg = s.cfg := rfl
@[simp] theorem modRing_pdk (p : Fin 2) (r : Fin 24) (f : Ring → Ring) : (s.modRing p r f).pdk = s.pdk := rfl
@[simp] theorem modRing_fab (p : Fin 2) (r : Fin 24) (f : Ring → Ring) : (s.modRing p r f).fab = s.fab := rfl
@[simp] theorem modRing_cast (p : Fin 2) (r : Fin 24) (f : Ring → Ring) : (s.modRing p r f).cast = s.cast := rfl
@[simp] theorem modRing_sch (p : Fin 2) (r : Fin 24) (f : Ring → Ring) : (s.modRing p r f).sch = s.sch := rfl
@[simp] theorem modRing_cool (p : Fin 2) (r : Fin 24) (f : Ring → Ring) : (s.modRing p r f).cool = s.cool := rfl
@[simp] theorem modRing_trc (p : Fin 2) (r : Fin 24) (f : Ring → Ring) : (s.modRing p r f).trc = s.trc := rfl
@[simp] theorem modRing_cxp (p : Fin 2) (r : Fin 24) (f : Ring → Ring) : (s.modRing p r f).cxp = s.cxp := rfl
@[simp] theorem modRing_trig (p : Fin 2) (r : Fin 24) (f : Ring → Ring) : (s.modRing p r f).trig = s.trig := rfl
@[simp] theorem modRing_ddr (p : Fin 2) (r : Fin 24) (f : Ring → Ring) : (s.modRing p r f).ddr = s.ddr := rfl
@[simp] theorem modRing_pins (p : Fin 2) (r : Fin 24) (f : Ring → Ring) : (s.modRing p r f).pins = s.pins := rfl
@[simp] theorem modRing_out (p : Fin 2) (r : Fin 24) (f : Ring → Ring) : (s.modRing p r f).out = s.out := rfl
@[simp] theorem modRing_free (p : Fin 2) (r : Fin 24) (f : Ring → Ring) : (s.modRing p r f).free = s.free := rfl
@[simp] theorem modRing_pending (p : Fin 2) (r : Fin 24) (f : Ring → Ring) : (s.modRing p r f).pending = s.pending := rfl

/-! ### `modPdk` changes `pdk` alone -/

@[simp] theorem modPdk_fuse (k : Fin 64) (f : Paddock → Paddock) : (s.modPdk k f).fuse = s.fuse := rfl
@[simp] theorem modPdk_dev (k : Fin 64) (f : Paddock → Paddock) : (s.modPdk k f).dev = s.dev := rfl
@[simp] theorem modPdk_sec (k : Fin 64) (f : Paddock → Paddock) : (s.modPdk k f).sec = s.sec := rfl
@[simp] theorem modPdk_book (k : Fin 64) (f : Paddock → Paddock) : (s.modPdk k f).book = s.book := rfl
@[simp] theorem modPdk_hosts (k : Fin 64) (f : Paddock → Paddock) : (s.modPdk k f).hosts = s.hosts := rfl
@[simp] theorem modPdk_cmdp (k : Fin 64) (f : Paddock → Paddock) : (s.modPdk k f).cmdp = s.cmdp := rfl
@[simp] theorem modPdk_mus (k : Fin 64) (f : Paddock → Paddock) : (s.modPdk k f).mus = s.mus := rfl
@[simp] theorem modPdk_pps (k : Fin 64) (f : Paddock → Paddock) : (s.modPdk k f).pps = s.pps := rfl
@[simp] theorem modPdk_gov (k : Fin 64) (f : Paddock → Paddock) : (s.modPdk k f).gov = s.gov := rfl
@[simp] theorem modPdk_cfg (k : Fin 64) (f : Paddock → Paddock) : (s.modPdk k f).cfg = s.cfg := rfl
@[simp] theorem modPdk_fab (k : Fin 64) (f : Paddock → Paddock) : (s.modPdk k f).fab = s.fab := rfl
@[simp] theorem modPdk_cast (k : Fin 64) (f : Paddock → Paddock) : (s.modPdk k f).cast = s.cast := rfl
@[simp] theorem modPdk_sch (k : Fin 64) (f : Paddock → Paddock) : (s.modPdk k f).sch = s.sch := rfl
@[simp] theorem modPdk_cool (k : Fin 64) (f : Paddock → Paddock) : (s.modPdk k f).cool = s.cool := rfl
@[simp] theorem modPdk_trc (k : Fin 64) (f : Paddock → Paddock) : (s.modPdk k f).trc = s.trc := rfl
@[simp] theorem modPdk_cxp (k : Fin 64) (f : Paddock → Paddock) : (s.modPdk k f).cxp = s.cxp := rfl
@[simp] theorem modPdk_trig (k : Fin 64) (f : Paddock → Paddock) : (s.modPdk k f).trig = s.trig := rfl
@[simp] theorem modPdk_ddr (k : Fin 64) (f : Paddock → Paddock) : (s.modPdk k f).ddr = s.ddr := rfl
@[simp] theorem modPdk_pins (k : Fin 64) (f : Paddock → Paddock) : (s.modPdk k f).pins = s.pins := rfl
@[simp] theorem modPdk_out (k : Fin 64) (f : Paddock → Paddock) : (s.modPdk k f).out = s.out := rfl
@[simp] theorem modPdk_free (k : Fin 64) (f : Paddock → Paddock) : (s.modPdk k f).free = s.free := rfl
@[simp] theorem modPdk_pending (k : Fin 64) (f : Paddock → Paddock) : (s.modPdk k f).pending = s.pending := rfl

/-! ### `modPdks` changes `pdk` alone -/

@[simp] theorem modPdks_fuse (l : List Nat) (f : Paddock → Paddock) : (s.modPdks l f).fuse = s.fuse := rfl
@[simp] theorem modPdks_dev (l : List Nat) (f : Paddock → Paddock) : (s.modPdks l f).dev = s.dev := rfl
@[simp] theorem modPdks_sec (l : List Nat) (f : Paddock → Paddock) : (s.modPdks l f).sec = s.sec := rfl
@[simp] theorem modPdks_book (l : List Nat) (f : Paddock → Paddock) : (s.modPdks l f).book = s.book := rfl
@[simp] theorem modPdks_hosts (l : List Nat) (f : Paddock → Paddock) : (s.modPdks l f).hosts = s.hosts := rfl
@[simp] theorem modPdks_cmdp (l : List Nat) (f : Paddock → Paddock) : (s.modPdks l f).cmdp = s.cmdp := rfl
@[simp] theorem modPdks_mus (l : List Nat) (f : Paddock → Paddock) : (s.modPdks l f).mus = s.mus := rfl
@[simp] theorem modPdks_pps (l : List Nat) (f : Paddock → Paddock) : (s.modPdks l f).pps = s.pps := rfl
@[simp] theorem modPdks_gov (l : List Nat) (f : Paddock → Paddock) : (s.modPdks l f).gov = s.gov := rfl
@[simp] theorem modPdks_cfg (l : List Nat) (f : Paddock → Paddock) : (s.modPdks l f).cfg = s.cfg := rfl
@[simp] theorem modPdks_fab (l : List Nat) (f : Paddock → Paddock) : (s.modPdks l f).fab = s.fab := rfl
@[simp] theorem modPdks_cast (l : List Nat) (f : Paddock → Paddock) : (s.modPdks l f).cast = s.cast := rfl
@[simp] theorem modPdks_sch (l : List Nat) (f : Paddock → Paddock) : (s.modPdks l f).sch = s.sch := rfl
@[simp] theorem modPdks_cool (l : List Nat) (f : Paddock → Paddock) : (s.modPdks l f).cool = s.cool := rfl
@[simp] theorem modPdks_trc (l : List Nat) (f : Paddock → Paddock) : (s.modPdks l f).trc = s.trc := rfl
@[simp] theorem modPdks_cxp (l : List Nat) (f : Paddock → Paddock) : (s.modPdks l f).cxp = s.cxp := rfl
@[simp] theorem modPdks_trig (l : List Nat) (f : Paddock → Paddock) : (s.modPdks l f).trig = s.trig := rfl
@[simp] theorem modPdks_ddr (l : List Nat) (f : Paddock → Paddock) : (s.modPdks l f).ddr = s.ddr := rfl
@[simp] theorem modPdks_pins (l : List Nat) (f : Paddock → Paddock) : (s.modPdks l f).pins = s.pins := rfl
@[simp] theorem modPdks_out (l : List Nat) (f : Paddock → Paddock) : (s.modPdks l f).out = s.out := rfl
@[simp] theorem modPdks_free (l : List Nat) (f : Paddock → Paddock) : (s.modPdks l f).free = s.free := rfl
@[simp] theorem modPdks_pending (l : List Nat) (f : Paddock → Paddock) : (s.modPdks l f).pending = s.pending := rfl

/-! ### `modCast` changes `cast` alone -/

@[simp] theorem modCast_fuse (c : Fin 256) (f : Caster → Caster) : (s.modCast c f).fuse = s.fuse := rfl
@[simp] theorem modCast_dev (c : Fin 256) (f : Caster → Caster) : (s.modCast c f).dev = s.dev := rfl
@[simp] theorem modCast_sec (c : Fin 256) (f : Caster → Caster) : (s.modCast c f).sec = s.sec := rfl
@[simp] theorem modCast_book (c : Fin 256) (f : Caster → Caster) : (s.modCast c f).book = s.book := rfl
@[simp] theorem modCast_hosts (c : Fin 256) (f : Caster → Caster) : (s.modCast c f).hosts = s.hosts := rfl
@[simp] theorem modCast_cmdp (c : Fin 256) (f : Caster → Caster) : (s.modCast c f).cmdp = s.cmdp := rfl
@[simp] theorem modCast_mus (c : Fin 256) (f : Caster → Caster) : (s.modCast c f).mus = s.mus := rfl
@[simp] theorem modCast_pps (c : Fin 256) (f : Caster → Caster) : (s.modCast c f).pps = s.pps := rfl
@[simp] theorem modCast_gov (c : Fin 256) (f : Caster → Caster) : (s.modCast c f).gov = s.gov := rfl
@[simp] theorem modCast_cfg (c : Fin 256) (f : Caster → Caster) : (s.modCast c f).cfg = s.cfg := rfl
@[simp] theorem modCast_pdk (c : Fin 256) (f : Caster → Caster) : (s.modCast c f).pdk = s.pdk := rfl
@[simp] theorem modCast_fab (c : Fin 256) (f : Caster → Caster) : (s.modCast c f).fab = s.fab := rfl
@[simp] theorem modCast_sch (c : Fin 256) (f : Caster → Caster) : (s.modCast c f).sch = s.sch := rfl
@[simp] theorem modCast_cool (c : Fin 256) (f : Caster → Caster) : (s.modCast c f).cool = s.cool := rfl
@[simp] theorem modCast_trc (c : Fin 256) (f : Caster → Caster) : (s.modCast c f).trc = s.trc := rfl
@[simp] theorem modCast_cxp (c : Fin 256) (f : Caster → Caster) : (s.modCast c f).cxp = s.cxp := rfl
@[simp] theorem modCast_trig (c : Fin 256) (f : Caster → Caster) : (s.modCast c f).trig = s.trig := rfl
@[simp] theorem modCast_ddr (c : Fin 256) (f : Caster → Caster) : (s.modCast c f).ddr = s.ddr := rfl
@[simp] theorem modCast_pins (c : Fin 256) (f : Caster → Caster) : (s.modCast c f).pins = s.pins := rfl
@[simp] theorem modCast_out (c : Fin 256) (f : Caster → Caster) : (s.modCast c f).out = s.out := rfl
@[simp] theorem modCast_free (c : Fin 256) (f : Caster → Caster) : (s.modCast c f).free = s.free := rfl
@[simp] theorem modCast_pending (c : Fin 256) (f : Caster → Caster) : (s.modCast c f).pending = s.pending := rfl

/-! ### `modLink` changes `cxp` alone -/

@[simp] theorem modLink_fuse (n : Fin 128) (f : Link → Link) : (s.modLink n f).fuse = s.fuse := rfl
@[simp] theorem modLink_dev (n : Fin 128) (f : Link → Link) : (s.modLink n f).dev = s.dev := rfl
@[simp] theorem modLink_sec (n : Fin 128) (f : Link → Link) : (s.modLink n f).sec = s.sec := rfl
@[simp] theorem modLink_book (n : Fin 128) (f : Link → Link) : (s.modLink n f).book = s.book := rfl
@[simp] theorem modLink_hosts (n : Fin 128) (f : Link → Link) : (s.modLink n f).hosts = s.hosts := rfl
@[simp] theorem modLink_cmdp (n : Fin 128) (f : Link → Link) : (s.modLink n f).cmdp = s.cmdp := rfl
@[simp] theorem modLink_mus (n : Fin 128) (f : Link → Link) : (s.modLink n f).mus = s.mus := rfl
@[simp] theorem modLink_pps (n : Fin 128) (f : Link → Link) : (s.modLink n f).pps = s.pps := rfl
@[simp] theorem modLink_gov (n : Fin 128) (f : Link → Link) : (s.modLink n f).gov = s.gov := rfl
@[simp] theorem modLink_cfg (n : Fin 128) (f : Link → Link) : (s.modLink n f).cfg = s.cfg := rfl
@[simp] theorem modLink_pdk (n : Fin 128) (f : Link → Link) : (s.modLink n f).pdk = s.pdk := rfl
@[simp] theorem modLink_fab (n : Fin 128) (f : Link → Link) : (s.modLink n f).fab = s.fab := rfl
@[simp] theorem modLink_cast (n : Fin 128) (f : Link → Link) : (s.modLink n f).cast = s.cast := rfl
@[simp] theorem modLink_sch (n : Fin 128) (f : Link → Link) : (s.modLink n f).sch = s.sch := rfl
@[simp] theorem modLink_cool (n : Fin 128) (f : Link → Link) : (s.modLink n f).cool = s.cool := rfl
@[simp] theorem modLink_trc (n : Fin 128) (f : Link → Link) : (s.modLink n f).trc = s.trc := rfl
@[simp] theorem modLink_trig (n : Fin 128) (f : Link → Link) : (s.modLink n f).trig = s.trig := rfl
@[simp] theorem modLink_ddr (n : Fin 128) (f : Link → Link) : (s.modLink n f).ddr = s.ddr := rfl
@[simp] theorem modLink_pins (n : Fin 128) (f : Link → Link) : (s.modLink n f).pins = s.pins := rfl
@[simp] theorem modLink_out (n : Fin 128) (f : Link → Link) : (s.modLink n f).out = s.out := rfl
@[simp] theorem modLink_free (n : Fin 128) (f : Link → Link) : (s.modLink n f).free = s.free := rfl
@[simp] theorem modLink_pending (n : Fin 128) (f : Link → Link) : (s.modLink n f).pending = s.pending := rfl

/-! ### `modGroup` changes `cxp` alone -/

@[simp] theorem modGroup_fuse (n : Fin 128) (f : Group → Group) : (s.modGroup n f).fuse = s.fuse := rfl
@[simp] theorem modGroup_dev (n : Fin 128) (f : Group → Group) : (s.modGroup n f).dev = s.dev := rfl
@[simp] theorem modGroup_sec (n : Fin 128) (f : Group → Group) : (s.modGroup n f).sec = s.sec := rfl
@[simp] theorem modGroup_book (n : Fin 128) (f : Group → Group) : (s.modGroup n f).book = s.book := rfl
@[simp] theorem modGroup_hosts (n : Fin 128) (f : Group → Group) : (s.modGroup n f).hosts = s.hosts := rfl
@[simp] theorem modGroup_cmdp (n : Fin 128) (f : Group → Group) : (s.modGroup n f).cmdp = s.cmdp := rfl
@[simp] theorem modGroup_mus (n : Fin 128) (f : Group → Group) : (s.modGroup n f).mus = s.mus := rfl
@[simp] theorem modGroup_pps (n : Fin 128) (f : Group → Group) : (s.modGroup n f).pps = s.pps := rfl
@[simp] theorem modGroup_gov (n : Fin 128) (f : Group → Group) : (s.modGroup n f).gov = s.gov := rfl
@[simp] theorem modGroup_cfg (n : Fin 128) (f : Group → Group) : (s.modGroup n f).cfg = s.cfg := rfl
@[simp] theorem modGroup_pdk (n : Fin 128) (f : Group → Group) : (s.modGroup n f).pdk = s.pdk := rfl
@[simp] theorem modGroup_fab (n : Fin 128) (f : Group → Group) : (s.modGroup n f).fab = s.fab := rfl
@[simp] theorem modGroup_cast (n : Fin 128) (f : Group → Group) : (s.modGroup n f).cast = s.cast := rfl
@[simp] theorem modGroup_sch (n : Fin 128) (f : Group → Group) : (s.modGroup n f).sch = s.sch := rfl
@[simp] theorem modGroup_cool (n : Fin 128) (f : Group → Group) : (s.modGroup n f).cool = s.cool := rfl
@[simp] theorem modGroup_trc (n : Fin 128) (f : Group → Group) : (s.modGroup n f).trc = s.trc := rfl
@[simp] theorem modGroup_trig (n : Fin 128) (f : Group → Group) : (s.modGroup n f).trig = s.trig := rfl
@[simp] theorem modGroup_ddr (n : Fin 128) (f : Group → Group) : (s.modGroup n f).ddr = s.ddr := rfl
@[simp] theorem modGroup_pins (n : Fin 128) (f : Group → Group) : (s.modGroup n f).pins = s.pins := rfl
@[simp] theorem modGroup_out (n : Fin 128) (f : Group → Group) : (s.modGroup n f).out = s.out := rfl
@[simp] theorem modGroup_free (n : Fin 128) (f : Group → Group) : (s.modGroup n f).free = s.free := rfl
@[simp] theorem modGroup_pending (n : Fin 128) (f : Group → Group) : (s.modGroup n f).pending = s.pending := rfl

/-! ### `modEnc` changes `trig` alone -/

@[simp] theorem modEnc_fuse (e : Fin 8) (f : Encoder → Encoder) : (s.modEnc e f).fuse = s.fuse := rfl
@[simp] theorem modEnc_dev (e : Fin 8) (f : Encoder → Encoder) : (s.modEnc e f).dev = s.dev := rfl
@[simp] theorem modEnc_sec (e : Fin 8) (f : Encoder → Encoder) : (s.modEnc e f).sec = s.sec := rfl
@[simp] theorem modEnc_book (e : Fin 8) (f : Encoder → Encoder) : (s.modEnc e f).book = s.book := rfl
@[simp] theorem modEnc_hosts (e : Fin 8) (f : Encoder → Encoder) : (s.modEnc e f).hosts = s.hosts := rfl
@[simp] theorem modEnc_cmdp (e : Fin 8) (f : Encoder → Encoder) : (s.modEnc e f).cmdp = s.cmdp := rfl
@[simp] theorem modEnc_mus (e : Fin 8) (f : Encoder → Encoder) : (s.modEnc e f).mus = s.mus := rfl
@[simp] theorem modEnc_pps (e : Fin 8) (f : Encoder → Encoder) : (s.modEnc e f).pps = s.pps := rfl
@[simp] theorem modEnc_gov (e : Fin 8) (f : Encoder → Encoder) : (s.modEnc e f).gov = s.gov := rfl
@[simp] theorem modEnc_cfg (e : Fin 8) (f : Encoder → Encoder) : (s.modEnc e f).cfg = s.cfg := rfl
@[simp] theorem modEnc_pdk (e : Fin 8) (f : Encoder → Encoder) : (s.modEnc e f).pdk = s.pdk := rfl
@[simp] theorem modEnc_fab (e : Fin 8) (f : Encoder → Encoder) : (s.modEnc e f).fab = s.fab := rfl
@[simp] theorem modEnc_cast (e : Fin 8) (f : Encoder → Encoder) : (s.modEnc e f).cast = s.cast := rfl
@[simp] theorem modEnc_sch (e : Fin 8) (f : Encoder → Encoder) : (s.modEnc e f).sch = s.sch := rfl
@[simp] theorem modEnc_cool (e : Fin 8) (f : Encoder → Encoder) : (s.modEnc e f).cool = s.cool := rfl
@[simp] theorem modEnc_trc (e : Fin 8) (f : Encoder → Encoder) : (s.modEnc e f).trc = s.trc := rfl
@[simp] theorem modEnc_cxp (e : Fin 8) (f : Encoder → Encoder) : (s.modEnc e f).cxp = s.cxp := rfl
@[simp] theorem modEnc_ddr (e : Fin 8) (f : Encoder → Encoder) : (s.modEnc e f).ddr = s.ddr := rfl
@[simp] theorem modEnc_pins (e : Fin 8) (f : Encoder → Encoder) : (s.modEnc e f).pins = s.pins := rfl
@[simp] theorem modEnc_out (e : Fin 8) (f : Encoder → Encoder) : (s.modEnc e f).out = s.out := rfl
@[simp] theorem modEnc_free (e : Fin 8) (f : Encoder → Encoder) : (s.modEnc e f).free = s.free := rfl
@[simp] theorem modEnc_pending (e : Fin 8) (f : Encoder → Encoder) : (s.modEnc e f).pending = s.pending := rfl

/-! ### `modGen` changes `trig` alone -/

@[simp] theorem modGen_fuse (g : Fin 64) (f : Gen → Gen) : (s.modGen g f).fuse = s.fuse := rfl
@[simp] theorem modGen_dev (g : Fin 64) (f : Gen → Gen) : (s.modGen g f).dev = s.dev := rfl
@[simp] theorem modGen_sec (g : Fin 64) (f : Gen → Gen) : (s.modGen g f).sec = s.sec := rfl
@[simp] theorem modGen_book (g : Fin 64) (f : Gen → Gen) : (s.modGen g f).book = s.book := rfl
@[simp] theorem modGen_hosts (g : Fin 64) (f : Gen → Gen) : (s.modGen g f).hosts = s.hosts := rfl
@[simp] theorem modGen_cmdp (g : Fin 64) (f : Gen → Gen) : (s.modGen g f).cmdp = s.cmdp := rfl
@[simp] theorem modGen_mus (g : Fin 64) (f : Gen → Gen) : (s.modGen g f).mus = s.mus := rfl
@[simp] theorem modGen_pps (g : Fin 64) (f : Gen → Gen) : (s.modGen g f).pps = s.pps := rfl
@[simp] theorem modGen_gov (g : Fin 64) (f : Gen → Gen) : (s.modGen g f).gov = s.gov := rfl
@[simp] theorem modGen_cfg (g : Fin 64) (f : Gen → Gen) : (s.modGen g f).cfg = s.cfg := rfl
@[simp] theorem modGen_pdk (g : Fin 64) (f : Gen → Gen) : (s.modGen g f).pdk = s.pdk := rfl
@[simp] theorem modGen_fab (g : Fin 64) (f : Gen → Gen) : (s.modGen g f).fab = s.fab := rfl
@[simp] theorem modGen_cast (g : Fin 64) (f : Gen → Gen) : (s.modGen g f).cast = s.cast := rfl
@[simp] theorem modGen_sch (g : Fin 64) (f : Gen → Gen) : (s.modGen g f).sch = s.sch := rfl
@[simp] theorem modGen_cool (g : Fin 64) (f : Gen → Gen) : (s.modGen g f).cool = s.cool := rfl
@[simp] theorem modGen_trc (g : Fin 64) (f : Gen → Gen) : (s.modGen g f).trc = s.trc := rfl
@[simp] theorem modGen_cxp (g : Fin 64) (f : Gen → Gen) : (s.modGen g f).cxp = s.cxp := rfl
@[simp] theorem modGen_ddr (g : Fin 64) (f : Gen → Gen) : (s.modGen g f).ddr = s.ddr := rfl
@[simp] theorem modGen_pins (g : Fin 64) (f : Gen → Gen) : (s.modGen g f).pins = s.pins := rfl
@[simp] theorem modGen_out (g : Fin 64) (f : Gen → Gen) : (s.modGen g f).out = s.out := rfl
@[simp] theorem modGen_free (g : Fin 64) (f : Gen → Gen) : (s.modGen g f).free = s.free := rfl
@[simp] theorem modGen_pending (g : Fin 64) (f : Gen → Gen) : (s.modGen g f).pending = s.pending := rfl

/-! ### `modTrigOut` changes `trig` alone -/

@[simp] theorem modTrigOut_fuse (o : Fin 256) (f : TrigOut → TrigOut) : (s.modTrigOut o f).fuse = s.fuse := rfl
@[simp] theorem modTrigOut_dev (o : Fin 256) (f : TrigOut → TrigOut) : (s.modTrigOut o f).dev = s.dev := rfl
@[simp] theorem modTrigOut_sec (o : Fin 256) (f : TrigOut → TrigOut) : (s.modTrigOut o f).sec = s.sec := rfl
@[simp] theorem modTrigOut_book (o : Fin 256) (f : TrigOut → TrigOut) : (s.modTrigOut o f).book = s.book := rfl
@[simp] theorem modTrigOut_hosts (o : Fin 256) (f : TrigOut → TrigOut) : (s.modTrigOut o f).hosts = s.hosts := rfl
@[simp] theorem modTrigOut_cmdp (o : Fin 256) (f : TrigOut → TrigOut) : (s.modTrigOut o f).cmdp = s.cmdp := rfl
@[simp] theorem modTrigOut_mus (o : Fin 256) (f : TrigOut → TrigOut) : (s.modTrigOut o f).mus = s.mus := rfl
@[simp] theorem modTrigOut_pps (o : Fin 256) (f : TrigOut → TrigOut) : (s.modTrigOut o f).pps = s.pps := rfl
@[simp] theorem modTrigOut_gov (o : Fin 256) (f : TrigOut → TrigOut) : (s.modTrigOut o f).gov = s.gov := rfl
@[simp] theorem modTrigOut_cfg (o : Fin 256) (f : TrigOut → TrigOut) : (s.modTrigOut o f).cfg = s.cfg := rfl
@[simp] theorem modTrigOut_pdk (o : Fin 256) (f : TrigOut → TrigOut) : (s.modTrigOut o f).pdk = s.pdk := rfl
@[simp] theorem modTrigOut_fab (o : Fin 256) (f : TrigOut → TrigOut) : (s.modTrigOut o f).fab = s.fab := rfl
@[simp] theorem modTrigOut_cast (o : Fin 256) (f : TrigOut → TrigOut) : (s.modTrigOut o f).cast = s.cast := rfl
@[simp] theorem modTrigOut_sch (o : Fin 256) (f : TrigOut → TrigOut) : (s.modTrigOut o f).sch = s.sch := rfl
@[simp] theorem modTrigOut_cool (o : Fin 256) (f : TrigOut → TrigOut) : (s.modTrigOut o f).cool = s.cool := rfl
@[simp] theorem modTrigOut_trc (o : Fin 256) (f : TrigOut → TrigOut) : (s.modTrigOut o f).trc = s.trc := rfl
@[simp] theorem modTrigOut_cxp (o : Fin 256) (f : TrigOut → TrigOut) : (s.modTrigOut o f).cxp = s.cxp := rfl
@[simp] theorem modTrigOut_ddr (o : Fin 256) (f : TrigOut → TrigOut) : (s.modTrigOut o f).ddr = s.ddr := rfl
@[simp] theorem modTrigOut_pins (o : Fin 256) (f : TrigOut → TrigOut) : (s.modTrigOut o f).pins = s.pins := rfl
@[simp] theorem modTrigOut_out (o : Fin 256) (f : TrigOut → TrigOut) : (s.modTrigOut o f).out = s.out := rfl
@[simp] theorem modTrigOut_free (o : Fin 256) (f : TrigOut → TrigOut) : (s.modTrigOut o f).free = s.free := rfl
@[simp] theorem modTrigOut_pending (o : Fin 256) (f : TrigOut → TrigOut) : (s.modTrigOut o f).pending = s.pending := rfl

/-! ### `modChan` changes `ddr` alone -/

@[simp] theorem modChan_fuse (c : Fin 8) (f : Channel → Channel) : (s.modChan c f).fuse = s.fuse := rfl
@[simp] theorem modChan_dev (c : Fin 8) (f : Channel → Channel) : (s.modChan c f).dev = s.dev := rfl
@[simp] theorem modChan_sec (c : Fin 8) (f : Channel → Channel) : (s.modChan c f).sec = s.sec := rfl
@[simp] theorem modChan_book (c : Fin 8) (f : Channel → Channel) : (s.modChan c f).book = s.book := rfl
@[simp] theorem modChan_hosts (c : Fin 8) (f : Channel → Channel) : (s.modChan c f).hosts = s.hosts := rfl
@[simp] theorem modChan_cmdp (c : Fin 8) (f : Channel → Channel) : (s.modChan c f).cmdp = s.cmdp := rfl
@[simp] theorem modChan_mus (c : Fin 8) (f : Channel → Channel) : (s.modChan c f).mus = s.mus := rfl
@[simp] theorem modChan_pps (c : Fin 8) (f : Channel → Channel) : (s.modChan c f).pps = s.pps := rfl
@[simp] theorem modChan_gov (c : Fin 8) (f : Channel → Channel) : (s.modChan c f).gov = s.gov := rfl
@[simp] theorem modChan_cfg (c : Fin 8) (f : Channel → Channel) : (s.modChan c f).cfg = s.cfg := rfl
@[simp] theorem modChan_pdk (c : Fin 8) (f : Channel → Channel) : (s.modChan c f).pdk = s.pdk := rfl
@[simp] theorem modChan_fab (c : Fin 8) (f : Channel → Channel) : (s.modChan c f).fab = s.fab := rfl
@[simp] theorem modChan_cast (c : Fin 8) (f : Channel → Channel) : (s.modChan c f).cast = s.cast := rfl
@[simp] theorem modChan_sch (c : Fin 8) (f : Channel → Channel) : (s.modChan c f).sch = s.sch := rfl
@[simp] theorem modChan_cool (c : Fin 8) (f : Channel → Channel) : (s.modChan c f).cool = s.cool := rfl
@[simp] theorem modChan_trc (c : Fin 8) (f : Channel → Channel) : (s.modChan c f).trc = s.trc := rfl
@[simp] theorem modChan_cxp (c : Fin 8) (f : Channel → Channel) : (s.modChan c f).cxp = s.cxp := rfl
@[simp] theorem modChan_trig (c : Fin 8) (f : Channel → Channel) : (s.modChan c f).trig = s.trig := rfl
@[simp] theorem modChan_pins (c : Fin 8) (f : Channel → Channel) : (s.modChan c f).pins = s.pins := rfl
@[simp] theorem modChan_out (c : Fin 8) (f : Channel → Channel) : (s.modChan c f).out = s.out := rfl
@[simp] theorem modChan_free (c : Fin 8) (f : Channel → Channel) : (s.modChan c f).free = s.free := rfl
@[simp] theorem modChan_pending (c : Fin 8) (f : Channel → Channel) : (s.modChan c f).pending = s.pending := rfl

/-! ### `modGpio` changes `pins` alone -/

@[simp] theorem modGpio_fuse (n : Fin 96) (f : Gpio → Gpio) : (s.modGpio n f).fuse = s.fuse := rfl
@[simp] theorem modGpio_dev (n : Fin 96) (f : Gpio → Gpio) : (s.modGpio n f).dev = s.dev := rfl
@[simp] theorem modGpio_sec (n : Fin 96) (f : Gpio → Gpio) : (s.modGpio n f).sec = s.sec := rfl
@[simp] theorem modGpio_book (n : Fin 96) (f : Gpio → Gpio) : (s.modGpio n f).book = s.book := rfl
@[simp] theorem modGpio_hosts (n : Fin 96) (f : Gpio → Gpio) : (s.modGpio n f).hosts = s.hosts := rfl
@[simp] theorem modGpio_cmdp (n : Fin 96) (f : Gpio → Gpio) : (s.modGpio n f).cmdp = s.cmdp := rfl
@[simp] theorem modGpio_mus (n : Fin 96) (f : Gpio → Gpio) : (s.modGpio n f).mus = s.mus := rfl
@[simp] theorem modGpio_pps (n : Fin 96) (f : Gpio → Gpio) : (s.modGpio n f).pps = s.pps := rfl
@[simp] theorem modGpio_gov (n : Fin 96) (f : Gpio → Gpio) : (s.modGpio n f).gov = s.gov := rfl
@[simp] theorem modGpio_cfg (n : Fin 96) (f : Gpio → Gpio) : (s.modGpio n f).cfg = s.cfg := rfl
@[simp] theorem modGpio_pdk (n : Fin 96) (f : Gpio → Gpio) : (s.modGpio n f).pdk = s.pdk := rfl
@[simp] theorem modGpio_fab (n : Fin 96) (f : Gpio → Gpio) : (s.modGpio n f).fab = s.fab := rfl
@[simp] theorem modGpio_cast (n : Fin 96) (f : Gpio → Gpio) : (s.modGpio n f).cast = s.cast := rfl
@[simp] theorem modGpio_sch (n : Fin 96) (f : Gpio → Gpio) : (s.modGpio n f).sch = s.sch := rfl
@[simp] theorem modGpio_cool (n : Fin 96) (f : Gpio → Gpio) : (s.modGpio n f).cool = s.cool := rfl
@[simp] theorem modGpio_trc (n : Fin 96) (f : Gpio → Gpio) : (s.modGpio n f).trc = s.trc := rfl
@[simp] theorem modGpio_cxp (n : Fin 96) (f : Gpio → Gpio) : (s.modGpio n f).cxp = s.cxp := rfl
@[simp] theorem modGpio_trig (n : Fin 96) (f : Gpio → Gpio) : (s.modGpio n f).trig = s.trig := rfl
@[simp] theorem modGpio_ddr (n : Fin 96) (f : Gpio → Gpio) : (s.modGpio n f).ddr = s.ddr := rfl
@[simp] theorem modGpio_out (n : Fin 96) (f : Gpio → Gpio) : (s.modGpio n f).out = s.out := rfl
@[simp] theorem modGpio_free (n : Fin 96) (f : Gpio → Gpio) : (s.modGpio n f).free = s.free := rfl
@[simp] theorem modGpio_pending (n : Fin 96) (f : Gpio → Gpio) : (s.modGpio n f).pending = s.pending := rfl

/-! ### `modOpPort` changes `sch` alone -/

@[simp] theorem modOpPort_fuse (n : Fin 512) (f : OpPort → OpPort) : (s.modOpPort n f).fuse = s.fuse := rfl
@[simp] theorem modOpPort_dev (n : Fin 512) (f : OpPort → OpPort) : (s.modOpPort n f).dev = s.dev := rfl
@[simp] theorem modOpPort_sec (n : Fin 512) (f : OpPort → OpPort) : (s.modOpPort n f).sec = s.sec := rfl
@[simp] theorem modOpPort_book (n : Fin 512) (f : OpPort → OpPort) : (s.modOpPort n f).book = s.book := rfl
@[simp] theorem modOpPort_hosts (n : Fin 512) (f : OpPort → OpPort) : (s.modOpPort n f).hosts = s.hosts := rfl
@[simp] theorem modOpPort_cmdp (n : Fin 512) (f : OpPort → OpPort) : (s.modOpPort n f).cmdp = s.cmdp := rfl
@[simp] theorem modOpPort_mus (n : Fin 512) (f : OpPort → OpPort) : (s.modOpPort n f).mus = s.mus := rfl
@[simp] theorem modOpPort_pps (n : Fin 512) (f : OpPort → OpPort) : (s.modOpPort n f).pps = s.pps := rfl
@[simp] theorem modOpPort_gov (n : Fin 512) (f : OpPort → OpPort) : (s.modOpPort n f).gov = s.gov := rfl
@[simp] theorem modOpPort_cfg (n : Fin 512) (f : OpPort → OpPort) : (s.modOpPort n f).cfg = s.cfg := rfl
@[simp] theorem modOpPort_pdk (n : Fin 512) (f : OpPort → OpPort) : (s.modOpPort n f).pdk = s.pdk := rfl
@[simp] theorem modOpPort_fab (n : Fin 512) (f : OpPort → OpPort) : (s.modOpPort n f).fab = s.fab := rfl
@[simp] theorem modOpPort_cast (n : Fin 512) (f : OpPort → OpPort) : (s.modOpPort n f).cast = s.cast := rfl
@[simp] theorem modOpPort_cool (n : Fin 512) (f : OpPort → OpPort) : (s.modOpPort n f).cool = s.cool := rfl
@[simp] theorem modOpPort_trc (n : Fin 512) (f : OpPort → OpPort) : (s.modOpPort n f).trc = s.trc := rfl
@[simp] theorem modOpPort_cxp (n : Fin 512) (f : OpPort → OpPort) : (s.modOpPort n f).cxp = s.cxp := rfl
@[simp] theorem modOpPort_trig (n : Fin 512) (f : OpPort → OpPort) : (s.modOpPort n f).trig = s.trig := rfl
@[simp] theorem modOpPort_ddr (n : Fin 512) (f : OpPort → OpPort) : (s.modOpPort n f).ddr = s.ddr := rfl
@[simp] theorem modOpPort_pins (n : Fin 512) (f : OpPort → OpPort) : (s.modOpPort n f).pins = s.pins := rfl
@[simp] theorem modOpPort_out (n : Fin 512) (f : OpPort → OpPort) : (s.modOpPort n f).out = s.out := rfl
@[simp] theorem modOpPort_free (n : Fin 512) (f : OpPort → OpPort) : (s.modOpPort n f).free = s.free := rfl
@[simp] theorem modOpPort_pending (n : Fin 512) (f : OpPort → OpPort) : (s.modOpPort n f).pending = s.pending := rfl

/-! ### `modFlow` changes `sch` alone -/

@[simp] theorem modFlow_fuse (n : Nat) (f : Flow → Flow) : (s.modFlow n f).fuse = s.fuse := rfl
@[simp] theorem modFlow_dev (n : Nat) (f : Flow → Flow) : (s.modFlow n f).dev = s.dev := rfl
@[simp] theorem modFlow_sec (n : Nat) (f : Flow → Flow) : (s.modFlow n f).sec = s.sec := rfl
@[simp] theorem modFlow_book (n : Nat) (f : Flow → Flow) : (s.modFlow n f).book = s.book := rfl
@[simp] theorem modFlow_hosts (n : Nat) (f : Flow → Flow) : (s.modFlow n f).hosts = s.hosts := rfl
@[simp] theorem modFlow_cmdp (n : Nat) (f : Flow → Flow) : (s.modFlow n f).cmdp = s.cmdp := rfl
@[simp] theorem modFlow_mus (n : Nat) (f : Flow → Flow) : (s.modFlow n f).mus = s.mus := rfl
@[simp] theorem modFlow_pps (n : Nat) (f : Flow → Flow) : (s.modFlow n f).pps = s.pps := rfl
@[simp] theorem modFlow_gov (n : Nat) (f : Flow → Flow) : (s.modFlow n f).gov = s.gov := rfl
@[simp] theorem modFlow_cfg (n : Nat) (f : Flow → Flow) : (s.modFlow n f).cfg = s.cfg := rfl
@[simp] theorem modFlow_pdk (n : Nat) (f : Flow → Flow) : (s.modFlow n f).pdk = s.pdk := rfl
@[simp] theorem modFlow_fab (n : Nat) (f : Flow → Flow) : (s.modFlow n f).fab = s.fab := rfl
@[simp] theorem modFlow_cast (n : Nat) (f : Flow → Flow) : (s.modFlow n f).cast = s.cast := rfl
@[simp] theorem modFlow_cool (n : Nat) (f : Flow → Flow) : (s.modFlow n f).cool = s.cool := rfl
@[simp] theorem modFlow_trc (n : Nat) (f : Flow → Flow) : (s.modFlow n f).trc = s.trc := rfl
@[simp] theorem modFlow_cxp (n : Nat) (f : Flow → Flow) : (s.modFlow n f).cxp = s.cxp := rfl
@[simp] theorem modFlow_trig (n : Nat) (f : Flow → Flow) : (s.modFlow n f).trig = s.trig := rfl
@[simp] theorem modFlow_ddr (n : Nat) (f : Flow → Flow) : (s.modFlow n f).ddr = s.ddr := rfl
@[simp] theorem modFlow_pins (n : Nat) (f : Flow → Flow) : (s.modFlow n f).pins = s.pins := rfl
@[simp] theorem modFlow_out (n : Nat) (f : Flow → Flow) : (s.modFlow n f).out = s.out := rfl
@[simp] theorem modFlow_free (n : Nat) (f : Flow → Flow) : (s.modFlow n f).free = s.free := rfl
@[simp] theorem modFlow_pending (n : Nat) (f : Flow → Flow) : (s.modFlow n f).pending = s.pending := rfl

/-! ### `setChan` changes `fab` alone -/

@[simp] theorem setChan_fuse (n : Nat) (f : Chan) : (s.setChan n f).fuse = s.fuse := rfl
@[simp] theorem setChan_dev (n : Nat) (f : Chan) : (s.setChan n f).dev = s.dev := rfl
@[simp] theorem setChan_sec (n : Nat) (f : Chan) : (s.setChan n f).sec = s.sec := rfl
@[simp] theorem setChan_book (n : Nat) (f : Chan) : (s.setChan n f).book = s.book := rfl
@[simp] theorem setChan_hosts (n : Nat) (f : Chan) : (s.setChan n f).hosts = s.hosts := rfl
@[simp] theorem setChan_cmdp (n : Nat) (f : Chan) : (s.setChan n f).cmdp = s.cmdp := rfl
@[simp] theorem setChan_mus (n : Nat) (f : Chan) : (s.setChan n f).mus = s.mus := rfl
@[simp] theorem setChan_pps (n : Nat) (f : Chan) : (s.setChan n f).pps = s.pps := rfl
@[simp] theorem setChan_gov (n : Nat) (f : Chan) : (s.setChan n f).gov = s.gov := rfl
@[simp] theorem setChan_cfg (n : Nat) (f : Chan) : (s.setChan n f).cfg = s.cfg := rfl
@[simp] theorem setChan_pdk (n : Nat) (f : Chan) : (s.setChan n f).pdk = s.pdk := rfl
@[simp] theorem setChan_cast (n : Nat) (f : Chan) : (s.setChan n f).cast = s.cast := rfl
@[simp] theorem setChan_sch (n : Nat) (f : Chan) : (s.setChan n f).sch = s.sch := rfl
@[simp] theorem setChan_cool (n : Nat) (f : Chan) : (s.setChan n f).cool = s.cool := rfl
@[simp] theorem setChan_trc (n : Nat) (f : Chan) : (s.setChan n f).trc = s.trc := rfl
@[simp] theorem setChan_cxp (n : Nat) (f : Chan) : (s.setChan n f).cxp = s.cxp := rfl
@[simp] theorem setChan_trig (n : Nat) (f : Chan) : (s.setChan n f).trig = s.trig := rfl
@[simp] theorem setChan_ddr (n : Nat) (f : Chan) : (s.setChan n f).ddr = s.ddr := rfl
@[simp] theorem setChan_pins (n : Nat) (f : Chan) : (s.setChan n f).pins = s.pins := rfl
@[simp] theorem setChan_out (n : Nat) (f : Chan) : (s.setChan n f).out = s.out := rfl
@[simp] theorem setChan_free (n : Nat) (f : Chan) : (s.setChan n f).free = s.free := rfl
@[simp] theorem setChan_pending (n : Nat) (f : Chan) : (s.setChan n f).pending = s.pending := rfl

/-! ### `modBin` changes `fab` alone -/

@[simp] theorem modBin_fuse (n : Nat) (f : BinSt → BinSt) : (s.modBin n f).fuse = s.fuse := rfl
@[simp] theorem modBin_dev (n : Nat) (f : BinSt → BinSt) : (s.modBin n f).dev = s.dev := rfl
@[simp] theorem modBin_sec (n : Nat) (f : BinSt → BinSt) : (s.modBin n f).sec = s.sec := rfl
@[simp] theorem modBin_book (n : Nat) (f : BinSt → BinSt) : (s.modBin n f).book = s.book := rfl
@[simp] theorem modBin_hosts (n : Nat) (f : BinSt → BinSt) : (s.modBin n f).hosts = s.hosts := rfl
@[simp] theorem modBin_cmdp (n : Nat) (f : BinSt → BinSt) : (s.modBin n f).cmdp = s.cmdp := rfl
@[simp] theorem modBin_mus (n : Nat) (f : BinSt → BinSt) : (s.modBin n f).mus = s.mus := rfl
@[simp] theorem modBin_pps (n : Nat) (f : BinSt → BinSt) : (s.modBin n f).pps = s.pps := rfl
@[simp] theorem modBin_gov (n : Nat) (f : BinSt → BinSt) : (s.modBin n f).gov = s.gov := rfl
@[simp] theorem modBin_cfg (n : Nat) (f : BinSt → BinSt) : (s.modBin n f).cfg = s.cfg := rfl
@[simp] theorem modBin_pdk (n : Nat) (f : BinSt → BinSt) : (s.modBin n f).pdk = s.pdk := rfl
@[simp] theorem modBin_cast (n : Nat) (f : BinSt → BinSt) : (s.modBin n f).cast = s.cast := rfl
@[simp] theorem modBin_sch (n : Nat) (f : BinSt → BinSt) : (s.modBin n f).sch = s.sch := rfl
@[simp] theorem modBin_cool (n : Nat) (f : BinSt → BinSt) : (s.modBin n f).cool = s.cool := rfl
@[simp] theorem modBin_trc (n : Nat) (f : BinSt → BinSt) : (s.modBin n f).trc = s.trc := rfl
@[simp] theorem modBin_cxp (n : Nat) (f : BinSt → BinSt) : (s.modBin n f).cxp = s.cxp := rfl
@[simp] theorem modBin_trig (n : Nat) (f : BinSt → BinSt) : (s.modBin n f).trig = s.trig := rfl
@[simp] theorem modBin_ddr (n : Nat) (f : BinSt → BinSt) : (s.modBin n f).ddr = s.ddr := rfl
@[simp] theorem modBin_pins (n : Nat) (f : BinSt → BinSt) : (s.modBin n f).pins = s.pins := rfl
@[simp] theorem modBin_out (n : Nat) (f : BinSt → BinSt) : (s.modBin n f).out = s.out := rfl
@[simp] theorem modBin_free (n : Nat) (f : BinSt → BinSt) : (s.modBin n f).free = s.free := rfl
@[simp] theorem modBin_pending (n : Nat) (f : BinSt → BinSt) : (s.modBin n f).pending = s.pending := rfl

/-! ### `emit` and the free values -/

@[simp] theorem emit_fuse (o : Out) : (s.emit o).fuse = s.fuse := rfl
@[simp] theorem emit_dev (o : Out) : (s.emit o).dev = s.dev := rfl
@[simp] theorem emit_sec (o : Out) : (s.emit o).sec = s.sec := rfl
@[simp] theorem emit_book (o : Out) : (s.emit o).book = s.book := rfl
@[simp] theorem emit_hosts (o : Out) : (s.emit o).hosts = s.hosts := rfl
@[simp] theorem emit_cmdp (o : Out) : (s.emit o).cmdp = s.cmdp := rfl
@[simp] theorem emit_mus (o : Out) : (s.emit o).mus = s.mus := rfl
@[simp] theorem emit_pps (o : Out) : (s.emit o).pps = s.pps := rfl
@[simp] theorem emit_gov (o : Out) : (s.emit o).gov = s.gov := rfl
@[simp] theorem emit_cfg (o : Out) : (s.emit o).cfg = s.cfg := rfl
@[simp] theorem emit_pdk (o : Out) : (s.emit o).pdk = s.pdk := rfl
@[simp] theorem emit_fab (o : Out) : (s.emit o).fab = s.fab := rfl
@[simp] theorem emit_cast (o : Out) : (s.emit o).cast = s.cast := rfl
@[simp] theorem emit_sch (o : Out) : (s.emit o).sch = s.sch := rfl
@[simp] theorem emit_cool (o : Out) : (s.emit o).cool = s.cool := rfl
@[simp] theorem emit_trc (o : Out) : (s.emit o).trc = s.trc := rfl
@[simp] theorem emit_cxp (o : Out) : (s.emit o).cxp = s.cxp := rfl
@[simp] theorem emit_trig (o : Out) : (s.emit o).trig = s.trig := rfl
@[simp] theorem emit_ddr (o : Out) : (s.emit o).ddr = s.ddr := rfl
@[simp] theorem emit_pins (o : Out) : (s.emit o).pins = s.pins := rfl
@[simp] theorem emit_free (o : Out) : (s.emit o).free = s.free := rfl
@[simp] theorem emit_pending (o : Out) : (s.emit o).pending = s.pending := rfl
@[simp] theorem emit_out (o : Out) : (s.emit o).out = s.out ++ [o] := rfl

@[simp] theorem drawNat_fuse : s.drawNat.2.fuse = s.fuse := rfl
@[simp] theorem drawNat_dev : s.drawNat.2.dev = s.dev := rfl
@[simp] theorem drawNat_sec : s.drawNat.2.sec = s.sec := rfl
@[simp] theorem drawNat_book : s.drawNat.2.book = s.book := rfl
@[simp] theorem drawNat_hosts : s.drawNat.2.hosts = s.hosts := rfl
@[simp] theorem drawNat_cmdp : s.drawNat.2.cmdp = s.cmdp := rfl
@[simp] theorem drawNat_mus : s.drawNat.2.mus = s.mus := rfl
@[simp] theorem drawNat_pps : s.drawNat.2.pps = s.pps := rfl
@[simp] theorem drawNat_gov : s.drawNat.2.gov = s.gov := rfl
@[simp] theorem drawNat_cfg : s.drawNat.2.cfg = s.cfg := rfl
@[simp] theorem drawNat_pdk : s.drawNat.2.pdk = s.pdk := rfl
@[simp] theorem drawNat_fab : s.drawNat.2.fab = s.fab := rfl
@[simp] theorem drawNat_cast : s.drawNat.2.cast = s.cast := rfl
@[simp] theorem drawNat_sch : s.drawNat.2.sch = s.sch := rfl
@[simp] theorem drawNat_cool : s.drawNat.2.cool = s.cool := rfl
@[simp] theorem drawNat_trc : s.drawNat.2.trc = s.trc := rfl
@[simp] theorem drawNat_cxp : s.drawNat.2.cxp = s.cxp := rfl
@[simp] theorem drawNat_trig : s.drawNat.2.trig = s.trig := rfl
@[simp] theorem drawNat_ddr : s.drawNat.2.ddr = s.ddr := rfl
@[simp] theorem drawNat_pins : s.drawNat.2.pins = s.pins := rfl
@[simp] theorem drawNat_out : s.drawNat.2.out = s.out := rfl
@[simp] theorem drawNat_pending : s.drawNat.2.pending = s.pending := rfl
@[simp] theorem drawNat_free : s.drawNat.2.free = s.free + 1 := rfl

@[simp] theorem drawBit_fuse : s.drawBit.2.fuse = s.fuse := rfl
@[simp] theorem drawBit_dev : s.drawBit.2.dev = s.dev := rfl
@[simp] theorem drawBit_sec : s.drawBit.2.sec = s.sec := rfl
@[simp] theorem drawBit_book : s.drawBit.2.book = s.book := rfl
@[simp] theorem drawBit_hosts : s.drawBit.2.hosts = s.hosts := rfl
@[simp] theorem drawBit_cmdp : s.drawBit.2.cmdp = s.cmdp := rfl
@[simp] theorem drawBit_mus : s.drawBit.2.mus = s.mus := rfl
@[simp] theorem drawBit_pps : s.drawBit.2.pps = s.pps := rfl
@[simp] theorem drawBit_gov : s.drawBit.2.gov = s.gov := rfl
@[simp] theorem drawBit_cfg : s.drawBit.2.cfg = s.cfg := rfl
@[simp] theorem drawBit_pdk : s.drawBit.2.pdk = s.pdk := rfl
@[simp] theorem drawBit_fab : s.drawBit.2.fab = s.fab := rfl
@[simp] theorem drawBit_cast : s.drawBit.2.cast = s.cast := rfl
@[simp] theorem drawBit_sch : s.drawBit.2.sch = s.sch := rfl
@[simp] theorem drawBit_cool : s.drawBit.2.cool = s.cool := rfl
@[simp] theorem drawBit_trc : s.drawBit.2.trc = s.trc := rfl
@[simp] theorem drawBit_cxp : s.drawBit.2.cxp = s.cxp := rfl
@[simp] theorem drawBit_trig : s.drawBit.2.trig = s.trig := rfl
@[simp] theorem drawBit_ddr : s.drawBit.2.ddr = s.ddr := rfl
@[simp] theorem drawBit_pins : s.drawBit.2.pins = s.pins := rfl
@[simp] theorem drawBit_out : s.drawBit.2.out = s.out := rfl
@[simp] theorem drawBit_pending : s.drawBit.2.pending = s.pending := rfl
@[simp] theorem drawBit_free : s.drawBit.2.free = s.free + 1 := rfl

/-! ### The part that an update names -/

@[simp] theorem modCast_cast (c : Fin 256) (f : Caster → Caster) : (s.modCast c f).cast = vmod s.cast c f := rfl
@[simp] theorem modPdk_pdk (k : Fin 64) (f : Paddock → Paddock) : (s.modPdk k f).pdk = vmod s.pdk k f := rfl
@[simp] theorem modPort_port (p : Fin 2) (f : Port → Port) : (s.modPort p f).hosts.port = vmod s.hosts.port p f := rfl
@[simp] theorem modLink_links (n : Fin 128) (f : Link → Link) : (s.modLink n f).cxp.links = vmod s.cxp.links n f := rfl
@[simp] theorem modGroup_groups (n : Fin 128) (f : Group → Group) : (s.modGroup n f).cxp.groups = vmod s.cxp.groups n f := rfl
@[simp] theorem modEnc_enc (e : Fin 8) (f : Encoder → Encoder) : (s.modEnc e f).trig.enc = vmod s.trig.enc e f := rfl
@[simp] theorem modGen_gen (g : Fin 64) (f : Gen → Gen) : (s.modGen g f).trig.gen = vmod s.trig.gen g f := rfl
@[simp] theorem modTrigOut_array (o : Fin 256) (f : TrigOut → TrigOut) : (s.modTrigOut o f).trig.out = vmod s.trig.out o f := rfl
@[simp] theorem modChan_chan (c : Fin 8) (f : Channel → Channel) : (s.modChan c f).ddr.chan = vmod s.ddr.chan c f := rfl
@[simp] theorem modGpio_gpio (n : Fin 96) (f : Gpio → Gpio) : (s.modGpio n f).pins.gpio = vmod s.pins.gpio n f := rfl
@[simp] theorem modOpPort_ports (n : Fin 512) (f : OpPort → OpPort) : (s.modOpPort n f).sch.ports = vmod s.sch.ports n f := rfl

/-- One caster changed twice. -/
@[simp] theorem modCast_modCast (c : Fin 256) (f g : Caster → Caster) :
    (s.modCast c f).modCast c g = s.modCast c fun h => g (f h) := by simp [State.modCast]

/-- The caster that an update names, and every other. -/
@[simp] theorem modCast_get (c : Fin 256) (f : Caster → Caster) : (s.modCast c f).cast[c.val] = f s.cast[c.val] := vmod_get _ _ _
theorem modCast_get_ne (c d : Fin 256) (f : Caster → Caster) (h : c ≠ d) : (s.modCast c f).cast[d.val] = s.cast[d.val] :=
  vmod_get_ne _ _ _ _ h

/-- One link changed twice. -/
@[simp] theorem modLink_modLink (n : Fin 128) (f g : Link → Link) :
    (s.modLink n f).modLink n g = s.modLink n fun h => g (f h) := by simp [State.modLink]

@[simp] theorem modLink_get (n : Fin 128) (f : Link → Link) : (s.modLink n f).cxp.links[n.val] = f s.cxp.links[n.val] := vmod_get _ _ _
@[simp] theorem modPdk_get (k : Fin 64) (f : Paddock → Paddock) : (s.modPdk k f).pdk[k.val] = f s.pdk[k.val] := vmod_get _ _ _
@[simp] theorem modPort_get (p : Fin 2) (f : Port → Port) : (s.modPort p f).hosts.port[p.val] = f s.hosts.port[p.val] := vmod_get _ _ _
@[simp] theorem modChan_get (c : Fin 8) (f : Channel → Channel) : (s.modChan c f).ddr.chan[c.val] = f s.ddr.chan[c.val] := vmod_get _ _ _
@[simp] theorem modGpio_get (n : Fin 96) (f : Gpio → Gpio) : (s.modGpio n f).pins.gpio[n.val] = f s.pins.gpio[n.val] := vmod_get _ _ _

end Sys2Proof.Laws
end

