-- ==== Sys2Proof/Laws/Commands.lean ====
section
/-! SUPPORT. Laws of host commands: what the command processor does with a command that begins, that must wait, or that
reaches a state which serves none. -/

namespace Sys2Proof.Laws

open Sys2Proof Machine Safety

/-- What the command processor does, by whether commands are served and whether the command must wait. -/
theorem runCmd_eq (sp : CmdSpec) (body : Cmd → State → Except Deny State) (c : Cmd) (s : State) :
    runCmd sp body c s =
      if !served s then s
      else if mayBegin s (typed sp c) (c.hdr == 0 && sp.isLong (typed sp c) s) s.cmdp.held then beginCmd sp body (typed sp c) s
      else { s with cmdp.held := s.cmdp.held ++ [typed sp c] } := rfl

/-- Nothing happens where commands are not served (R333). -/
theorem runCmd_unserved {sp : CmdSpec} {body : Cmd → State → Except Deny State} {c : Cmd} {s : State} (h : served s = false) :
    runCmd sp body c s = s := by simp [runCmd, h]

/-- A command that must wait is held behind those that wait already (R349, R350). -/
theorem runCmd_waits {sp : CmdSpec} {body : Cmd → State → Except Deny State} {c : Cmd} {s : State} (h : served s = true)
    (hm : mayBegin s (typed sp c) (c.hdr == 0 && sp.isLong (typed sp c) s) s.cmdp.held = false) :
    runCmd sp body c s = { s with cmdp.held := s.cmdp.held ++ [typed sp c] } := by
  rw [runCmd_eq, h, hm]
  rfl

/-- A command that reaches the command processor: refused by the first check that fails, or by its body, or carried out. -/
theorem runCmd_reaches {sp : CmdSpec} {body : Cmd → State → Except Deny State} {c : Cmd} {s : State} (h : Reaches sp c s) :
    runCmd sp body c s =
      match checkCmd sp (typed sp c) (counted c s) with
      | some d => refuse (typed sp c) (counted c s) d
      | none =>
        match body (typed sp c) (counted c s) with
        | .error d => refuse (typed sp c) (counted c s) d
        | .ok t => t := by
  rw [runCmd_eq, h.1, h.2]
  rfl

/-- A command that passes its checks is carried out or refused by its body. -/
theorem runCmd_begins {sp : CmdSpec} {body : Cmd → State → Except Deny State} {c : Cmd} {s : State} (h : Begins sp c s) :
    runCmd sp body c s =
      match body (typed sp c) (counted c s) with
      | .error d => refuse (typed sp c) (counted c s) d
      | .ok t => t := by rw [runCmd_reaches h.1, h.2]

/-- A command that passes its checks and whose body completes. -/
theorem runCmd_ok {sp : CmdSpec} {body : Cmd → State → Except Deny State} {c : Cmd} {s t : State} (h : Begins sp c s)
    (hb : body (typed sp c) (counted c s) = .ok t) : runCmd sp body c s = t := by rw [runCmd_begins h, hb]

/-- A row completes as its body does. -/
theorem completes_of {sp : CmdSpec} {body : Cmd → State → Except Deny State} {row : Cmd → Instr} {cond : Cmd → State → Prop}
    {res : Cmd → State → State} (he : ∀ c s, exec (row c) s = .next (runCmd sp body c s))
    (hb : ∀ c s, cond c s → body c s = .ok (res c s)) : Completes sp row cond res := by
  intro c s h hc
  rw [he, runCmd_ok h (hb _ _ hc)]

/-- The output of a command that fits is delivered (R352). -/
theorem doneOut_fits {c : Cmd} {s : State} {l : List Byte} (h : Fits c l.length) : doneOut c s l = .ok (delivered c s l) := by
  unfold doneOut outBuf delivered
  rcases h with ⟨h0, h1⟩ | ⟨h0, h1⟩
  · simp only [h0, h1, if_true]
    cases portOf c.src <;> rfl
  · simp only [h0, if_false, Nat.not_lt.mpr h1]
    cases portOf c.src <;> rfl

/-! ### Caster instructions -/

/-- The instruction at the pc is carried out once its word has been read. -/
theorem issue_issues {op : Nat} {c : Fin 256} {s : State} {w : BitVec 64} {f : BitVec 64 → State → State}
    (h : Issues s c w) (hw : wOp w = op) : issue op c s f = .next (f w (fetched s c)) := by
  obtain ⟨h1, h2, h3⟩ := h
  subst h2
  have hc : (mayIssue s c && wOp (casterWord s.cast[c]) == op) = true := by rw [h1, hw]; simp
  simp only [issue, hc, if_true, fetched]
  generalize tget ([] : List Nat) s.cast[c].storeBad s.cast[c].pc.toNat = l at h3 ⊢
  match l with
  | [] => rfl
  | [_] => rfl
  | _ :: _ :: _ => simp at h3

/-- A caster with another count of corrected errors. -/
def withEcc (h : Caster) (e : BitVec 16) : Caster := { h with eccCorr := e }

/-- Reading the word changes one count alone. -/
theorem fetched_get (s : State) (c : Fin 256) : ∃ e, (fetched s c).cast[c] = withEcc s.cast[c] e := by
  unfold fetched
  split
  · exact ⟨_, modCast_get s c _⟩
  · exact ⟨s.cast[c].eccCorr, rfl⟩

end Sys2Proof.Laws
end

