-- ==== Sys2Proof/Laws/Exec.lean ====
section
/-! SUPPORT. Laws of the dispatch: the meaning that `exec` calls for each command. -/

namespace Sys2Proof.Laws

open Sys2Proof Machine

@[simp] theorem exec_getIdentity (c : Cmd) (s : State) : exec (.getIdentity c) s = execGetIdentity c s := rfl
@[simp] theorem exec_getState (c : Cmd) (s : State) : exec (.getState c) s = execGetState c s := rfl
@[simp] theorem exec_setState (c : Cmd) (s : State) : exec (.setState c) s = execSetState c s := rfl
@[simp] theorem exec_getHealth (c : Cmd) (s : State) : exec (.getHealth c) s = execGetHealth c s := rfl
@[simp] theorem exec_echo (c : Cmd) (s : State) : exec (.echo c) s = execEcho c s := rfl
@[simp] theorem exec_semBind (c : Cmd) (s : State) : exec (.semBind c) s = execSemBind c s := rfl
@[simp] theorem exec_pourPattern (c : Cmd) (s : State) : exec (.pourPattern c) s = execPourPattern c s := rfl
@[simp] theorem exec_pourPartial (c : Cmd) (s : State) : exec (.pourPartial c) s = execPourPartial c s := rfl
@[simp] theorem exec_isolatePaddock (c : Cmd) (s : State) : exec (.isolatePaddock c) s = execIsolatePaddock c s := rfl
@[simp] theorem exec_releasePaddock (c : Cmd) (s : State) : exec (.releasePaddock c) s = execReleasePaddock c s := rfl
@[simp] theorem exec_readbackFrames (c : Cmd) (s : State) : exec (.readbackFrames c) s = execReadbackFrames c s := rfl
@[simp] theorem exec_fettlerConfig (c : Cmd) (s : State) : exec (.fettlerConfig c) s = execFettlerConfig c s := rfl
@[simp] theorem exec_flashWrite (c : Cmd) (s : State) : exec (.flashWrite c) s = execFlashWrite c s := rfl
@[simp] theorem exec_flashRead (c : Cmd) (s : State) : exec (.flashRead c) s = execFlashRead c s := rfl
@[simp] theorem exec_setReleaseOrder (c : Cmd) (s : State) : exec (.setReleaseOrder c) s = execSetReleaseOrder c s := rfl
@[simp] theorem exec_cxpDiscover (c : Cmd) (s : State) : exec (.cxpDiscover c) s = execCxpDiscover c s := rfl
@[simp] theorem exec_cxpSetLink (c : Cmd) (s : State) : exec (.cxpSetLink c) s = execCxpSetLink c s := rfl
@[simp] theorem exec_cxpGroup (c : Cmd) (s : State) : exec (.cxpGroup c) s = execCxpGroup c s := rfl
@[simp] theorem exec_cxpCtrlRead (c : Cmd) (s : State) : exec (.cxpCtrlRead c) s = execCxpCtrlRead c s := rfl
@[simp] theorem exec_cxpCtrlWrite (c : Cmd) (s : State) : exec (.cxpCtrlWrite c) s = execCxpCtrlWrite c s := rfl
@[simp] theorem exec_cxpStreamEnable (c : Cmd) (s : State) : exec (.cxpStreamEnable c) s = execCxpStreamEnable c s := rfl
@[simp] theorem exec_cxpPixelStore (c : Cmd) (s : State) : exec (.cxpPixelStore c) s = execCxpPixelStore c s := rfl
@[simp] theorem exec_encConfig (c : Cmd) (s : State) : exec (.encConfig c) s = execEncConfig c s := rfl
@[simp] theorem exec_trigGenConfig (c : Cmd) (s : State) : exec (.trigGenConfig c) s = execTrigGenConfig c s := rfl
@[simp] theorem exec_trigGenArm (c : Cmd) (s : State) : exec (.trigGenArm c) s = execTrigGenArm c s := rfl
@[simp] theorem exec_trigGenStop (c : Cmd) (s : State) : exec (.trigGenStop c) s = execTrigGenStop c s := rfl
@[simp] theorem exec_headOffsets (c : Cmd) (s : State) : exec (.headOffsets c) s = execHeadOffsets c s := rfl
@[simp] theorem exec_positionCompare (c : Cmd) (s : State) : exec (.positionCompare c) s = execPositionCompare c s := rfl
@[simp] theorem exec_graphLoad (c : Cmd) (s : State) : exec (.graphLoad c) s = execGraphLoad c s := rfl
@[simp] theorem exec_flowConfig (c : Cmd) (s : State) : exec (.flowConfig c) s = execFlowConfig c s := rfl
@[simp] theorem exec_flowSubmit (c : Cmd) (s : State) : exec (.flowSubmit c) s = execFlowSubmit c s := rfl
@[simp] theorem exec_flowDrain (c : Cmd) (s : State) : exec (.flowDrain c) s = execFlowDrain c s := rfl
@[simp] theorem exec_schedTrace (c : Cmd) (s : State) : exec (.schedTrace c) s = execSchedTrace c s := rfl
@[simp] theorem exec_coolConfig (c : Cmd) (s : State) : exec (.coolConfig c) s = execCoolConfig c s := rfl
@[simp] theorem exec_spillConfig (c : Cmd) (s : State) : exec (.spillConfig c) s = execSpillConfig c s := rfl
@[simp] theorem exec_kernelLoad (c : Cmd) (s : State) : exec (.kernelLoad c) s = execKernelLoad c s := rfl
@[simp] theorem exec_casterStatus (c : Cmd) (s : State) : exec (.casterStatus c) s = execCasterStatus c s := rfl
@[simp] theorem exec_casterRetire (c : Cmd) (s : State) : exec (.casterRetire c) s = execCasterRetire c s := rfl
@[simp] theorem exec_memMap (c : Cmd) (s : State) : exec (.memMap c) s = execMemMap c s := rfl
@[simp] theorem exec_memRead (c : Cmd) (s : State) : exec (.memRead c) s = execMemRead c s := rfl
@[simp] theorem exec_memWrite (c : Cmd) (s : State) : exec (.memWrite c) s = execMemWrite c s := rfl
@[simp] theorem exec_memTrain (c : Cmd) (s : State) : exec (.memTrain c) s = execMemTrain c s := rfl
@[simp] theorem exec_musterArm (c : Cmd) (s : State) : exec (.musterArm c) s = execMusterArm c s := rfl
@[simp] theorem exec_musterFire (c : Cmd) (s : State) : exec (.musterFire c) s = execMusterFire c s := rfl
@[simp] theorem exec_musterRead (c : Cmd) (s : State) : exec (.musterRead c) s = execMusterRead c s := rfl
@[simp] theorem exec_lcStatus (c : Cmd) (s : State) : exec (.lcStatus c) s = execLcStatus c s := rfl
@[simp] theorem exec_lcAdvance (c : Cmd) (s : State) : exec (.lcAdvance c) s = execLcAdvance c s := rfl
@[simp] theorem exec_keyProvision (c : Cmd) (s : State) : exec (.keyProvision c) s = execKeyProvision c s := rfl
@[simp] theorem exec_bistRun (c : Cmd) (s : State) : exec (.bistRun c) s = execBistRun c s := rfl
@[simp] theorem exec_scanEnable (c : Cmd) (s : State) : exec (.scanEnable c) s = execScanEnable c s := rfl
@[simp] theorem exec_governorConfig (c : Cmd) (s : State) : exec (.governorConfig c) s = execGovernorConfig c s := rfl
@[simp] theorem exec_shutdown (c : Cmd) (s : State) : exec (.shutdown c) s = execShutdown c s := rfl
@[simp] theorem exec_wakeConfig (c : Cmd) (s : State) : exec (.wakeConfig c) s = execWakeConfig c s := rfl
@[simp] theorem exec_ident (s : State) : exec (.ident) s = execIdent s := rfl
@[simp] theorem exec_state (s : State) : exec (.state) s = execState s := rfl
@[simp] theorem exec_health (s : State) : exec (.health) s = execHealth s := rfl
@[simp] theorem exec_temps (s : State) : exec (.temps) s = execTemps s := rfl
@[simp] theorem exec_sidebandShutdown (b0 b1 : Byte) (w : SideWrite) (s : State) : exec (.sidebandShutdown b0 b1 w) s = execSidebandShutdown b0 b1 w s := rfl
@[simp] theorem exec_alertResponse (s : State) : exec (.alertResponse) s = execAlertResponse s := rfl
@[simp] theorem exec_sidebandRefresh (s : State) : exec (.sidebandRefresh) s = execSidebandRefresh s := rfl
@[simp] theorem exec_commandFetch (p : Fin 2) (n : Fin 4) (whole : BitVec 4) (slots : List Byte) (buf : Option (List Byte)) (s : State) : exec (.commandFetch p n whole slots buf) s = execCommandFetch p n whole slots buf s := rfl
@[simp] theorem exec_replyWrite (p : Fin 2) (n : Fin 4) (s : State) : exec (.replyWrite p n) s = execReplyWrite p n s := rfl
@[simp] theorem exec_imodExpiry (p : Fin 2) (r : Fin 24) (s : State) : exec (.imodExpiry p r) s = execImodExpiry p r s := rfl
@[simp] theorem exec_go (by_ p : Fin 2) (v : BitVec 32) (buf : Option (List Byte)) (s : State) : exec (.go by_ p v buf) s = execGo by_ p v buf s := rfl
@[simp] theorem exec_hpSqTail (by_ p : Fin 2) (n : Fin 4) (v : BitVec 32) (s : State) : exec (.hpSqTail by_ p n v) s = execHpSqTail by_ p n v s := rfl
@[simp] theorem exec_hpRqHead (by_ p : Fin 2) (n : Fin 4) (v : BitVec 32) (s : State) : exec (.hpRqHead by_ p n v) s = execHpRqHead by_ p n v s := rfl
@[simp] theorem exec_hpRrRel (by_ p : Fin 2) (r : Fin 16) (v : BitVec 32) (s : State) : exec (.hpRrRel by_ p r v) s = execHpRrRel by_ p r v s := rfl
@[simp] theorem exec_ringEnable (by_ p : Fin 2) (v : BitVec 32) (s : State) : exec (.ringEnable by_ p v) s = execRingEnable by_ p v s := rfl
@[simp] theorem exec_ringActive (p : Fin 2) (r : Fin 24) (s : State) : exec (.ringActive p r) s = execRingActive p r s := rfl
@[simp] theorem exec_ringDisable (by_ p : Fin 2) (v : BitVec 32) (s : State) : exec (.ringDisable by_ p v) s = execRingDisable by_ p v s := rfl
@[simp] theorem exec_semTake (p : Fin 2) (both : Bool) (n : Fin 64) (s : State) : exec (.semTake p both n) s = execSemTake p both n s := rfl
@[simp] theorem exec_semRelease (p : Fin 2) (n : Fin 64) (v : BitVec 32) (s : State) : exec (.semRelease p n v) s = execSemRelease p n v s := rfl
@[simp] theorem exec_claim (by_ p : Fin 2) (v : BitVec 32) (s : State) : exec (.claim by_ p v) s = execClaim by_ p v s := rfl
@[simp] theorem exec_musAck (v : BitVec 32) (s : State) : exec (.musAck v) s = execMusAck v s := rfl
@[simp] theorem exec_urst (k : Fin 64) (v : BitVec 32) (s : State) : exec (.urst k v) s = execUrst k v s := rfl
@[simp] theorem exec_userResetRelease (k : Fin 64) (s : State) : exec (.userResetRelease k) s = execUserResetRelease k s := rfl
@[simp] theorem exec_pulse (n : Fin 3) (v : BitVec 32) (s : State) : exec (.pulse n v) s = execPulse n v s := rfl
@[simp] theorem exec_linkOff (n : Fin 128) (v : BitVec 32) (s : State) : exec (.linkOff n v) s = execLinkOff n v s := rfl
@[simp] theorem exec_trcRdidx (v : BitVec 32) (s : State) : exec (.trcRdidx v) s = execTrcRdidx v s := rfl
@[simp] theorem exec_gpioFuncWrite (n : Fin 96) (v : BitVec 32) (s : State) : exec (.gpioFuncWrite n v) s = execGpioFuncWrite n v s := rfl
@[simp] theorem exec_switchIntervalEnd (n : Fin 96) (s : State) : exec (.switchIntervalEnd n) s = execSwitchIntervalEnd n s := rfl
@[simp] theorem exec_viewCaptureRead (p : Fin 2) (addr : BitVec 24) (tie : Option HostAccess) (s : State) : exec (.viewCaptureRead p addr tie) s = execViewCaptureRead p addr tie s := rfl
@[simp] theorem exec_lowWordCaptureRead (p : Fin 2) (addr : BitVec 24) (tie : Option HostAccess) (s : State) : exec (.lowWordCaptureRead p addr tie) s = execLowWordCaptureRead p addr tie s := rfl
@[simp] theorem exec_rcRead (p : Fin 2) (bar : Bar) (addr : BitVec 24) (tie : Option HostAccess) (s : State) : exec (.rcRead p bar addr tie) s = execRcRead p bar addr tie s := rfl
@[simp] theorem exec_registerWrite (p : Fin 2) (bar : Bar) (addr : BitVec 24) (v : BitVec 32) (tie : Option HostAccess) (s : State) : exec (.registerWrite p bar addr v tie) s = execRegisterWrite p bar addr v tie s := rfl
@[simp] theorem exec_bar0BadAccess (p : Fin 2) (addr : BitVec 24) (size : BitVec 13) (write : Bool) (s : State) : exec (.bar0BadAccess p addr size write) s = execBar0BadAccess p addr size write s := rfl
@[simp] theorem exec_apertureAccess (p : Fin 2) (off : BitVec 28) (write : Bool) (data : List (Option Byte)) (s : State) : exec (.apertureAccess p off write data) s = execApertureAccess p off write data s := rfl
@[simp] theorem exec_resultWindowRead (p : Fin 2) (off : BitVec 28) (len : Nat) (s : State) : exec (.resultWindowRead p off len) s = execResultWindowRead p off len s := rfl
@[simp] theorem exec_configurationRequest (p : Fin 2) (off : BitVec 12) (write : Bool) (v : BitVec 32) (s : State) : exec (.configurationRequest p off write v) s = execConfigurationRequest p off write v s := rfl
@[simp] theorem exec_portLoss (p : Fin 2) (why : LossKind) (s : State) : exec (.portLoss p why) s = execPortLoss p why s := rfl
@[simp] theorem exec_graceExpiry (p : Fin 2) (s : State) : exec (.graceExpiry p) s = execGraceExpiry p s := rfl
@[simp] theorem exec_railLost (r : RailId) (s : State) : exec (.railLost r) s = execRailLost r s := rfl
@[simp] theorem exec_powerUp (recoveryLow : Bool) (s : State) : exec (.powerUp recoveryLow) s = execPowerUp recoveryLow s := rfl
@[simp] theorem exec_rstL (level recoveryLow : Bool) (s : State) : exec (.rstL level recoveryLow) s = execRstL level recoveryLow s := rfl
@[simp] theorem exec_startUpComplete (boot : BootEnd) (failed : BitVec 32) (blocks : List Block) (quick trained : BitVec 8) (s : State) : exec (.startUpComplete boot failed blocks quick trained) s = execStartUpComplete boot failed blocks quick trained s := rfl
@[simp] theorem exec_deviceFault (code : BitVec 16) (failed : BitVec 32) (blocks : List Block) (s : State) : exec (.deviceFault code failed blocks) s = execDeviceFault code failed blocks s := rfl
@[simp] theorem exec_loopLockLost (n : Fin 16) (s : State) : exec (.loopLockLost n) s = execLoopLockLost n s := rfl
@[simp] theorem exec_thermalTrip (n : Fin 36) (s : State) : exec (.thermalTrip n) s = execThermalTrip n s := rfl
@[simp] theorem exec_sensorSample (n : Fin 36) (temp : Int) (s : State) : exec (.sensorSample n temp) s = execSensorSample n temp s := rfl
@[simp] theorem exec_dozeWake (n : Fin 16) (s : State) : exec (.dozeWake n) s = execDozeWake n s := rfl
@[simp] theorem exec_dozeExitComplete (s : State) : exec (.dozeExitComplete) s = execDozeExitComplete s := rfl
@[simp] theorem exec_shutdownComplete (failed : BitVec 32) (blocks : List Block) (s : State) : exec (.shutdownComplete failed blocks) s = execShutdownComplete failed blocks s := rfl
@[simp] theorem exec_wakeEvent (w : WakeKind) (recoveryLow : Bool) (s : State) : exec (.wakeEvent w recoveryLow) s = execWakeEvent w recoveryLow s := rfl
@[simp] theorem exec_wakeRailTimeout (s : State) : exec (.wakeRailTimeout) s = execWakeRailTimeout s := rfl
@[simp] theorem exec_wakeRailsGood (s : State) : exec (.wakeRailsGood) s = execWakeRailsGood s := rfl
@[simp] theorem exec_firing (k : Fin 64) (n : Fin 2048) (grant : BitVec 3) (s : State) : exec (.firing k n grant) s = execFiring k n grant s := rfl
@[simp] theorem exec_gangFiring (k : Fin 64) (n : Fin 2048) (s : State) : exec (.gangFiring k n) s = execGangFiring k n s := rfl
@[simp] theorem exec_gateCellDiscard (k : Fin 64) (n : Fin 16384) (s : State) : exec (.gateCellDiscard k n) s = execGateCellDiscard k n s := rfl
@[simp] theorem exec_park (k : Fin 64) (s : State) : exec (.park k) s = execPark k s := rfl
@[simp] theorem exec_isolateLimitExpiry (k : Fin 64) (s : State) : exec (.isolateLimitExpiry k) s = execIsolateLimitExpiry k s := rfl
@[simp] theorem exec_rowTapEvent (k : Fin 64) (row : Fin 32) (s : State) : exec (.rowTapEvent k row) s = execRowTapEvent k row s := rfl
@[simp] theorem exec_binRead (k : Fin 64) (n : Fin 64) (port : Fin 2) (s : State) : exec (.binRead k n port) s = execBinRead k n port s := rfl
@[simp] theorem exec_binWrite (k : Fin 64) (n : Fin 64) (port : Fin 2) (s : State) : exec (.binWrite k n port) s = execBinWrite k n port s := rfl
@[simp] theorem exec_fifoWrite (k : Fin 64) (n : Fin 64) (s : State) : exec (.fifoWrite k n) s = execFifoWrite k n s := rfl
@[simp] theorem exec_fifoRead (k : Fin 64) (n : Fin 64) (s : State) : exec (.fifoRead k n) s = execFifoRead k n s := rfl
@[simp] theorem exec_itemWrite (k : Fin 64) (n : Fin 64) (s : State) : exec (.itemWrite k n) s = execItemWrite k n s := rfl
@[simp] theorem exec_itemSelect (k : Fin 64) (n : Fin 64) (s : State) : exec (.itemSelect k n) s = execItemSelect k n s := rfl
@[simp] theorem exec_release (k : Fin 64) (n : Fin 64) (s : State) : exec (.release k n) s = execRelease k n s := rfl
@[simp] theorem exec_releaseThroughMark (k : Fin 64) (n : Fin 64) (s : State) : exec (.releaseThroughMark k n) s = execReleaseThroughMark k n s := rfl
@[simp] theorem exec_saveMark (k : Fin 64) (n : Fin 64) (s : State) : exec (.saveMark k n) s = execSaveMark k n s := rfl
@[simp] theorem exec_rewind (k : Fin 64) (n : Fin 64) (s : State) : exec (.rewind k n) s = execRewind k n s := rfl
@[simp] theorem exec_clearMark (k : Fin 64) (n : Fin 64) (s : State) : exec (.clearMark k n) s = execClearMark k n s := rfl
@[simp] theorem exec_segmentRead (ok : Bool) (s : State) : exec (.segmentRead ok) s = execSegmentRead ok s := rfl
@[simp] theorem exec_pourLiftReady (d : Fin 2) (s : State) : exec (.pourLiftReady d) s = execPourLiftReady d s := rfl
@[simp] theorem exec_releaseStage (job : Nat) (s : State) : exec (.releaseStage job) s = execReleaseStage job s := rfl
@[simp] theorem exec_fettlerFrame (d : Fin 2) (s : State) : exec (.fettlerFrame d) s = execFettlerFrame d s := rfl
@[simp] theorem exec_fettlerWrite (d : Fin 2) (s : State) : exec (.fettlerWrite d) s = execFettlerWrite d s := rfl
@[simp] theorem exec_governorWindow (s : State) : exec (.governorWindow) s = execGovernorWindow s := rfl
@[simp] theorem exec_avsbusResponse (d : Fin 2) (ok : Bool) (mv : Nat) (s : State) : exec (.avsbusResponse d ok mv) s = execAvsbusResponse d ok mv s := rfl
@[simp] theorem exec_take (c : Fin 256) (s : State) : exec (.take c) s = execTake c s := rfl
@[simp] theorem exec_emit (c : Fin 256) (s : State) : exec (.emit c) s = execEmit c s := rfl
@[simp] theorem exec_pass (c : Fin 256) (s : State) : exec (.pass c) s = execPass c s := rfl
@[simp] theorem exec_done (c : Fin 256) (s : State) : exec (.done c) s = execDone c s := rfl
@[simp] theorem exec_trap (c : Fin 256) (s : State) : exec (.trap c) s = execTrap c s := rfl
@[simp] theorem exec_nop (c : Fin 256) (s : State) : exec (.nop c) s = execNop c s := rfl
@[simp] theorem exec_sli (c : Fin 256) (s : State) : exec (.sli c) s = execSli c s := rfl
@[simp] theorem exec_sadd (c : Fin 256) (s : State) : exec (.sadd c) s = execSadd c s := rfl
@[simp] theorem exec_ssub (c : Fin 256) (s : State) : exec (.ssub c) s = execSsub c s := rfl
@[simp] theorem exec_smul (c : Fin 256) (s : State) : exec (.smul c) s = execSmul c s := rfl
@[simp] theorem exec_sand (c : Fin 256) (s : State) : exec (.sand c) s = execSand c s := rfl
@[simp] theorem exec_sor (c : Fin 256) (s : State) : exec (.sor c) s = execSor c s := rfl
@[simp] theorem exec_sxor (c : Fin 256) (s : State) : exec (.sxor c) s = execSxor c s := rfl
@[simp] theorem exec_sshl (c : Fin 256) (s : State) : exec (.sshl c) s = execSshl c s := rfl
@[simp] theorem exec_sshr (c : Fin 256) (s : State) : exec (.sshr c) s = execSshr c s := rfl
@[simp] theorem exec_beq (c : Fin 256) (s : State) : exec (.beq c) s = execBeq c s := rfl
@[simp] theorem exec_bne (c : Fin 256) (s : State) : exec (.bne c) s = execBne c s := rfl
@[simp] theorem exec_blt (c : Fin 256) (s : State) : exec (.blt c) s = execBlt c s := rfl
@[simp] theorem exec_bge (c : Fin 256) (s : State) : exec (.bge c) s = execBge c s := rfl
@[simp] theorem exec_jmp (c : Fin 256) (s : State) : exec (.jmp c) s = execJmp c s := rfl
@[simp] theorem exec_vld (c : Fin 256) (s : State) : exec (.vld c) s = execVld c s := rfl
@[simp] theorem exec_vst (c : Fin 256) (s : State) : exec (.vst c) s = execVst c s := rfl
@[simp] theorem exec_sld (c : Fin 256) (s : State) : exec (.sld c) s = execSld c s := rfl
@[simp] theorem exec_sst (c : Fin 256) (s : State) : exec (.sst c) s = execSst c s := rfl
@[simp] theorem exec_ald (c : Fin 256) (s : State) : exec (.ald c) s = execAld c s := rfl
@[simp] theorem exec_ast (c : Fin 256) (s : State) : exec (.ast c) s = execAst c s := rfl
@[simp] theorem exec_vadd (c : Fin 256) (s : State) : exec (.vadd c) s = execVadd c s := rfl
@[simp] theorem exec_vsub (c : Fin 256) (s : State) : exec (.vsub c) s = execVsub c s := rfl
@[simp] theorem exec_vaddsat (c : Fin 256) (s : State) : exec (.vaddsat c) s = execVaddsat c s := rfl
@[simp] theorem exec_vsubsat (c : Fin 256) (s : State) : exec (.vsubsat c) s = execVsubsat c s := rfl
@[simp] theorem exec_vmin (c : Fin 256) (s : State) : exec (.vmin c) s = execVmin c s := rfl
@[simp] theorem exec_vmax (c : Fin 256) (s : State) : exec (.vmax c) s = execVmax c s := rfl
@[simp] theorem exec_vabsd (c : Fin 256) (s : State) : exec (.vabsd c) s = execVabsd c s := rfl
@[simp] theorem exec_vand (c : Fin 256) (s : State) : exec (.vand c) s = execVand c s := rfl
@[simp] theorem exec_vor (c : Fin 256) (s : State) : exec (.vor c) s = execVor c s := rfl
@[simp] theorem exec_vxor (c : Fin 256) (s : State) : exec (.vxor c) s = execVxor c s := rfl
@[simp] theorem exec_vshl (c : Fin 256) (s : State) : exec (.vshl c) s = execVshl c s := rfl
@[simp] theorem exec_vshr (c : Fin 256) (s : State) : exec (.vshr c) s = execVshr c s := rfl
@[simp] theorem exec_vsel (c : Fin 256) (s : State) : exec (.vsel c) s = execVsel c s := rfl
@[simp] theorem exec_vmov (c : Fin 256) (s : State) : exec (.vmov c) s = execVmov c s := rfl
@[simp] theorem exec_vceq (c : Fin 256) (s : State) : exec (.vceq c) s = execVceq c s := rfl
@[simp] theorem exec_vcne (c : Fin 256) (s : State) : exec (.vcne c) s = execVcne c s := rfl
@[simp] theorem exec_vclt (c : Fin 256) (s : State) : exec (.vclt c) s = execVclt c s := rfl
@[simp] theorem exec_vcge (c : Fin 256) (s : State) : exec (.vcge c) s = execVcge c s := rfl
@[simp] theorem exec_kand (c : Fin 256) (s : State) : exec (.kand c) s = execKand c s := rfl
@[simp] theorem exec_kor (c : Fin 256) (s : State) : exec (.kor c) s = execKor c s := rfl
@[simp] theorem exec_knot (c : Fin 256) (s : State) : exec (.knot c) s = execKnot c s := rfl
@[simp] theorem exec_kget (c : Fin 256) (s : State) : exec (.kget c) s = execKget c s := rfl
@[simp] theorem exec_kset (c : Fin 256) (s : State) : exec (.kset c) s = execKset c s := rfl
@[simp] theorem exec_kcnt (c : Fin 256) (s : State) : exec (.kcnt c) s = execKcnt c s := rfl
@[simp] theorem exec_vmac (c : Fin 256) (s : State) : exec (.vmac c) s = execVmac c s := rfl
@[simp] theorem exec_vmul (c : Fin 256) (s : State) : exec (.vmul c) s = execVmul c s := rfl
@[simp] theorem exec_aclr (c : Fin 256) (s : State) : exec (.aclr c) s = execAclr c s := rfl
@[simp] theorem exec_aext (c : Fin 256) (s : State) : exec (.aext c) s = execAext c s := rfl
@[simp] theorem exec_vrsum (c : Fin 256) (s : State) : exec (.vrsum c) s = execVrsum c s := rfl
@[simp] theorem exec_vrmin (c : Fin 256) (s : State) : exec (.vrmin c) s = execVrmin c s := rfl
@[simp] theorem exec_vrmax (c : Fin 256) (s : State) : exec (.vrmax c) s = execVrmax c s := rfl
@[simp] theorem exec_arsum (c : Fin 256) (s : State) : exec (.arsum c) s = execArsum c s := rfl
@[simp] theorem exec_vperm (c : Fin 256) (s : State) : exec (.vperm c) s = execVperm c s := rfl
@[simp] theorem exec_vrot (c : Fin 256) (s : State) : exec (.vrot c) s = execVrot c s := rfl
@[simp] theorem exec_vgets (c : Fin 256) (s : State) : exec (.vgets c) s = execVgets c s := rfl
@[simp] theorem exec_vsets (c : Fin 256) (s : State) : exec (.vsets c) s = execVsets c s := rfl
@[simp] theorem exec_vlut (c : Fin 256) (s : State) : exec (.vlut c) s = execVlut c s := rfl
@[simp] theorem exec_vhist (c : Fin 256) (s : State) : exec (.vhist c) s = execVhist c s := rfl
@[simp] theorem exec_dpull (c : Fin 256) (s : State) : exec (.dpull c) s = execDpull c s := rfl
@[simp] theorem exec_dpush (c : Fin 256) (s : State) : exec (.dpush c) s = execDpush c s := rfl
@[simp] theorem exec_dwait (c : Fin 256) (s : State) : exec (.dwait c) s = execDwait c s := rfl
@[simp] theorem exec_dtest (c : Fin 256) (s : State) : exec (.dtest c) s = execDtest c s := rfl
@[simp] theorem exec_waitc (c : Fin 256) (s : State) : exec (.waitc c) s = execWaitc c s := rfl
@[simp] theorem exec_waitcExpiry (c : Fin 256) (s : State) : exec (.waitcExpiry c) s = execWaitcExpiry c s := rfl
@[simp] theorem exec_dmaComplete (c : Fin 256) (t : Fin 8) (s : State) : exec (.dmaComplete c t) s = execDmaComplete c t s := rfl
@[simp] theorem exec_windowPullComplete (c : Fin 256) (n : Fin 2) (s : State) : exec (.windowPullComplete c n) s = execWindowPullComplete c n s := rfl
@[simp] theorem exec_clockStop (c : Fin 256) (s : State) : exec (.clockStop c) s = execClockStop c s := rfl
@[simp] theorem exec_casterRestart (c : Fin 256) (s : State) : exec (.casterRestart c) s = execCasterRestart c s := rfl
@[simp] theorem exec_kernelLoadSwitch (c : Fin 256) (s : State) : exec (.kernelLoadSwitch c) s = execKernelLoadSwitch c s := rfl
@[simp] theorem exec_casterRetired (c : Fin 256) (s : State) : exec (.casterRetired c) s = execCasterRetired c s := rfl
@[simp] theorem exec_commandLimitExpiry (job : Nat) (s : State) : exec (.commandLimitExpiry job) s = execCommandLimitExpiry job s := rfl
@[simp] theorem exec_dispatch (cycle : Nat) (s : State) : exec (.dispatch cycle) s = execDispatch cycle s := rfl
@[simp] theorem exec_completionGrant (c : Fin 256) (s : State) : exec (.completionGrant c) s = execCompletionGrant c s := rfl
@[simp] theorem exec_releaseResume (flow : BitVec 20) (s : State) : exec (.releaseResume flow) s = execReleaseResume flow s := rfl
@[simp] theorem exec_portSubmit (n : Fin 512) (s : State) : exec (.portSubmit n) s = execPortSubmit n s := rfl
@[simp] theorem exec_portEmit (n : Fin 512) (s : State) : exec (.portEmit n) s = execPortEmit n s := rfl
@[simp] theorem exec_portPass (n : Fin 512) (s : State) : exec (.portPass n) s = execPortPass n s := rfl
@[simp] theorem exec_portDone (n : Fin 512) (s : State) : exec (.portDone n) s = execPortDone n s := rfl
@[simp] theorem exec_admissionResume (src : Option (Fin 512)) (s : State) : exec (.admissionResume src) s = execAdmissionResume src s := rfl
@[simp] theorem exec_spillRefill (s : State) : exec (.spillRefill) s = execSpillRefill s := rfl
@[simp] theorem exec_coolDue (s : State) : exec (.coolDue) s = execCoolDue s := rfl
@[simp] theorem exec_tickInput (n : Fin 8) (s : State) : exec (.tickInput n) s = execTickInput n s := rfl
@[simp] theorem exec_flowDrainComplete (job : Nat) (s : State) : exec (.flowDrainComplete job) s = execFlowDrainComplete job s := rfl
@[simp] theorem exec_traceWrite (s : State) : exec (.traceWrite) s = execTraceWrite s := rfl
@[simp] theorem exec_traceEpoch (t : Nat) (s : State) : exec (.traceEpoch t) s = execTraceEpoch t s := rfl
@[simp] theorem exec_streamPacket (n : Fin 128) (tag : Nat) (bytes : List Byte) (crcOk last : Bool) (s : State) : exec (.streamPacket n tag bytes crcOk last) s = execStreamPacket n tag bytes crcOk last s := rfl
@[simp] theorem exec_lineStart (n : Fin 128) (t : Nat) (s : State) : exec (.lineStart n t) s = execLineStart n t s := rfl
@[simp] theorem exec_adapterLine (n : Fin 128) (s : State) : exec (.adapterLine n) s = execAdapterLine n s := rfl
@[simp] theorem exec_pixelStoreRecord (n : Fin 128) (s : State) : exec (.pixelStoreRecord n) s = execPixelStoreRecord n s := rfl
@[simp] theorem exec_ioAcknowledgment (n : Fin 128) (s : State) : exec (.ioAcknowledgment n) s = execIoAcknowledgment n s := rfl
@[simp] theorem exec_ackMiss (n : Fin 128) (s : State) : exec (.ackMiss n) s = execAckMiss n s := rfl
@[simp] theorem exec_controlAcknowledgment (n : Fin 128) (tag : Nat) (ok : Bool) (code : Nat) (data : List Byte) (s : State) : exec (.controlAcknowledgment n tag ok code data) s = execControlAcknowledgment n tag ok code data s := rfl
@[simp] theorem exec_waitAcknowledgment (n : Fin 128) (ms : Nat) (s : State) : exec (.waitAcknowledgment n ms) s = execWaitAcknowledgment n ms s := rfl
@[simp] theorem exec_controlTimeout (n : Fin 128) (s : State) : exec (.controlTimeout n) s = execControlTimeout n s := rfl
@[simp] theorem exec_eventPacket (n : Fin 128) (s : State) : exec (.eventPacket n) s = execEventPacket n s := rfl
@[simp] theorem exec_heartbeat (n : Fin 128) (s : State) : exec (.heartbeat n) s = execHeartbeat n s := rfl
@[simp] theorem exec_linkLoss (n : Fin 128) (s : State) : exec (.linkLoss n) s = execLinkLoss n s := rfl
@[simp] theorem exec_rediscoveryRetry (n : Fin 128) (s : State) : exec (.rediscoveryRetry n) s = execRediscoveryRetry n s := rfl
@[simp] theorem exec_pocxpPowerWait (n : Fin 128) (s : State) : exec (.pocxpPowerWait n) s = execPocxpPowerWait n s := rfl
@[simp] theorem exec_pocxpSenseFault (n : Fin 128) (s : State) : exec (.pocxpSenseFault n) s = execPocxpSenseFault n s := rfl
@[simp] theorem exec_discoveryTimeout (n : Fin 128) (s : State) : exec (.discoveryTimeout n) s = execDiscoveryTimeout n s := rfl
@[simp] theorem exec_setLinkLockTimeout (n : Fin 128) (s : State) : exec (.setLinkLockTimeout n) s = execSetLinkLockTimeout n s := rfl
@[simp] theorem exec_count (e : Fin 8) (b : Bool) (x : LevelEdge) (s : State) : exec (.count e b x) s = execCount e b x s := rfl
@[simp] theorem exec_index (e : Fin 8) (x : LevelEdge) (s : State) : exec (.index e x) s = execIndex e x s := rfl
@[simp] theorem exec_pmaxExpiry (e : Fin 8) (s : State) : exec (.pmaxExpiry e) s = execPmaxExpiry e s := rfl
@[simp] theorem exec_instantFire (s : State) : exec (.instantFire) s = execInstantFire s := rfl
@[simp] theorem exec_pulseEnd (o : Fin 256) (s : State) : exec (.pulseEnd o) s = execPulseEnd o s := rfl
@[simp] theorem exec_ppsEdge (t : Nat) (s : State) : exec (.ppsEdge t) s = execPpsEdge t s := rfl
@[simp] theorem exec_ppsLost (s : State) : exec (.ppsLost) s = execPpsLost s := rfl
@[simp] theorem exec_memoryAccess (ch : Fin 8) (s : State) : exec (.memoryAccess ch) s = execMemoryAccess ch s := rfl
@[simp] theorem exec_requestAging (ch : Fin 8) (s : State) : exec (.requestAging ch) s = execRequestAging ch s := rfl
@[simp] theorem exec_scrubBlock (ch : Fin 8) (s : State) : exec (.scrubBlock ch) s = execScrubBlock ch s := rfl
@[simp] theorem exec_recalibration (ch : Fin 8) (therm : Option (Fin 3)) (s : State) : exec (.recalibration ch therm) s = execRecalibration ch therm s := rfl
@[simp] theorem exec_powerDown (ch : Fin 8) (s : State) : exec (.powerDown ch) s = execPowerDown ch s := rfl
@[simp] theorem exec_releaseIndexRead (k : Fin 64) (s : State) : exec (.releaseIndexRead k) s = execReleaseIndexRead k s := rfl
@[simp] theorem exec_musterRequest (s : State) : exec (.musterRequest) s = execMusterRequest s := rfl
@[simp] theorem exec_musterPin (n : Fin 96) (s : State) : exec (.musterPin n) s = execMusterPin n s := rfl
@[simp] theorem exec_fabricMusterRequest (n : Fin 2) (s : State) : exec (.fabricMusterRequest n) s = execFabricMusterRequest n s := rfl
@[simp] theorem exec_cutLatch (s : State) : exec (.cutLatch) s = execCutLatch s := rfl
@[simp] theorem exec_cutTimeout (s : State) : exec (.cutTimeout) s = execCutTimeout s := rfl
@[simp] theorem exec_pinEdge (n : Fin 96) (level : Bool) (s : State) : exec (.pinEdge n level) s = execPinEdge n level s := rfl
@[simp] theorem exec_uartReceive (n : Fin 96) (v : Byte) (ok : Bool) (s : State) : exec (.uartReceive n v ok) s = execUartReceive n v ok s := rfl
@[simp] theorem exec_uartTransmit (n : Fin 96) (s : State) : exec (.uartTransmit n) s = execUartTransmit n s := rfl
@[simp] theorem exec_i2cCommand (n : Fin 96) (ack : Bool) (v : Byte) (s : State) : exec (.i2cCommand n ack v) s = execI2cCommand n ack v s := rfl
@[simp] theorem exec_spiTransfer (n : Fin 96) (v : Byte) (s : State) : exec (.spiTransfer n v) s = execSpiTransfer n v s := rfl
@[simp] theorem exec_crossingTimeout (x : Crossing) (s : State) : exec (.crossingTimeout x) s = execCrossingTimeout x s := rfl
@[simp] theorem exec_userTreeEdge (n : Fin 3) (rise : Bool) (s : State) : exec (.userTreeEdge n rise) s = execUserTreeEdge n rise s := rfl
@[simp] theorem exec_upset (u : UpsetAt) (s : State) : exec (.upset u) s = execUpset u s := rfl
@[simp] theorem exec_dataLinkUp (p : Fin 2) (speed width : Nat) (s : State) : exec (.dataLinkUp p speed width) s = execDataLinkUp p speed width s := rfl
@[simp] theorem exec_symbolLock (n : Fin 128) (s : State) : exec (.symbolLock n) s = execSymbolLock n s := rfl
@[simp] theorem exec_trainingComplete (ch : Fin 8) (ok : Bool) (s : State) : exec (.trainingComplete ch ok) s = execTrainingComplete ch ok s := rfl
@[simp] theorem exec_bistComplete (failed : BitVec 32) (blocks : List Block) (s : State) : exec (.bistComplete failed blocks) s = execBistComplete failed blocks s := rfl
@[simp] theorem exec_flashTransferComplete (job : Nat) (ok : Bool) (s : State) : exec (.flashTransferComplete job ok) s = execFlashTransferComplete job ok s := rfl
@[simp] theorem exec_hostReadCompletion (p : Fin 2) (what : HostRead) (ok : Bool) (s : State) : exec (.hostReadCompletion p what ok) s = execHostReadCompletion p what ok s := rfl
@[simp] theorem exec_railMonitorRefresh (r : Fin 7) (mv : Nat) (oot : Bool) (s : State) : exec (.railMonitorRefresh r mv oot) s = execRailMonitorRefresh r mv oot s := rfl
@[simp] theorem exec_jtagInstruction (l : JtagLoad) (s : State) : exec (.jtagInstruction l) s = execJtagInstruction l s := rfl

end Sys2Proof.Laws
end

