-- ==== Sys2Proof/Laws/Casters.lean ====
section
/-! SUPPORT. Laws of the caster's registers and lanes: what a lane of a packed value holds, and how an instruction that
completes is compared with what it should leave. -/

namespace Sys2Proof.Laws

open Sys2Proof Machine Safety

/-! ### Lanes -/

/-- The places of a number built from the least significant place up. -/
theorem place_foldr {base : Nat} (hb : 0 < base) (f : Nat → Nat) (l : List Nat) (n : Nat) (hn : n < l.length) :
    l.foldr (fun i m => f i % base + base * m) 0 / base ^ n % base = f l[n] % base := by
  induction l generalizing n with
  | nil => simp at hn
  | cons a r ih =>
    rw [List.foldr_cons]
    cases n with
    | zero => simp
    | succ n =>
      rw [Nat.pow_succ', ← Nat.div_div_eq_div_mul, Nat.add_mul_div_left _ _ hb, Nat.div_eq_of_lt (Nat.mod_lt _ hb), Nat.zero_add]
      simpa using ih n (by simpa using hn)

/-- Lane `n` of 64 packed lanes. -/
theorem packLanes_place {base : Nat} (hb : 0 < base) (f : Nat → Nat) {n : Nat} (hn : n < 64) :
    packLanes base f / base ^ n % base = f n % base := by
  have := place_foldr hb f (List.range 64) n (by simpa using hn)
  simpa [packLanes] using this

/-- A place of a number below a power of its base is a place of the number cut to that power. -/
theorem place_mod {base x n m : Nat} (hn : n < m) : x % base ^ m / base ^ n % base = x / base ^ n % base := by
  obtain ⟨k, rfl⟩ : ∃ k, m = n + (k + 1) := ⟨m - n - 1, by omega⟩
  rw [Nat.pow_add, Nat.mod_mul_right_div_self, Nat.pow_succ, Nat.mod_mul_left_mod]

theorem lane8_pack (f : Nat → Nat) {n : Nat} (hn : n < 64) : lane8 (BitVec.ofNat 512 (packLanes 256 f)) n = f n % 256 := by
  rw [← packLanes_place (by decide) f hn, lane8, fld, BitVec.toNat_ofNat, show 512 = 8 * 64 from rfl, Nat.pow_mul, Nat.pow_mul]
  exact place_mod hn

theorem lane32_pack (f : Nat → Nat) {n : Nat} (hn : n < 64) :
    lane32 (BitVec.ofNat 2048 (packLanes (2 ^ 32) f)) n = f n % 2 ^ 32 := by
  rw [← packLanes_place (by decide) f hn, lane32, fld, BitVec.toNat_ofNat, show 2048 = 32 * 64 from rfl, Nat.pow_mul, Nat.pow_mul]
  exact place_mod hn

theorem bit_pack (f : Nat → Nat) {n : Nat} (hn : n < 64) (h1 : f n < 2) :
    (BitVec.ofNat 64 (packLanes 2 f)).getLsbD n = decide (f n = 1) := by
  rw [BitVec.getLsbD_ofNat, decide_eq_true hn, Bool.true_and, Nat.testBit_eq_decide_div_mod_eq,
    packLanes_place (by decide) f hn, Nat.mod_eq_of_lt h1]

theorem lane8_lt (v : BitVec 512) (n : Nat) : lane8 v n < 256 := Nat.mod_lt _ (by decide)
theorem lane32_lt (v : BitVec 2048) (n : Nat) : lane32 v n < 2 ^ 32 := Nat.mod_lt _ (by decide)

/-! ### Instructions that complete -/

/-- Two effects of an instruction are the same when they agree on the caster as it stands. -/
theorem complete1_congr {s : State} {c : Fin 256} {n : Nat} {f g : Caster → Caster}
    (h : ∀ e, f (withEcc s.cast[c] e) = g (withEcc s.cast[c] e)) :
    complete1 (fetched s c) c n f = complete1 (fetched s c) c n g := by
  obtain ⟨e, he⟩ := fetched_get s c
  have hfg : f (fetched s c).cast[c] = g (fetched s c).cast[c] := by rw [he, h e]
  simp only [complete1, State.modCast, vmod, hfg]

/-- An instruction on registers alone that issues. -/
theorem registerOp_issues {op : Nat} {c : Fin 256} {s : State} {w : BitVec 64} {f : BitVec 64 → Caster → Caster}
    {g : Caster → Caster} (h : Issues s c w) (hw : wOp w = op)
    (hg : ∀ e, f w (withEcc s.cast[c] e) = g (withEcc s.cast[c] e)) :
    registerOp op c s f = .next (complete1 (fetched s c) c 1 g) := by
  rw [registerOp, issue_issues h hw, complete1_congr hg]

/-- The vector written under a mask, lane by lane. -/
theorem vWrite_lanes (h : Caster) (d : Nat) (m : BitVec 64) (f : Nat → Nat) :
    ∃ x : BitVec 512, vWrite h d m f = { h with v := vmodN h.v d fun _ => x } ∧
      ∀ n, n < 64 → lane8 x n = if m.getLsbD n then f n % 256 else lane8 (vGet h d) n := by
  refine ⟨_, rfl, fun n hn => ?_⟩
  rw [lane8_pack _ hn]
  split
  · rfl
  · exact Nat.mod_eq_of_lt (lane8_lt _ _)

/-- The accumulator written under a mask, lane by lane. -/
theorem aWrite_lanes (h : Caster) (d : Nat) (m : BitVec 64) (f : Nat → Nat) :
    ∃ x : BitVec 2048, aWrite h d m f = { h with acc := vmodN h.acc d fun _ => x } ∧
      ∀ n, n < 64 → lane32 x n = if m.getLsbD n then f n % 2 ^ 32 else lane32 (aGet h d) n := by
  refine ⟨_, rfl, fun n hn => ?_⟩
  rw [lane32_pack _ hn]
  split
  · rfl
  · exact Nat.mod_eq_of_lt (lane32_lt _ _)

end Sys2Proof.Laws
end

