-- ==== Sys2Proof/Laws/PerInstr.lean ====
section
/-! SUPPORT. One lemma per constructor. -/

namespace Sys2Proof.Laws
end Sys2Proof.Laws
end

