-- ==== Sys2Proof/Laws/Replies.lean ====
section
/-! SUPPORT. What a reply, a message or a port error may change: the host ports, what has been sent, the event bits with the
time of the last error event, and the musters that an event requests. -/

namespace Sys2Proof.Laws

open Sys2Proof Sys2Proof.Machine

/-- `a` with the host ports, the output log, the musters and the events of `b`. -/
def withReplies (a b : State) : State :=
  { a with hosts := b.hosts, out := b.out, mus := b.mus, dev := { a.dev with evt := b.dev.evt, lastErr := b.dev.lastErr } }

/-- From `a` to `b` nothing else has changed. -/
def RepliesOnly (a b : State) : Prop := b = withReplies a b

theorem RepliesOnly.refl (s : State) : RepliesOnly s s := rfl

theorem RepliesOnly.trans {a b c : State} (h : RepliesOnly a b) (g : RepliesOnly b c) : RepliesOnly a c :=
  Eq.trans g (congrArg (withReplies · c) h : withReplies b c = withReplies (withReplies a b) c)

theorem modPort_replies (s : State) (p : Fin 2) (f : Port → Port) : RepliesOnly s (s.modPort p f) := rfl

theorem modRing_replies (s : State) (p : Fin 2) (i : Fin 24) (f : Ring → Ring) : RepliesOnly s (s.modRing p i f) := rfl

theorem emit_replies (s : State) (o : Out) : RepliesOnly s (s.emit o) := rfl

theorem hostOut_replies (s : State) (p : Fin 2) (l : List (Nat × List Byte)) : RepliesOnly s (hostOut s p l) := by
  unfold hostOut
  split
  · rfl
  · exact modPort_replies s p _

/-- A port that masters the bus writes at once, in order. -/
theorem hostOut_masters {s : State} {p : Fin 2} (h : masters s.hosts.port[p] = true) (l : List (Nat × List Byte)) :
    hostOut s p l = { s with out := s.out ++ l.map fun x => Out.hostWrite p x.1 x.2 } := by unfold hostOut; rw [if_pos h]

/-- The writes of a port that may not master the bus wait behind those that wait already. -/
theorem hostOut_waits {s : State} {p : Fin 2} (h : masters s.hosts.port[p] = false) (l : List (Nat × List Byte)) :
    hostOut s p l = s.modPort p fun x => { x with dmaHeld := x.dmaHeld ++ l } := by
  unfold hostOut; rw [if_neg (by rw [h]; decide)]

theorem sendMsix_replies (s : State) (p : Fin 2) (v : BitVec 6) : RepliesOnly s (sendMsix s p v) := by
  unfold sendMsix
  simp only
  split
  · split
    · exact modPort_replies s p _
    · exact emit_replies s _
  · exact .refl s

theorem musterOnEvent_replies (s : State) (n : Nat) : RepliesOnly s (musterOnEvent s n) := by
  unfold musterOnEvent musterRequest
  repeat' split
  all_goals rfl

theorem raisePort_replies (s : State) (p : Fin 2) (n : Nat) : RepliesOnly s (raisePort s p n) := by
  unfold raisePort raiseAt
  refine .trans ?_ (musterOnEvent_replies _ n)
  simp only
  split
  · refine .trans ?_ (sendMsix_replies _ p _)
    rfl
  · rfl

theorem hpErr_replies (s : State) (p : Fin 2) (bit : Nat) : RepliesOnly s (hpErr s p bit) := by
  unfold hpErr
  simp only
  split
  · exact modPort_replies s p _
  · exact .trans (modPort_replies s p _) (raisePort_replies _ p _)

theorem ringMessage_replies (s : State) (p : Fin 2) (i : Fin 24) : RepliesOnly s (ringMessage s p i) := by
  unfold ringMessage
  simp only
  split
  · exact .refl s
  · split
    · exact modRing_replies s p i _
    · split
      · exact sendMsix_replies s p _
      · exact .trans (sendMsix_replies s p _) (modRing_replies _ p i _)

theorem putReply_replies (s : State) (p : Fin 2) (n : Fin 4) (l : List Byte) : RepliesOnly s (putReply s p n l) := by
  unfold putReply writeReply
  simp only
  split
  · exact .trans (hostOut_replies s p _) (.trans (modRing_replies _ p _ _) (ringMessage_replies _ p _))
  · exact modRing_replies s p _ _

/-- A reply changes nothing but the host ports, what is sent, the events and the musters they request. -/
theorem sendReply_replies (s : State) (src : CmdSrc) (epoch : Nat) (reply : Bool) (opcode : BitVec 16) (tag : BitVec 32)
    (st : Status) (detail : Nat) (data : List Byte) : RepliesOnly s (sendReply s src epoch reply opcode tag st detail data) := by
  have count : ∀ p, RepliesOnly s
      (if st = .stateRefused then s.modPort p fun h => { h with cntRefused := h.cntRefused + 1 } else s) := by
    intro p; split
    · exact modPort_replies s p _
    · exact .refl s
  unfold sendReply
  cases src with
  | sideband => exact .refl s
  | ring p n =>
    have h := count p
    simp only
    generalize (if st = .stateRefused then s.modPort p fun h => { h with cntRefused := h.cntRefused + 1 } else s) = t at h ⊢
    refine .trans h ?_
    split
    · exact .refl t
    · split
      · exact putReply_replies t p n _
      · exact hpErr_replies t p _
  | mailbox p =>
    have h := count p
    simp only
    generalize (if st = .stateRefused then s.modPort p fun h => { h with cntRefused := h.cntRefused + 1 } else s) = t at h ⊢
    refine .trans h ?_
    split
    · exact modPort_replies t p _
    · exact .trans (modPort_replies t p _) (raisePort_replies _ p _)

/-- So does a refusal. -/
theorem refuse_replies (c : Cmd) (s : State) (d : Deny) : RepliesOnly s (refuse c s d) := by
  unfold refuse replyTo
  simp only
  refine .trans ?_ (sendReply_replies _ _ _ _ _ _ _ _ _)
  split
  · exact hpErr_replies s _ _
  · exact .refl s

end Sys2Proof.Laws
end

