-- ==== Sys2Proof/Tests/Slice0.lean ====
section
/-! SUPPORT. Tests/Slice0.lean: the model's own tests. `test_…` are checks of single steps and of well-formedness with
expected results worked out from the spec; `witness_<Name>` shows, for each clause of the statement Obligations.<Name> that
has hypotheses, a state and operands that meet them all. -/

namespace Sys2Proof.Tests

open Sys2Proof Machine Safety

/- One theorem at a time: each kernel evaluation waits for the one before it, and threads that wait hold their stacks. -/
set_option Elab.async false

/-! ### Small states -/

/-- The block in HALTER with its start-up done. -/
def halter : State := { State.reset with dev.state := .halter, dev.heldInReset := false }

/-- The block in SERVICE. -/
def service : State := { State.reset with dev.state := .service, dev.heldInReset := false }

/-- A caster instruction: OP, D, A, B and IMM, every other field 0. -/
def word (op d a b imm : Nat) : BitVec 64 := BitVec.ofNat 64 (op * 2 ^ 56 + d * 2 ^ 51 + a * 2 ^ 46 + b * 2 ^ 41 + imm)

/-- A running caster at word 0 of its store, which holds `w`. -/
def caster (w : BitVec 64) : Caster := { mode := .running, pc := 0, store := [(0, w)] }

/-- The block with `h` as its caster 0. -/
def castAt (h : Caster) : State := service.modCast 0 fun _ => h

/-- The same with one active DDR channel of 1 GiB or more, whose first 64 KiB are a user region. -/
def withDdr (s : State) : State :=
  { s with
    ddr.chan := vmod s.ddr.chan (0 : Fin 8) fun c => { c with state := .active }
    ddr.desc := #v[some {}, none]
    ddr.active := #v[[0], []]
    ddr.map := [{ kind := .user, index := 0, base := 0, len := 65536 }] }


/-! ### Casters -/

theorem witness_ScalarInstructions : ∀ op ∈ List.range 10,
    let w := word op 1 2 3 5
    Issues (castAt (caster w)) 0 w ∧ wOp w = op := by decide

theorem witness_Branches : ∀ op ∈ [0x10, 0x11, 0x12, 0x13, 0x14],
    let w := word op 0 1 2 7
    (let s := castAt (sSet (caster w) 1 4)
     Issues s 0 w ∧ wOp w = op ∧ sGet s.cast[(0 : Fin 256)] (wA w) ≠ sGet s.cast[(0 : Fin 256)] (wB w)
       ∧ ¬((sGet s.cast[(0 : Fin 256)] (wA w)).toNat < (sGet s.cast[(0 : Fin 256)] (wB w)).toNat)) ∧
    (let s := castAt (sSet (caster w) 2 4)
     Issues s 0 w ∧ (sGet s.cast[(0 : Fin 256)] (wA w)).toNat < (sGet s.cast[(0 : Fin 256)] (wB w)).toNat) ∧
    (let s := castAt (caster w)
     Issues s 0 w ∧ sGet s.cast[(0 : Fin 256)] (wA w) = sGet s.cast[(0 : Fin 256)] (wB w)) := by decide

theorem witness_VectorLanes : ∀ op ∈ List.range' 0x30 14 ++ [0x60, 0x61],
    let w := word op 1 2 3 0
    Issues (castAt (caster w)) 0 w ∧ wOp w = op := by decide

theorem witness_LaneMasks : ∀ op ∈ [0x40, 0x41, 0x42, 0x43, 0x46, 0x47, 0x48, 0x49, 0x4A, 0x4B],
    let w := word op 1 2 3 0
    Issues (castAt (caster w)) 0 w ∧ wOp w = op := by decide

theorem witness_Accumulators : ∀ op ∈ [0x50, 0x51, 0x52, 0x53],
    let w := word op 1 2 3 31
    Issues (castAt (caster w)) 0 w ∧ wOp w = op := by decide

/-- With k0 every lane is set, and all lanes hold 0, so lane 0 is the least and the greatest; with k1 = 0 no lane is set. -/
theorem witness_Reductions : (∀ op ∈ [0x58, 0x59, 0x5A, 0x5B, 0x62, 0x63],
    let w := word op 1 2 3 60
    Issues (castAt (caster w)) 0 w ∧ wOp w = op ∧ wImm w % 64 ≤ 60) ∧
    (∀ op ∈ [0x59, 0x5A],
      let w := word op 1 2 3 0
      0 ∈ (List.range 64).filter (fun n => (kGet (caster w) (wK w)).getLsbD n) ∧
      ∀ j ∈ List.range 64, laneInt (wSg w) (lane8 (vGet (caster w) (wA w)) j) = 0) ∧
    (∀ op ∈ [0x59, 0x5A],
      let w := word op 1 2 3 0 + 2 ^ 38
      Issues (castAt (caster w)) 0 w ∧ wOp w = op ∧ (List.range 64).filter (fun n => (kGet (caster w) (wK w)).getLsbD n) = []) := by
  decide +kernel

/-- The last block, word and 256-byte block below the ladle, and a full table of 64 blocks of 64 bytes. -/
theorem witness_Loads :
    (let w := word 0x20 1 0 0 0x1BFC0
     Issues (castAt (caster w)) 0 w ∧ memAddr (caster w) w % 64 = 0 ∧ Within (caster w) (memAddr (caster w) w) 64 ∧
       Readable (caster w) (memAddr (caster w) w) 64) ∧
    (let w := word 0x22 1 0 0 0x1BFFC
     Issues (castAt (caster w)) 0 w ∧ memAddr (caster w) w % 4 = 0 ∧ Within (caster w) (memAddr (caster w) w) 4 ∧
       Readable (caster w) (memAddr (caster w) w) 4) ∧
    (let w := word 0x24 1 0 0 0x1BF00
     Issues (castAt (caster w)) 0 w ∧ memAddr (caster w) w % 256 = 0 ∧ Within (caster w) (memAddr (caster w) w) 256 ∧
       Readable (caster w) (memAddr (caster w) w) 256) ∧
    (let w := word 0x64 1 0 2 0x1B000
     Issues (castAt (caster w)) 0 w ∧ memAddr (caster w) w % 64 = 0 ∧ ∀ n ∈ List.range 64,
       Within (caster w) (memAddr (caster w) w + 64 * (lane8 (vGet (caster w) (wB w)) n % 64) + n) 1 ∧
       (wordFlips (caster w) ((memAddr (caster w) w + 64 * (lane8 (vGet (caster w) (wB w)) n % 64) + n) / 8)).length ≤ 1) := by
  decide +kernel

theorem witness_Stores : Memory.wf (caster 0).mem = true ∧
    (let w := word 0x21 1 0 0 0x1BFC0
     Issues (castAt (caster w)) 0 w ∧ wOp w = 0x21 ∧ memAddr (caster w) w % 64 = 0 ∧ Within (caster w) (memAddr (caster w) w) 64 ∧
       ∀ j ∈ List.range 8, (wordFlips (caster w) (memAddr (caster w) w / 8 + j)).length ≤ 1) ∧
    (let w := word 0x23 1 0 0 0x1BFFC
     Issues (castAt (caster w)) 0 w ∧ wOp w = 0x23 ∧ memAddr (caster w) w % 4 = 0 ∧ Within (caster w) (memAddr (caster w) w) 4 ∧
       Readable (caster w) (memAddr (caster w) w) 4) ∧
    (let w := word 0x25 1 0 0 0x1BF00
     Issues (castAt (caster w)) 0 w ∧ wOp w = 0x25 ∧ memAddr (caster w) w % 256 = 0 ∧ Within (caster w) (memAddr (caster w) w) 256) ∧
    (let w := word 0x65 1 0 2 0x1BC00
     Issues (castAt (caster w)) 0 w ∧ wOp w = 0x65 ∧ memAddr (caster w) w % 64 = 0 ∧ ∀ n ∈ List.range 64,
       Within (caster w) (memAddr (caster w) w + 4 * lane8 (vGet (caster w) (wB w)) n) 4 ∧
       (wordFlips (caster w) ((memAddr (caster w) w + 4 * lane8 (vGet (caster w) (wB w)) n) / 8)).length ≤ 1) := by
  decide +kernel

/-- A caster with one placed item in slot 0 in the given state. -/
def holding (w : BitVec 64) (st : SlotState) : Caster := { caster w with slots := #v[{ state := st }, {}] }

theorem witness_WorkItemInstructions :
    (let w := word 0x80 1 2 0 0
     let h := holding w .ready
     Issues (castAt h) 0 w ∧ wOp w = 0x80 ∧ curSlot h = none ∧ oldestSlot h = some 0 ∧ h.slots[0].state = .ready) ∧
    (∀ op ∈ [0x81, 0x82],
      let w := word op 0 2 0 0
      let h := { holding w .current with sent := 15 }
      Issues (castAt h) 0 w ∧ wOp w = op ∧ curSlot h = some 0 ∧ h.sent < 16 ∧ resultsWaiting h < 4) ∧
    (let w := word 0x83 0 0 0 0
     let h := holding w .current
     Issues (castAt h) 0 w ∧ wOp w = 0x83 ∧ curSlot h = some 0 ∧ anyBusy h = false ∧ completionWaits h = false) ∧
    (let w := word 0x8F 0 0 0 9
     Issues (castAt (caster w)) 0 w ∧ wOp w = 0x8F) := by decide

/-- The edge of PASS: a loaded operation whose edge 0 leads to operation 3. -/
theorem witness_WorkItemInstructions_pass :
    let w := word 0x82 0 2 0 0
    let s := castAt (holding w .current)
    let s := { s with sch.graph.ops := [{ edges := #v[some 3, none, none, none, none, none, none, none] }] }
    Issues s 0 w ∧ vget none (opRec s (itOp s.cast[(0 : Fin 256)].slots[(0 : Fin 2)].item)).edges (wImm w % 8) = some 3 := by decide +kernel

theorem witness_DmaInstructions :
    (∀ op ∈ [0x70, 0x71],
      let w := word op 7 1 2 0x1C000
      Issues (castAt (caster w)) 0 w ∧ wOp w = op ∧ (sGet (caster w) (wA w)).toNat + wImm w % 2 ^ 17 ≤ 0x1C000 ∧
        (vget ({} : Tag) (caster w).tags (wD w % 8)).busy = none) ∧
    (∀ op ∈ [0x72, 0x73, 0x78],
      let w := word op 1 0 0 0xFF
      Issues (castAt (caster w)) 0 w ∧ wOp w = op ∧ ∀ t : Fin 8, (caster w).tags[t].busy = none) ∧
    (let d : Dma := { push := false, ext := 0, loc := 64, len := 8 }
     let s := withDdr <| castAt { caster 0 with tags := vset (caster 0).tags 7 { busy := some d } }
     s.cast[(0 : Fin 256)].tags[(7 : Fin 8)].busy = some d ∧ extSpan d.ext d.len = .ddr ∧ memReady s d.ext d.len = true ∧
       (memRead s .caster d.ext d.len).2.isSome = true ∧ (memRead s .caster d.ext d.len).1.cast[(0 : Fin 256)].mode ≠ .faulted) ∧
    (let d : Dma := { push := true, ext := 0, loc := 64, len := 8 }
     let s := withDdr <| castAt { caster 0 with tags := vset (caster 0).tags 7 { busy := some d } }
     let h := s.cast[(0 : Fin 256)]
     h.tags[(7 : Fin 8)].busy = some d ∧ extSpan d.ext d.len = .ddr ∧ memReady s d.ext d.len = true ∧ Readable h d.loc d.len ∧
       h.mode ≠ .faulted ∧ d.loc % 8 = 0 ∧ d.len % 8 = 0 ∧
       (memWrite s .caster d.ext (readBytes h.mem d.loc d.len)).2 = true ∧
       (memWrite s .caster d.ext (readBytes h.mem d.loc d.len)).1.cast[(0 : Fin 256)] = h) ∧
    (∀ ext ∈ [2 ^ 38, 2 ^ 39 + 2 ^ 20],
      let d : Dma := { push := false, ext := ext, loc := 64, len := 64 }
      let s := castAt { caster 0 with tags := vset (caster 0).tags 7 { busy := some d } }
      s.cast[(0 : Fin 256)].tags[(7 : Fin 8)].busy = some d ∧ extSpan d.ext d.len = .invalid ∧ s.cast[(0 : Fin 256)].mode ≠ .faulted) ∧
    (let s := castAt { caster 0 with mode := .inWaitc, waitc := 1 }
     s.cast[(0 : Fin 256)].mode = .inWaitc ∧ casterRuns s 0 = true) := by decide +kernel

theorem witness_CasterEvents :
    (let s := castAt { holding 0 .filling with slots := #v[{ state := .filling, winLen := 65, winSrc := 2 ^ 39 }, {}] }
     let x := s.cast[(0 : Fin 256)].slots[(0 : Fin 2)]
     x.state = .filling ∧ extReady s 0 x.winSrc (64 * ((x.winLen + 63) / 64)) = true) ∧
    (∀ m ∈ [CasterMode.inTake, .waiting],
      let s := castAt { caster (word 0x80 1 2 0 0) with mode := m }
      s.cast[(0 : Fin 256)].mode = m ∧ casterRuns s 0 = true ∧ waitStands s.cast[(0 : Fin 256)] = true) ∧
    (let s := castAt { caster 0 with mode := .faulted }
     s.cast[(0 : Fin 256)].mode = .faulted ∧ anyBusy s.cast[(0 : Fin 256)] = false ∧ casterRuns s 0 = true) ∧
    (let j : Job := { id := 3, kind := .kernelLoad 1 false 5 [] [] 0 0 0 }
     let s := { castAt { caster 0 with drain := some (.kernel 3) } with cmdp.jobs := [j] }
     s.cast[(0 : Fin 256)].drain = some (.kernel 3) ∧ findJob s 3 = some j ∧ drained s.cast[(0 : Fin 256)] = true) ∧
    (let s := castAt { caster 0 with drain := some (.retire 3 true) }
     s.cast[(0 : Fin 256)].drain = some (.retire 3 true) ∧ drained s.cast[(0 : Fin 256)] = true) := by decide +kernel

/-- The last aligned address beyond memory, the last block of the ladle with no current item, and a misaligned address. -/
theorem witness_AccessFaults :
    (let w := word 0x20 1 0 0 0x1FFC1
     Issues (castAt (caster w)) 0 w ∧ wOp w = 0x20 ∧ 0x20000 < memAddr (caster w) w + 64) ∧
    (let w := word 0x20 1 0 0 0x1FFC0
     Issues (castAt (caster w)) 0 w ∧ memAddr (caster w) w + 64 ≤ 0x20000 ∧ ¬Within (caster w) (memAddr (caster w) w) 64) ∧
    (let w := word 0x20 1 0 0 0x1BFBF
     Issues (castAt (caster w)) 0 w ∧ Within (caster w) (memAddr (caster w) w) 64 ∧ memAddr (caster w) w % 64 ≠ 0) := by
  decide +kernel

/-! ### Fabric: paddock 0, released, with the configuration bits and tokens given -/

/-- Bit `b` of stall `n`, as a frame of the paddock and a bit of its payload. -/
def stallBit (n b v : Nat) : Nat × Nat × Nat := ((10240 * n + b) / 4096, (10240 * n + b) % 4096, v)

/-- Bit `b` of bin 0. -/
def binBit (b v : Nat) : Nat × Nat × Nat := (5152, b, v)

/-- Paddock 0 past its releases, with the frame bits `l`, and tokens on the row tap of row 0 and on output X of stall `n`. -/
def fabricOut (l : List (Nat × Nat × Nat)) (tap : BitVec 16) (n : Nat) (out : BitVec 16) : State :=
  let s := service.modPdk 0 fun d => { d with state := .live, relReset := true, relWrite := true, relOutput := true }
  { s with
    cfg.frames := l.foldl (fun t x => tmod {} t x.1 fun f => { f with good := f.good ||| BitVec.ofNat 4096 (x.2.2 * 2 ^ x.2.1) }) []
    fab.chans := tput {} (tput {} [] (srcKey (.out 0 n 0)) { rails := out }) (srcKey (.tap 0 0)) { rails := tap } }
def fabric (l : List (Nat × Nat × Nat)) (tap out63 : BitVec 16) : State := fabricOut l tap 63 out63

/-- Every macrocell of stall 0 has CARRY set, and its driver 0 names output X. -/
def adder : State := fabric ((List.range 8).map (fun m => stallBit 0 (6336 + 8 * m) 1) ++ [stallBit 0 (6528 + 1) 1]) 0 0

theorem witness_AdderIsExact : ∀ m ∈ List.range 8,
    mcCarry adder 0 0 m = true ∧ mcHeld adder 0 0 m = false ∧ mcOpbInv adder 0 0 m = false := by decide +kernel

/-- The clauses of StallFires: the adder fires; a poisoned token on port A, which the row tap feeds; one macrocell alone
presents an incomplete code on output X, or on output Y. -/
theorem witness_StallFires :
    (let s := adder
     let e := evalStall s 0 0 (fireRails s 0 0 4) (stallSt s 0 0).held.toNat ((carryIn s 0 0).getD 0)
     running s 0 = true ∧ (stallSt s 0 0).fault = false ∧ badPort s 0 0 = none ∧ fires s 0 0 4 = true ∧ chainOut s 0 0 = false ∧
       cinSel s 0 0 ≠ 2 ∧ (∀ o ∈ List.range 2, usedOut s 0 0 o = true → outcomeOf (evalOut e o) ≠ .violation) ∧
       (List.range 2).filter (fun o => usedOut s 0 0 o && outcomeOf (evalOut e o) == .emits) ≠ []) ∧
    (let s := fabric [stallBit 0 6464 1, stallBit 0 (9856 + 53) 1] poison 0
     running s 0 = true ∧ (stallSt s 0 0).fault = false ∧ badPort s 0 0 = some (0, poison)) ∧
    (∀ o ∈ List.range 2,
      let s := fabric [stallBit 0 (6336 + 32 * o) 1, stallBit 0 (6529 + o) 1] 0 0
      let e := evalStall s 0 0 (fireRails s 0 0 4) (stallSt s 0 0).held.toNat ((carryIn s 0 0).getD 0)
      running s 0 = true ∧ (stallSt s 0 0).fault = false ∧ badPort s 0 0 = none ∧ fires s 0 0 4 = true ∧ usedOut s 0 0 o = true ∧
        outcomeOf (evalOut e o) = .violation ∧ (o = 1 → usedOut s 0 0 0 = false)) := by decide +kernel

theorem witness_FabricEvents :
    (let s := fabric [stallBit 0 (6336 + 104) 1, stallBit 0 6464 1, stallBit 0 (6464 + 48) 1, stallBit 0 (9856 + 53) 1,
       stallBit 0 (9856 + 192 + 53) 1, stallBit 0 6529 1] (railsOf 0) 0
     running s 0 = true ∧ (stallSt s 0 0).fault = false ∧ gangOk s 0 0 = true ∧ complete (seen s (.port 0 0 3)) = true ∧
       gangBad s 0 0 = none ∧ complete (seen s (gangInput 0 0 0)) = true ∧ forks s 0 0 0 ≠ [] ∧ idleSrc s (.out 0 0 0) = true) ∧
    (let s := fabric [stallBit 63 (6528 + 64 * 13 + 1) 1, stallBit 63 (6528 + 3584 + 1) 1] 0 (railsOf 9)
     let n := 8 * 63 + 2
     let e : End := ⟨1, 0, 0, 1, 0⟩
     ahead (n / 8 / 64) (n / 8 % 64) (n / 2 % 4) = 0 ∧ borderOut 0 (n / 8 / 64) (n / 8 % 64) (n / 2 % 4) (n % 2) = .lane e ∧
       gatePasses s e = false ∧ outDrain s e = true ∧ arrived (seen s (.gate e)) = true ∧ cutHeld s 0 = false) ∧
    (∀ m ∈ [14, 15],
      let s := { fabric [] 0 0 with fab.tree := [{ taps := [0] }], fab.taps := [(0, { q := List.replicate m {} })] }
      takeTreeEvent s.fab.tree (tapNo 0 0) = some ({}, []) ∧ (pdkAt s 0).relWrite = true ∧
        tapPending { s with fab := { s.fab with tree := [] } } 0 0 = m) ∧
    (∀ rise : Bool,
      let s := { service with pins.trees := vmod service.pins.trees (0 : Fin 3) fun t => { t with src := 1, stale := true } }
      treeMayMove s 0 rise = true ∧ s.pins.trees[(0 : Fin 3)].level = false) := by decide +kernel

/-- Paddock 0 with an isolation of job 3 under way; `cut` says whether a muster cut holds it. -/
def parking (cut : Bool) : State :=
  { service.modPdk 0 (fun d => { d with state := .live, isolating := some 3 }) with mus.hold := cut, mus.part := 1 }

theorem witness_ParkAndUserReset :
    ((parking false).pdk[(0 : Fin 64)].isolating = some 3 ∧ cutHeld (parking false) 0 = false ∧ outBusy (parking false) 0 = false) ∧
    ((parking true).pdk[(0 : Fin 64)].isolating = some 3 ∧ cutHeld (parking true) 0 = true) ∧
    (served (parking false) = true ∧ (parking false).pdk[(0 : Fin 64)].state = .live ∧ (1 : BitVec 32).getLsbD 0 = true) ∧
    (let s := service.modPdk 0 fun d => { d with urst := true }
     s.pdk[(0 : Fin 64)].urst = true ∧ cutHeld s 0 = false) := by decide +kernel

/-- Bin 0 used in `mode`, with its lowest input leaves fed from the row tap that holds `tap`. -/
def binState (mode : Nat) (tap : BitVec 16) : State :=
  fabric ([binBit 2560 mode, binBit 2568 1] ++ (List.range 3).map (fun i => binBit (128 * i + 105) 1) ++
    [binBit (1280 + 105) 1, binBit (1408 + 105) 1]) tap 0

theorem witness_BinTransfers :
    (let s := binState 0 (railsOf 0)
     binRuns s 0 0 = true ∧ cutHeld s 0 = false ∧ badInput s 0 0 = none ∧ ramPort s 0 0 0 = true ∧
       ramRequest s 0 0 0 = some (0, false) ∧ outsIdle s 0 0 0 = true) ∧
    (let s := binState 0 (railsOf 0xBF)
     binRuns s 0 0 = true ∧ badInput s 0 0 = none ∧ ramRequest s 0 0 0 = some (0x3FBF, true) ∧ dataWord s 0 0 0 = some [0xBF]) ∧
    (let s := binState 2 (railsOf 7)
     binRuns s 0 0 = true ∧ badInput s 0 0 = none ∧ binMode s 0 0 = 2 ∧ dataWord s 0 0 0 = some [7] ∧
       (s.bin 0).count < 16384 / binLanes s 0 0 0) ∧
    (let s := (binState 2 0).modBin 0 fun x => { x with count := 1, shown := true }
     binRuns s 0 0 = true ∧ badInput s 0 0 = none ∧ binMode s 0 0 = 2 ∧ (s.bin 0).shown = true ∧ outsIdle s 0 0 1 = true) := by
  decide +kernel

/-- In priority mode: a header pair for an item of one word of priority 0; an item to select; and each command on both
command inputs. -/
theorem witness_PriorityItems :
    (let s := binState 3 (railsOf 0)
     binRuns s 0 0 = true ∧ cutHeld s 0 = false ∧ badInput s 0 0 = none ∧ binMode s 0 0 = 3 ∧ (s.bin 0).idxErr = false ∧
       ((indexRead s 0 0).bin 0).idxErr = false ∧ (s.bin 0).writing = none ∧ complete (seen s (.bin 0 0 0)) = true ∧
       complete (seen s (.bin 0 0 1)) = true ∧ freeHandle (s.bin 0) = some 0 ∧
       ((freeCells s 0 0).take (tokenOf (seen s (.bin 0 0 1)) + 1)).length = tokenOf (seen s (.bin 0 0 1)) + 1) ∧
    (let s := (binState 3 0).modBin 0 fun x => { x with items := [{ taken := 1 }] }
     binRuns s 0 0 = true ∧ badInput s 0 0 = none ∧ binMode s 0 0 = 3 ∧ (s.bin 0).cur = none ∧ (s.bin 0).cmdFirst = false ∧
       nextItem (s.bin 0) = some { taken := 1 }) ∧
    (∀ op ∈ [1, 2, 3, 4, 5],
      let s := binState 3 (railsOf (16 * op))
      binRuns s 0 0 = true ∧ badInput s 0 0 = none ∧ binMode s 0 0 = 3 ∧ (s.bin 0).cur = none ∧ cmdComplete s 0 0 = true ∧
        tokenOf (seen s (.bin 0 0 11)) / 16 = op) := by decide +kernel

theorem witness_ItemOrder :
    (nextItem { items := [{ handle := 4, taken := 1 }] } = some { handle := 4, taken := 1 }) ∧
    (itemOfHandle { items := [{ handle := 4, held := true }] } 4 = some { handle := 4, held := true }) ∧
    (let x : BinSt := { marks := #v[none, none, none, some 2] }
     x.marks[(3 : Fin 4)] = some 2) := by decide +kernel

/-! ### Loader, fettler, governor -/

theorem witness_PourSteps :
    (∀ acc : Bool,
      let p : Pour := { accepted := acc }
      let s := { service with cfg.pour := some p }
      loaderReady s = true ∧ p.releasing = false ∧ p.frames = [] ∧ p.accepted = acc ∧ p.fromHost = false) ∧
    (let p : Pour := { job := 3, fromHost := true, accepted := true }
     let s := { service with cfg.pour := some p, cmdp.jobs := [{ id := 3, src := .mailbox 1 }] }
     loaderReady s = true ∧ p.releasing = false ∧ p.frames = [] ∧ p.accepted = true ∧ p.fromHost = true ∧
       findJob s p.job = some { id := 3, src := .mailbox 1 } ∧ portOf (.mailbox 1) = some 1) ∧
    (∀ fr ∈ [[], [(0, (1 : BitVec 4096))]],
      let p : Pour := { frames := fr, accepted := true }
      let s := { service with cfg.pour := some p, gov.die := vmod service.gov.die 1 fun g => { g with vread := 750, pourLift := true } }
      loaderReady s = true ∧ 750 ≤ s.gov.die[(1 : Fin 2)].vread ∧ s.gov.die[(1 : Fin 2)].pourLift = true ∧ p.releasing = false ∧
        p.accepted = true) ∧
    (let r : Rel := { job := 3 }
     let s := { service with cfg.pour := some {}, cfg.rels := [r] }
     loaderReady s = true ∧ r ∈ s.cfg.rels ∧ r.job = 3 ∧ ∀ x ∈ s.cfg.rels, cutHeld s x.pdk = false) ∧
    (let p : Pour := { job := 3, releasing := true }
     let s := { service with cfg.pour := some p, pins.lock := 0xFFFF }
     loaderReady s = true ∧ (∀ r ∈ s.cfg.rels, r.job ≠ p.job) ∧ p.releasing = true ∧ s.pins.lock = 0xFFFF) := by decide +kernel

theorem witness_FettlerSteps :
    (∀ st ∈ [PdkState.live, .loading, .torn],
      let s := { service.modPdk 32 (fun d => { d with state := st }) with cfg.ftlEn := true }
      fettlerRuns s = true ∧ (pdkAt s (sweepAddr 1 s.cfg.ftlPos[(1 : Fin 2)] / 8192)).state = st) ∧
    (∀ r ∈ [[], [8192]],
      let s := { service with cfg.ftlEn := true, cfg.ftlHeld := #v[5 :: r, []], gov.die := vmod service.gov.die 0 fun g => { g with vset := 700 } }
      s.cfg.ftlHeld[(0 : Fin 2)] = 5 :: r ∧ fettlerRuns s = true ∧ s.dev.state ≠ .doze ∧ 700 ≤ railOf s.gov.die[(0 : Fin 2)]) := by
  decide +kernel

theorem witness_GovernorSteps :
    govRuns service = true ∧
    (∀ x ∈ [none, some []],
      let s := { service with dev.state := .doze, dev.dozeExit := x }
      s.dev.state = .doze ∧ (countFreeze (applyPending s)).dev.dozeExit = x) ∧
    { service with dev.state := .shuttingDown }.dev.state = .shuttingDown ∧
    (∀ op ∈ [AvsOp.write 700, .readV, .readI, .readStatus], ∀ tries ∈ [2, 3],
      let s := service.modGov 1 fun g => { g with avs := [op], tries := tries }
      s.gov.die[(1 : Fin 2)].avs = [op] ∧ s.gov.die[(1 : Fin 2)].tries = tries) ∧
    (let s := { service with dev.yard := 100000 }
     (s.gov.die[(0 : Fin 2)].vset + 25 < 876 ∧ s.gov.die[(0 : Fin 2)].wroteAt + 100000 ≤ s.dev.yard) ∧
     ¬((s.gov.die[(0 : Fin 2)].vset + 25 < 875 ∨ 875 + 25 < s.gov.die[(0 : Fin 2)].vset) ∧
       s.gov.die[(0 : Fin 2)].wroteAt + 100000 ≤ s.dev.yard)) := by decide +kernel

/-! ### Scheduler, cooling, trace -/

/-- A loaded graph of one operation of class `cls`, with every port in `mode`. -/
def oneOp (cls mode : Nat) : Graph :=
  { id := 1, ports := Vector.replicate 512 mode, ops := [{ cls := cls, edges := #v[some 0, none, none, none, none, none, none, some 0] }] }

theorem witness_SchedulerSteps :
    (let s := { service with sch.graph := oneOp 3 0, sch.flows := [(0, { state := .open, pool := [zeroItem] })], sch.used := 1 }
     let s1 := { s with sch.cycle := 2, sch.placeWait := false }
     s.dev.state = .service ∧ s.sch.cycle + 2 ≤ 2 ∧ (List.range 4).flatMap (flowsInTurn s1) = [0] ∧
       (((List.range 4).flatMap (flowsInTurn s1)).findSome? fun f => tryFlow s1 f s.sch.cycle 2).isSome = true) ∧
    (let s1 := { service with sch.cycle := 2, sch.placeWait := false }
     ∀ f ∈ (List.range 4).flatMap (flowsInTurn s1), tryFlow s1 f service.sch.cycle 2 = none) ∧
    (let s := castAt { caster 0 with outHalf := [{}] }
     s.cast[(0 : Fin 256)].outHalf = [{}] ∧ s.dev.state = .service ∧ arbFair s 0 = true) := by decide +kernel

/-- Operation port 0 of a LIVE paddock 0 in `mode`, with a whole record of `kind`, and the item 5 of flow 0 delivered to it. -/
def portState (cls mode kind : Nat) : State :=
  let s := service.modPdk 0 fun d => { d with state := .live }
  { s with
    sch.graph := oneOp cls mode
    sch.flows := [(0, { state := .open, out := [{ id := 5 }] })]
    sch.ports := vmod s.sch.ports (0 : Fin 512) fun x =>
      { x with ctl := [railsOf kind], data := Vector.replicate 8 (List.replicate 8 (railsOf 0)), items := [(0, 5, 15)], holding := true } }

theorem witness_OperationPorts : (∀ mode ∈ [1, 2],
    let s := portState 1 mode 0
    let r := (portRecord s.sch.ports[(0 : Fin 512)]).getD {}
    portServed s 0 = true ∧ portRecord s.sch.ports[(0 : Fin 512)] = some r ∧ recordBad r = false ∧ r.kind = some 0 ∧
      portMode s 0 = mode ∧ (opRec s (itOp (recordItem r))).cls ≠ 0 ∧ (s.flow (itFlow (recordItem r))).state = .open ∧
      (enterItem s (.port 0) (b2n (portMode s 0 == 2)) (recordItem r)).2 = true ∧ s.sch.ports[(0 : Fin 512)].holding = true) ∧
    (∀ kind ∈ [1, 2, 9, 10], ∀ mode ∈ [3, 1],
      let s := portState 1 mode kind
      let r := (portRecord s.sch.ports[(0 : Fin 512)]).getD {}
      portServed s 0 = true ∧ portRecord s.sch.ports[(0 : Fin 512)] = some r ∧ recordBad r = false ∧ r.kind = some kind ∧
        portMode s 0 = mode ∧ s.dev.state = .service ∧ s.sch.ports[(0 : Fin 512)].items = [(0, 5, 15)] ∧
        findOut s 0 5 = some { id := 5 } ∧ (kind ∈ [2, 9] → vget none (opRec s (itOp zeroItem)).edges (kind - 2) = some 0)) ∧
    (∀ kind ∈ [1, 2, 9, 10],
      let s := { portState 1 3 kind with dev.state := .doze }
      let r := (portRecord s.sch.ports[(0 : Fin 512)]).getD {}
      portServed s 0 = true ∧ portRecord s.sch.ports[(0 : Fin 512)] = some r ∧ recordBad r = false ∧ r.kind = some kind ∧
        portMode s 0 = 3 ∧ s.dev.state ≠ .service ∧ s.sch.ports[(0 : Fin 512)].items = [(0, 5, 15)] ∧
        findOut s 0 5 = some { id := 5 } ∧ (kind ∈ [2, 9] → vget none (opRec s (itOp zeroItem)).edges (kind - 2) = some 0) ∧
        ((s.modOpPort 0 fun x => { x with items := [] }).sch.ports[(0 : Fin 512)]).items = []) := by decide +kernel

theorem witness_SchedulerJobs :
    (let j : Job := { id := 3, kind := .flowSubmit [zeroItem] 0 }
     let s := { service with cmdp.jobs := [j] }
     s.cmdp.jobs.find? (submitMoves s) = some j) ∧
    (let p : SpillPage := { page := 0, used := 64 }
     let r : Region := { kind := .spill, base := 0, len := 65536 }
     let s := { withDdr service with ddr.map := [r], sch.flows := [(0, { state := .open, spill := [p] })] }
     refillNow s = some 0 ∧ spillRegion s = some r ∧ (s.flow 0).spill = [p] ∧ memReady s (r.base + 4096 * p.page) 4096 = true ∧
       memReady (s.modChan 0 fun h => { h with state := .recal }) (r.base + 4096 * p.page) 4096 = false) ∧
    refillNow service = none ∧
    (∀ items ∈ [[], [zeroItem]],
      let j : Job := { id := 3, kind := .flowDrain 0 7 }
      let s := { service with cmdp.jobs := [j], sch.flows := [(7, { state := .draining, pool := items })] }
      findJob s 3 = some j ∧ (flowsIn ((flowsIn s 0 7 .draining).foldl closeIfEmpty s) 0 7 .draining = [] ↔ items = [])) ∧
    (∀ k ∈ [JobKind.kernelLoad 1 false 0 [] [] 0 0 0, .casterRetire 1 false false],
      let s := { service with cmdp.jobs := [{ id := 3, kind := k }] }
      findJob s 3 = some { id := 3, kind := k }) := by decide +kernel

theorem witness_CoolingAndTrace :
    (coolState service.dev.state = true ∧ (evalDomains service).cool.dueQ = [] ∧
      (evalDomains { service with cool.dueQ := [{}] }).cool.dueQ = [{}]) ∧
    (let s := { service with pins.tickPend := vmod service.pins.tickPend (7 : Fin 8) (· + 1) }
     s.pins.tickPend[(7 : Fin 8)] ≠ 0) ∧
    (∀ rd ∈ [2, 3],
      let s := { service with trc.buf := [5], trc.dest := 1, trc.size := 4, trc.wrIdx := 6, trc.rdIdx := BitVec.ofNat 32 rd }
      traceReady s = true ∧ s.trc.buf = [5] ∧ traceFull s.trc = (rd == 2) ∧ (s.trc.wrIdx - 2).toNat ≤ s.trc.size ∧
        s.trc.wrap = false ∧ s.trc.size < (s.trc.wrIdx - 1).toNat ∧ served s = true) ∧
    (let s := { service with trc.en := true }
     s.trc.epoch ≠ BitVec.ofNat 16 (max s.dev.yard (2 ^ 48) / 2 ^ 48)) := by decide +kernel

/-! ### Links, triggers, musters, pins -/

/-- Link 5 as `l` (a group of its own), with `g` as its group. -/
def linkState (l : Link) (g : Group) : State := (service.modLink 5 fun _ => l).modGroup 5 fun _ => g

theorem witness_LinesAndPackets :
    ((linkState { state := .streaming } {}).cxp.links[(5 : Fin 128)].state = .streaming) ∧
    (let s := linkState { state := .up } { stopping := true }
     s.cxp.links[(5 : Fin 128)].state ≠ .streaming ∧ s.cxp.groups[masterOf s 5].stopping = true) ∧
    (∀ tag ∈ [17, 18], ∀ st ∈ [LinkState.streaming, .up],
      let s := linkState { state := st } { taking := true, rxTag := some 513, line := some {}, stopping := true }
      s.cxp.groups[masterOf s 5].taking = true ∧ s.cxp.links[(5 : Fin 128)].state = st ∧ s.cxp.groups[masterOf s 5].stopping = true ∧
        outOfOrder s (masterOf s 5) 5 tag = (tag == 18) ∧ outOfOrder (packetError s 5) (masterOf s 5) 5 tag = (tag == 18)) ∧
    (let l : Line := { done := true }
     let s := linkState { state := .streaming } { line := some l, toStore := true }
     s.cxp.groups[(5 : Fin 128)].line = some l ∧ s.cxp.groups[(5 : Fin 128)].toStore = true ∧ (storePut s 5 l).isSome = true) := by
  decide +kernel

/-- A last packet that comes before an earlier one does not end the reception of a stopping group; the earlier one then does
(R234, R256). Within a link's FIFO packets stand in the order of their tags. -/
theorem test_skewed_last_packet :
    (let g := arriveLast (arriveTag { taking := true, stopping := true, rx := 1, rxTag := some 513 } 5 2) true
     g.taking = true ∧ g.rxLast = [514] ∧ (arriveLast (arriveTag g 4 1) false).taking = false) ∧
    (queuePacket { tag := 513 } [{ tag := 512 }, { tag := 514 }]).map Packet.tag = [512, 513, 514] := by decide +kernel

/-- Link 5 with the line `l` for its adapter, a token standing on each of its adapter lanes, and their paddock LIVE or not. -/
def adapting (x : Link) (l : Line) (live : Bool) : State :=
  let s := (linkState x { line := some l, toAdapt := [5] }).modPdk (Fin.ofNat 64 (edgePdk 5)) fun d =>
    { d with state := if live then .live else .empty, relWrite := true }
  { s with fab.chans := (List.range 4).map fun j => (srcKey (.adapter 5 j), { rails := railsOf 0 }) }

/-- No line; a line for another link's adapter; a closed boundary; a whole line whose last token fits; a line of which more
fits; and full lanes. -/
theorem witness_LinesAndPackets_adapter :
    (linkState {} {}).cxp.groups[masterOf (linkState {} {}) 5].line = none ∧
    5 ∉ (linkState {} { line := some {}, toAdapt := [4] }).cxp.groups[(5 : Fin 128)].toAdapt ∧
    (∀ live : Bool, ∀ x ∈ [({} : Link), { sent := Vector.replicate 4 20000 }, { lanes := Vector.replicate 4 (List.replicate 16 0) }],
      let l : Line := { done := true }
      let s := adapting x l live
      let put := (List.finRange 4).foldl (fun s i => lanePut s 5 5 l i) s
      let caught := x.sent[(0 : Fin 4)] == 20000
      masterOf s 5 = 5 ∧ s.cxp.groups[(5 : Fin 128)].line = some l ∧ 5 ∈ s.cxp.groups[(5 : Fin 128)].toAdapt ∧ adapterOpen s 5 = live ∧
        adapterCaught put 5 5 l = caught ∧ (adapterSent put 5 = adapterSent s 5 ↔ (caught = true ∨ x.lanes[(0 : Fin 4)].length = 16)) ∧
        (live = false → adapterMove (settleGroup ((linkErr s 5 cxPdk).modGroup 5 fun g =>
          { g with toAdapt := g.toAdapt.filter (· != 5) }) 5) 5 = none) ∧
        (live = true → caught = true → adapterMove (settleGroup (put.modGroup 5 fun g =>
          { g with toAdapt := g.toAdapt.filter (· != 5) }) 5) 5 = none) ∧
        (live = true → caught = false → adapterSent put 5 ≠ adapterSent s 5 → adapterMove (settleGroup put 5) 5 = none)) := by
  decide +kernel

/-- Link 5 up and a master, with the read or write `c` at the front of its control channel. -/
def controlling (c : Ctrl) : State := linkState { state := .up, grouped := true } { ctrl := [c] }

/-- Writes and reads of 128 bytes, the last packet, and of 129, not the last; a packet failed 0, 1, 2 and 3 times; no
acknowledgment awaited; the bootstrap; a link that is not up. -/
theorem witness_LinkControl :
    (linkState { ackWait := [7] } {}).cxp.links[(5 : Fin 128)].ackWait ≠ [] ∧
    (linkState {} {}).cxp.links[(5 : Fin 128)].ackWait = [] ∧
    (∀ w : Bool, ∀ len ∈ [128, 129], ∀ fails ∈ [0, 1, 2, 3],
      let c : Ctrl := { job := 3, write := w, len := len, fails := fails, tag := 9 }
      let s := controlling c
      s.cxp.groups[(5 : Fin 128)].ctrl = [c] ∧ s.cxp.links[(5 : Fin 128)].wait = .none ∧ 8 ≠ c.tag ∧
        (c.len ≤ c.sent + min 128 (c.len - c.sent) ↔ len = 128)) ∧
    (linkState {} {}).cxp.groups[(5 : Fin 128)].ctrl = [] ∧ (linkState {} {}).cxp.links[(5 : Fin 128)].wait = .none ∧
    (linkState { wait := .bootstrap 3 } {}).cxp.links[(5 : Fin 128)].wait = .bootstrap 3 ∧
    (let s := linkState { state := .up, grouped := true } {}
     linkUp s.cxp.links[(5 : Fin 128)] = true ∧ isMaster s 5 = true) ∧
    linkUp (linkState { state := .lost } {}).cxp.links[(5 : Fin 128)] = false := by decide +kernel

theorem witness_LinkStates :
    (∀ w ∈ [LinkWait.power 3, .lock 0, .lock 3, .rate 3 2, .rate 0 2],
      let s := linkState { state := .discovering, wait := w } {}
      s.cxp.links[(5 : Fin 128)].state = .discovering ∧ s.cxp.links[(5 : Fin 128)].wait = w) ∧
    linkUp (linkState { state := .up } {}).cxp.links[(5 : Fin 128)] = true ∧
    (∀ x ∈ [(LinkState.off, LinkWait.none), (.streaming, .none), (.discovering, .power 3), (.up, .rate 0 2)], ∀ low : Bool,
      let s := ((linkState { state := x.1, wait := x.2, pocxp := true } {}).modGpio 95 fun p => { p with actFunc := 8, sel := 5 }).modGpio 94
        fun p => { p with actFunc := 8, actRole := 1, sel := 5, pad := !low }
      s.cxp.links[(5 : Fin 128)].pocxp = true ∧ hasPocxp s 5 = true ∧ senseLow s 5 = low ∧ s.cxp.links[(5 : Fin 128)].state = x.1 ∧
        x.1 ≠ .failed ∧ s.cxp.links[(5 : Fin 128)].wait = x.2) ∧
    (let s := linkState { state := .lost, auto := true } {}
     5 ∈ groupLinks s (masterOf s 5) ∧ s.cxp.links[(5 : Fin 128)].state = .lost ∧ s.cxp.links[(5 : Fin 128)].auto = true) ∧
    served service = true := by decide +kernel

/-- Encoder 7 on its own inputs or on a GPIO pin of another function; held for the filter's length or one step less; a level
that the filter has seen or not. -/
theorem witness_TriggerSteps :
    (∀ src : Bool, ∀ i ∈ List.range 3, encPinOpen (service.modEnc 7 fun x => { x with par := { x.par with src := src } }) 7 i = !src) ∧
    ((service.trig.enc[(7 : Fin 8)]).par.filt * 160 = 320) ∧
    (∀ a : Bool,
      let s := service.modEnc 7 fun x => { x with a := a, b := a }
      (((s.trig.enc[(7 : Fin 8)]).pinA = !(s.trig.enc[(7 : Fin 8)]).a) ↔ a = true) ∧
      (((s.trig.enc[(7 : Fin 8)]).pinB = !(s.trig.enc[(7 : Fin 8)]).b) ↔ a = true)) ∧
    (∀ z : Bool, ∀ p : Bool,
      let s := service.modEnc 7 fun x => { x with z := z, pinZ := p }
      ((s.trig.enc[(7 : Fin 8)].z = !s.trig.enc[(7 : Fin 8)].pinZ) ↔ z ≠ p)) ∧
    (let s := service.modEnc 7 fun x => { x with par := { mode := 3, zmode := 1 } }
     trigRuns s = true ∧ s.trig.enc[(7 : Fin 8)].failed = false ∧ s.trig.enc[(7 : Fin 8)].par.mode ∈ [1, 2, 3] ∧
       s.trig.enc[(7 : Fin 8)].par.zmode = 1 ∧ s.trig.enc[(7 : Fin 8)].a = false ∧ s.trig.enc[(7 : Fin 8)].b = false) ∧
    (let s := service.modGen 63 fun g => { g with sched := [{ out := 256, k := 1, t := 9 }] }
     trigRuns s = true ∧ nextInstant s (fun _ => true) = some (63, { out := 256, k := 1, t := 9 })) ∧
    (let s := service.modTrigOut 159 fun x => { x with active := true }
     s.trig.out[(159 : Fin 256)].active = true) := by decide +kernel

/-- Each direction on each phase, with and without INV, at the first time at which no filter holds; a forward and a backward
step, which `exec` then takes. -/
theorem witness_CountMovesPosition : ∀ inv : Bool, ∀ a : Bool, ∀ onB : Bool,
    let x : Encoder := { par := { mode := 3, inv := inv }, a := a, pinA := a, lastA := some 0, lastB := some 0, lastCnt := some 0 }
    let s := service.modEnc 7 fun _ => x
    trigRuns s = true ∧ s.trig.enc[(7 : Fin 8)] = x ∧ x.failed = false ∧ encPinOpen s 7 (if onB then 1 else 0) = true ∧
      x.pinA = x.a ∧ x.pinB = x.b ∧ x.par.filt * 160 ≤ 320 ∧ 0 + stampNs 20 ≤ 1280 ∧
      0 + stampNs (countLimit x.par) ≤ 1280 ∧ ((gray x.a x.b + 1) % 4 = gray (if onB then x.a else !x.a) (if onB then !x.b else x.b) ↔ a = onB) ∧
      (match exec (.count 7 onB ⟨1280, 320⟩) s with
       | .next u => u.trig.enc[(7 : Fin 8)].pos == (if (a == onB) != inv then x.pos + 1024 else x.pos - 1024)
       | _ => false) = true := by decide +kernel

theorem witness_PpsSteps :
    (∀ t ∈ [999000000, 1001000000, 1001000001],
      let s := { service.modGpio 3 fun p => { p with actFunc := 9 } with pps.en := true, pps.pin := 3, pps.last := some 0 }
      ppsOn s = true ∧ ppsSpaced s t = (t != 1001000001)) ∧
    (let s := { service.modGpio 3 fun p => { p with actFunc := 9 } with
       pps.en := true, pps.pin := 3, pps.last := some 0, dev.yard := 1500000000 }
     ppsOn s = true ∧ s.pps.last = some 0 ∧ 0 + 1500000000 ≤ s.dev.yard) := by decide +kernel

theorem witness_MemoryChannels :
    (let r : MemReq := { cls := 3 }
     let s := (withDdr service).modChan 0 fun h => { h with reqs := [r] }
     s.ddr.chan[(0 : Fin 8)].state = .active ∧
       s.ddr.chan[(0 : Fin 8)].reqs.find? (fun r => r.cls == lowestClass s.ddr.chan[(0 : Fin 8)].reqs) = some r ∧
       r ∈ s.ddr.chan[(0 : Fin 8)].reqs ∧ 2 < r.cls ∧ s.ddr.chan[(0 : Fin 8)].scrubEn = true) ∧
    (∀ w : Bool, ∀ a ∈ [0, 65472, 65473],
      let r : MemReq := { user := .host 1, write := w, addr := a, len := 64, data := List.replicate 64 (some 0) }
      r.job = none ∧ r.write = w ∧ r.user = .host 1 ∧
        (firstDenied (withDdr service) r.user r.write r.addr (if r.write then r.data.length else r.len) = none ↔ a ≠ 65473)) ∧
    (∀ ready : Bool,
      let c : Cmd := { opcode := 0x0601, params := List.replicate 8 0 ++ [64] ++ List.replicate 7 0 }
      let s := { (withDdr service).modChan 0 fun h => { h with state := if ready then .active else .recal } with
        cmdp.jobs := [{ id := 4, kind := .memWait c }] }
      jobWaits s 4 = false ∧ (findJob s 4).map Job.kind = some (.memWait c) ∧ memReady s (par c 0 8) (par c 8 4) = ready ∧
        jobWaits (s.modChan 0 fun h => { h with reqs := [{ job := some 4 }] }) 4 = true) ∧
    (service.ddr.chan[(0 : Fin 8)].state ≠ .active ∧ (withDdr service).ddr.chan[(0 : Fin 8)].reqs = []) ∧
    (let s := { withDdr service with dev.state := .doze }
     s.ddr.chan[(0 : Fin 8)].state = .active ∧ s.dev.state = .doze ∧ s.ddr.chan[(0 : Fin 8)].powerDown = false ∧
       s.ddr.chan[(0 : Fin 8)].reqs = []) ∧
    (let r : Region := { kind := .result, index := 63, base := 0, len := 65536 }
     let s := { withDdr service with ddr.map := [r], ddr.results := [(63, { w := BitVec.ofNat 32 (resultK r) })] }
     regionOf s .result 63 = some r ∧ resultFree s r = false) ∧
    (∀ st ∈ [ChState.recal, .training], ∀ q : Bool,
      let s := service.modChan 7 fun h => { h with state := st, quick := q }
      s.ddr.chan[(7 : Fin 8)].state = st ∧ s.ddr.chan[(7 : Fin 8)].quick = q) := by decide +kernel

theorem witness_MusterSteps :
    (let s := { service with mus.pend := 1 }
     s.mus.pend ≠ (0 : BitVec 6) ∧ s.mus.busy = false ∧ musterState s.dev.state = true) ∧
    (let s := { service.modGpio 95 fun p => { p with highAt := some 0, actFunc := 7, pad := true } with dev.yard := 20 }
     let p := s.pins.gpio[(95 : Fin 96)]
     p.highAt = some 0 ∧ p.actFunc = 7 ∧ p.actRole = 0 ∧ p.pad = true ∧ p.switching = false ∧ 0 + 20 ≤ s.dev.yard) ∧
    (let s := { service with pins.musPend := #v[0, 1] }
     s.pins.musPend[(1 : Fin 2)] ≠ 0) ∧
    (∀ chans ∈ [[], [(0, ({ rails := 3 } : Chan))]],
      let s := { service with mus.hold := true, mus.part := 1, fab.chans := chans }
      s.mus.hold = true ∧ heldPdks s = [0] ∧ quiet s 0 = chans.isEmpty) ∧
    regsOpen service = true := by decide +kernel

/-- A changed level in the switching interval; on a muster input; and on a pin of another function or role. -/
theorem witness_PinSteps :
    (∀ sw : Bool, ∀ f ∈ [(7, 0), (7, 1), (0, 0), (8, 1)],
      let s := service.modGpio 95 fun p => { p with switching := sw, actFunc := BitVec.ofNat 4 f.1, actRole := BitVec.ofNat 3 f.2 }
      s.pins.gpio[(95 : Fin 96)].pad ≠ true ∧ s.pins.gpio[(95 : Fin 96)].switching = sw ∧ served s = true ∧
        ((s.pins.gpio[(95 : Fin 96)].actFunc = 7 ∧ s.pins.gpio[(95 : Fin 96)].actRole = 0) ↔ f = (7, 0)) ∧
        ((s.pins.gpio[(95 : Fin 96)].actFunc = 8 ∧ s.pins.gpio[(95 : Fin 96)].actRole = 1) ↔ f = (8, 1))) := by decide +kernel

/-- Pins 0, 1 and 2 as roles 1, 0 and 2 of function `f`, with a token on the lane of pin 0. -/
def serial (f : BitVec 4) (tok : Nat) : State :=
  let s := fabricOut [stallBit 16 6529 1] 0 16 (railsOf tok)
  { s with pins.gpio := vset (vset (vset s.pins.gpio (0 : Fin 96) { actFunc := f, actRole := 1 }) (1 : Fin 96) { actFunc := f })
                          (2 : Fin 96) { actFunc := f, actRole := 2 } }

theorem witness_SerialCells :
    (∀ n ∈ [15, 16],
      let s := service.modGpio 0 fun p => { p with actFunc := 4, actRole := 1, buf := List.replicate n 0 }
      serves s 0 4 1 = true ∧ (s.pins.gpio[(0 : Fin 96)].buf.length < 16 ↔ n = 15)) ∧
    (let s := (serial 4 9).modGpio 0 fun p => { p with actRole := 0 }
     serves s 0 4 0 = true ∧ outToken s 0 = some 9) ∧
    (∀ c ∈ [none, some (1 : BitVec 8)], ∀ tok ∈ [1, 2],
      let s := (serial 5 tok).modGpio 0 fun p => { p with cmd := c }
      serves s 0 5 1 = true ∧ cellPin s 5 0 s.pins.gpio[(0 : Fin 96)].inst = some 1 ∧ s.pins.gpio[(0 : Fin 96)].buf = [] ∧
        outToken s 0 = some tok ∧ s.pins.gpio[(0 : Fin 96)].cmd = c) ∧
    (let s := serial 6 9
     serves s 0 6 1 = true ∧ cellPin s 6 0 s.pins.gpio[(0 : Fin 96)].inst = some 1 ∧ outToken s 0 = some 9 ∧
       cellPin s 6 2 s.pins.gpio[(0 : Fin 96)].inst = some 2 ∧ s.pins.gpio[(2 : Fin 96)].buf = []) ∧
    served service = true ∧
    (∀ q ∈ [[], [(5 : BitVec 8)]],
      let s := service.modGpio 95 fun p => { p with pend := q }
      s.pins.gpio[(95 : Fin 96)].pend = q ∧ s.pins.gpio[(95 : Fin 96)].resync = false ∧ s.pins.gpio[(95 : Fin 96)].buf = [] ∧
        idleSrc s (.pin 95) = true ∧ (s.chan (srcKey (.pin 95))).rails = 0) ∧
    (((present service (.pin 95) poison).chan (srcKey (.pin 95))).rails ≠ 0) ∧
    (∀ n ∈ [0, 15],
      let s := { service with pins.tickPend := vmod service.pins.tickPend (7 : Fin 8) fun _ => n,
                              pins.musPend := vmod service.pins.musPend (1 : Fin 2) fun _ => n }
      s.pins.tickPend[(7 : Fin 8)] = n ∧ s.pins.musPend[(1 : Fin 2)] = n) := by decide +kernel

theorem witness_LoopsAndJtag :
    (let s := { service with pins.lock := 0xFFFF }
     served s = true ∧ s.pins.lock.getLsbD 15 = true) ∧
    (∀ scan : Bool,
      let s := { service with sec.scan := scan }
      s.dev.state ≠ .off ∧ s.dev.heldInReset = false ∧ s.sec.scan = scan) := by decide +kernel

/-! ### Host ports -/

/-- Both host ports reachable. -/
def hosted (s : State) : State := (s.modPort 0 fun h => { h with linkUp := true, mse := true, bme := true }).modPort 1 fun h =>
  { h with linkUp := true, mse := true, bme := true }

theorem witness_RingSteps :
    (let s := ((hosted service).modRing 1 (sqOf 3) fun r => { r with state := .active, host := 64 }).modRing 1 (rqOf 3) fun r =>
       { r with state := .active }
     mayFetch s 1 3 0 (cmdSlots (List.replicate 64 0)) = true) ∧
    (let s := service.modRing 1 (rqOf 3) fun r => { r with state := .active, waiting := [⟨[1, 2]⟩] }
     (s.ring 1 (rqOf 3)).waiting = [⟨[1, 2]⟩] ∧ replyFits (s.ring 1 (rqOf 3)) 2 = true) ∧
    (∀ pend : Bool,
      let s := service.modRing 1 23 fun r => { r with imodOn := true, imodPend := pend, state := .enabling }
      (s.ring 1 23).imodOn = true ∧ (s.ring 1 23).imodPend = pend ∧ (s.ring 1 23).state = .enabling ∧
        s.hosts.port[(1 : Fin 2)].dmaHeld = [] ∧ (s.modPort 1 fun h => { h with dmaHeld := [(0, [1])] }).hosts.port[(1 : Fin 2)].dmaHeld ≠ []) ∧
    (reaches (hosted service) 1 = true ∧ holdsWrites (hosted service) = false ∧ served (hosted service) = true) := by decide +kernel

/-- The farthest step that is accepted and the next one, at an index that wraps. -/
theorem witness_HostIndexWrites :
    (reaches (hosted service) 1 = true ∧ holdsWrites (hosted service) = false ∧ served (hosted service) = true) ∧
    (let s := (hosted service).modRing 1 (sqOf 3) fun r => { r with dev := 0xFFFFFFF0 }
     (48 - (s.ring 1 (sqOf 3)).dev : BitVec 32).toNat ≤ ringN (s.ring 1 (sqOf 3)) ∧
       ringN (s.ring 1 (sqOf 3)) < (49 - (s.ring 1 (sqOf 3)).dev : BitVec 32).toNat) ∧
    (∀ r ∈ [rqOf 3, rrOf 15],
      let s := (hosted service).modRing 1 r fun r => { r with dev := 5, host := 0xFFFFFFF0, place := true }
      (5 - (s.ring 1 r).host : BitVec 32).toNat ≤ ((s.ring 1 r).dev - (s.ring 1 r).host).toNat ∧
        ((s.ring 1 r).dev - (s.ring 1 r).host).toNat < (6 - (s.ring 1 r).host : BitVec 32).toNat ∧ (s.ring 1 r).place = true) := by
  decide +kernel

/-- A free semaphore, one taken by port 0 and one by port 1; `both` may be false. -/
theorem witness_Semaphores : ∀ o ∈ [none, some (0 : Fin 2), some 1],
    let s := (hosted service).modSem 63 fun x => { x with free := o.isNone, owner := o }
    reaches s 0 = true ∧ served s = true ∧ (s.hosts.sem[(63 : Fin 64)].free = true ↔ o = none) ∧
      s.hosts.sem[(63 : Fin 64)].owner = o ∧ (0x40000000 : BitVec 32).getLsbD 30 = true ∧ (0 : BitVec 32).getLsbD 30 = false := by
  decide +kernel

theorem witness_SemaphoreTie : ∀ tie : Bool,
    let s := (hosted service).modSem 63 fun x => { x with tie := tie, free := true }
    reaches s 0 = true ∧ reaches s 1 = true ∧ served s = true ∧ s.hosts.sem[(63 : Fin 64)].free = true := by decide +kernel

theorem witness_MailboxAndGrace :
    (∀ st ∈ [0, 1],
      let s := (hosted service).modPort 1 fun h => { h with mbxState := st }
      reaches s 1 = true ∧ holdsWrites s = false ∧ served s = true ∧ (1 : BitVec 32).getLsbD 0 = true ∧
        (s.hosts.port[(1 : Fin 2)].mbxState ≠ 1 ↔ st = 0)) ∧
    (∀ o ∈ [none, some (1 : Fin 2)],
      let s := (service.modPort 1 fun h => { h with grace := true, graceEnd := 0 }).modSem 63 fun x => { x with owner := o }
      s.hosts.port[(1 : Fin 2)].grace = true ∧ s.hosts.port[(1 : Fin 2)].graceEnd ≤ s.dev.yard ∧
        (s.hosts.sem.toList.any fun x => x.owner == some 1) = o.isSome) := by decide +kernel

/-- HUB_ID; the first register of port 1's block, owned by port 1; a byte and a 64-bit access; both before the mailbox. Port 0
reaches the block at the same instant. -/
theorem witness_RegisterAccesses :
    reaches (hosted service) 1 = true ∧ reaches (hosted service) (1 - 1) = true ∧ holdsWrites (hosted service) = false ∧
    served (hosted service) = true ∧
    ownerOf 0 = none ∧ ownerOf 0x18000 = some 1 ∧ 0x18000 % 4 = 0 ∧
    (1 : BitVec 13) ≠ 4 ∧ (8 : BitVec 13) ≠ 4 ∧ 2 % 4 ≠ 0 ∧ inMailbox 0 = false ∧ inMailbox 2 = false := by decide +kernel

theorem witness_PortAccesses :
    (reaches (hosted service) 1 = true ∧ served (hosted service) = true ∧
      reaches (hosted State.reset) 1 = true ∧ served (hosted State.reset) = false ∧
      (0x7FFFFFF : BitVec 28).getLsbD 27 = false ∧ (0x8000000 : BitVec 28).getLsbD 27 = true) ∧
    (∀ r : Bool, ∀ stuck : Bool,
      let s := { service.modPort 1 fun h => { h with linkUp := true, ready := r } with dev.stuck := stuck }
      s.hosts.port[(1 : Fin 2)].linkUp = true ∧ s.dev.stuck = stuck ∧ s.hosts.port[(1 : Fin 2)].ready = r) ∧
    (service.dev.state ≠ .off ∧ service.dev.state ≠ .stabled ∧ service.dev.heldInReset = false ∧
      service.hosts.port[(1 : Fin 2)].linkUp = false) ∧
    (∀ st ∈ [DevState.off, .stabled, .starting], let s := { State.reset with dev.state := st, dev.heldInReset := st == DevState.starting }
      s.dev.state = .off ∨ s.dev.state = .stabled ∨ s.dev.heldInReset = true) ∧
    (let s := service.modRing 1 (sqOf 3) fun r => { r with state := .active }
     (s.ring 1 (sqOf 3)).state = .active) := by decide +kernel

/-! ### Device -/

/-- A rail that STBY_L lets go and one that it does not; RST_L in SERVICE and STABLED; the wake inputs. -/
theorem witness_PowerAndStart :
    (∀ stby : Bool,
      let s := { service with dev.stbyL := stby }
      s.dev.state ≠ .off ∧ s.dev.stbyL = stby ∧ mayRemove .aux = false ∧ mayRemove (.io 0) = false ∧ mayRemove (.io 1) = true) ∧
    ({ service with dev.state := .off }.dev.state = .off) ∧
    (∀ r : Bool, ∀ st ∈ [DevState.service, .stabled],
      let s := { service with dev.rstL := r, dev.state := st, dev.thermtripL := true }
      s.dev.state ≠ .off ∧ s.dev.thermtripL = true ∧ s.dev.rstL = r ∧ s.dev.state = st) ∧
    (let s := { State.reset with dev.heldInReset := false }
     s.dev.state = .starting ∧ s.dev.heldInReset = false ∧ s.dev.stuck = false) ∧
    (∀ r : Bool, ∀ w ∈ [none, some 0],
      let s := { service.modGpio 15 fun p => { p with actFunc := 0xB } with
        dev.state := .stabled, dev.wakeMask := 0x8000, dev.wakeSb := true, dev.waking := w, dev.rstL := r, dev.yard := 1000000000 }
      s.dev.state = .stabled ∧ s.dev.wakeMask.getLsbD 15 = true ∧ (vget ({} : Gpio) s.pins.gpio 15).actFunc = 0xB ∧
        (vget ({} : Gpio) s.pins.gpio 15).switching = false ∧
        s.dev.wakeSb = true ∧ s.dev.waking = w ∧ s.dev.rstL = r ∧ 0 + 1000000000 ≤ s.dev.yard) := by decide +kernel

/-- The fault clause in each of its states; the rest in the state each clause names. -/
theorem witness_DeviceEvents :
    (∀ st ∈ [DevState.halter, .pouring, .service, .doze], { service with dev.state := st }.dev.state = st) ∧
    { service with dev.state := .recovery }.dev.state = .recovery ∧
    (let s := { service with dev.state := .shuttingDown, dev.sbRo := true, cmdp.jobs := [{ id := 3, kind := .shutdown false }] }
     (shutJob (excludeBad (raiseEvent (noteFault s 1) 11) (failingBlocks (List.range 9) 0 []))).isSome = true) ∧
    (service.dev.state = .service ∧ service.dev.thermtripL = true ∧ service.dev.heldInReset = false ∧ served service = true ∧
      service.pins.sensors[(0 : Fin 36)].failed = false ∧ sensorDie 0 = some 0) ∧
    (let s := { service.modGpio 15 fun p => { p with actFunc := 0xB } with dev.state := .doze, dev.wakeMask := 0x8000 }
     s.dev.state = .doze ∧ s.dev.wakeMask.getLsbD 15 = true ∧ (vget ({} : Gpio) s.pins.gpio 15).actFunc = 0xB ∧
       (vget ({} : Gpio) s.pins.gpio 15).switching = false ∧ (raiseEvent s 11).dev.dozeExit = none) ∧
    (∀ ids ∈ [[], [3]],
      let s := { service with dev.state := .doze, dev.dozeExit := some ids,
                              gov.die := vmapI service.gov.die fun _ g => { g with vset := 900, vread := 900 } }
      s.dev.state = .doze ∧ s.dev.dozeExit = some ids ∧ atCeiling s = true) ∧
    (∀ skip : Bool,
      let j : Job := { id := 3, kind := .shutdown skip }
      let s := { service with dev.state := .shuttingDown, cmdp.jobs := [j] }
      s.dev.state = .shuttingDown ∧ shutJob s = some (j, skip)) ∧
    (∀ erase : Bool,
      let j : Job := { id := 3, kind := .flashWrite 0 0 erase [7] }
      let s := { service with cmdp.jobs := [j], cfg.flash := vset service.cfg.flash (0 : Fin 2) { present := true, log2cap := 24, bytes := [(0, 0xFF)] } }
      findJob s 3 = some j ∧ (flashRead (flashPut (if erase then flashClear s 0 0 1 else s) 0 0 [7]) 0 0 1 = [7] ↔ erase = true)) ∧
    (let j : Job := { id := 3, kind := .flashRead 0 0 1 }
     findJob { service with cmdp.jobs := [j] } 3 = some j) ∧
    (let j : Job := { id := 3, kind := .bist 511 false }
     jobWhere { service with cmdp.jobs := [j] } isBist = some j) := by decide +kernel

theorem witness_Sideband :
    (∀ st ∈ [DevState.service, .stabled], ∀ alert : Bool, ∀ wake : Bool,
      let s := { service with dev.state := st, dev.alert := alert, dev.wakeSb := wake }
      s.dev.state ≠ .off ∧ s.dev.thermtripL = true ∧ s.dev.state = st ∧ s.dev.alert = alert ∧ s.dev.wakeSb = wake) ∧
    ((0 : Byte) = 0 ∧ 5 < (6 : Byte).toNat ∧ 1 ≤ (1 : Byte).toNat ∧ (4 : Byte).toNat ≤ 4 ∧ (0x5C : Byte) ≠ 0x5D) ∧
    { service with dev.state := .off }.dev.state = .off ∧ { service with dev.thermtripL := false }.dev.thermtripL = false ∧
    served service = true ∧ served State.reset = false := by decide +kernel

/-! ### Host commands -/

/-- The command passes its checks, and `cond` holds of it and of the state in which its checks are made. -/
abbrev Meets (sp : CmdSpec) (c : Cmd) (s : State) (cond : Cmd → State → Prop) : Prop :=
  Begins sp c s ∧ cond (typed sp c) (counted c s)

/-- A command of the given parameters through the mailbox of port 0. -/
def mbx (l : List Byte) : Cmd := { src := .mailbox 0, params := l }

/-- The same with a target, and with a host buffer. -/
def mbxTo (cls idx : Nat) (l : List Byte) : Cmd := { mbx l with tclass := BitVec.ofNat 8 cls, tindex := BitVec.ofNat 24 idx }
def mbxBuf (l buf : List Byte) : Cmd := { mbx l with hlen := BitVec.ofNat 32 buf.length, buf := some buf }

def zeros (n : Nat) : List Byte := List.replicate n 0

theorem witness_ReadingCommands :
    Meets getIdentitySpec (mbx []) halter (fun c s => Fits c (identityBytes s).length) ∧
    Meets getStateSpec (mbx []) halter (fun c s => Fits c (stateBytes s).length) ∧
    Meets getStateSpec (mbxBuf [] (zeros 4096)) halter (fun c s => Fits c (stateBytes s).length) ∧
    Meets getHealthSpec (mbx []) halter (fun c s => Fits c (getHealthBytes s).1.length) ∧
    Begins echoSpec (mbx (zeros 4064)) halter ∧ Begins lcStatusSpec (mbx []) halter ∧
    Begins musterReadSpec (mbx [1, 0, 63, 0, 0, 0, 0, 0]) halter ∧
    Meets casterStatusSpec (mbx (1 :: zeros 31)) halter (fun c s =>
      Fits c ((castMask c).flatMap fun x => statusRecord (vget ({} : Caster) s.cast x)).length) ∧
    Meets readbackSpec (mbx [0, 0, 0, 0, 1, 0, 0, 0]) halter (fun c s => rangePdk c (fun k => (pdkAt s k).state == .loading) = none ∧
      Fits c ((readbackAddrs c).foldl (fun (r : State × List Byte) a => let x := readFrame r.1 a; (x.1, r.2 ++ x.2)) (s, [])).2.length) := by decide +kernel

/-- The last block of the user region, one beyond it, and one of a channel in recalibration. -/
theorem witness_ReadingCommands_memory :
    (∀ a ∈ [65472, 65536], Meets memReadSpec (mbx (leBytes 8 a ++ leBytes 4 64 ++ zeros 4)) (withDdr halter)
      (fun c s => memReady s (par c 0 8) (par c 8 4) = true ∧
        ((memRead s .memCmd (par c 0 8) (par c 8 4)).2.isSome = true ↔ a = 65472))) ∧
    Meets memReadSpec (mbx (zeros 8 ++ leBytes 4 64 ++ zeros 4)) ((withDdr halter).modChan 0 fun h => { h with state := .recal })
      (fun c s => memReady s (par c 0 8) (par c 8 4) = false) := by decide +kernel

/-- The manufacturer's public key in the tests is the generator itself: private key 1. -/
def pubKey : List Byte := 4 :: (beBytes 48 ecG.1 ++ beBytes 48 ecG.2)
def keyed (s : State) : State := { s with fuse.pkHash := BitVec.ofNat 384 (leNat (sha384 pubKey)) }
def sigR : Nat := 0x7ae9e1db1160794c70c1ef071be5191f6c66240f4608fbe8a44ecd36c3ed5db97500f2e4d84e3fb45850fd6f4303302b

/-- A signed tail behind the first 16 bytes of a command. -/
def tail (s : Nat) : List Byte := pubKey ++ zeros 3 ++ leBytes 48 sigR ++ leBytes 48 s

/-- LC_ADVANCE to OWNED, SCAN_ENABLE, and BIST_RUN in FIELD, signed for nonce 0 of the unit of serial number 0. -/
theorem witness_DeviceCommands_tails :
    Meets lcAdvanceSpec (mbx (1 :: zeros 15 ++ tail
        0x58b28da5c9ee01c1794b11e85394cc32234be57747f1e0dfa0a16831116e4050b32951469ea2bafc0a32b9819df1a5d1)) (keyed halter)
      (fun c s => lcOfCode (par c 0 1) = some .owned ∧ zeroiseBusy s = none ∧ s.dev.sbRo = false ∧ tailCheck c s = none) ∧
    Meets scanEnableSpec (mbx (zeros 16 ++ tail
        0x10bef3b649eca850220b4f872bf67f97f51fb0e5a6749e7c4dadf1c1bc307e01f36d1bd65f1ccfb0496b158461c8cb8)) (keyed halter)
      (fun c s => zeroiseBusy s = none ∧ s.dev.sbRo = false ∧ tailCheck c s = none) ∧
    Meets bistRunSpec (mbx ([1, 0, 0, 0, 1] ++ zeros 11 ++ tail
        0x728513310502a9912cfaa95b47f0d7dbcc216405e9460d3f8207d568dc4c1f4f137d9ee08cbdc368a054647f327e66eb))
      { keyed halter with fuse.lcs := .field }
      (fun c s => jobWhere s isBist = none ∧ zeroiseBusy s = none ∧ bistBusy s (testsOf (par c 0 4)) = none ∧ s.dev.sbRo = false ∧
        s.fuse.lcs = .field ∧ tailCheck c s = none) := by decide +kernel

/-- The same with a tail of zeros, whose key is not the manufacturer's. -/
theorem witness_DeviceCommands_badTails :
    Meets lcAdvanceSpec (mbx (1 :: zeros 211)) halter (fun c s => (lcOfCode (par c 0 1)).isSome = true ∧ zeroiseBusy s = none ∧
      s.dev.sbRo = false ∧ tailCheck c s = some { st := .auth, detail := 1 }) ∧
    Meets scanEnableSpec (mbx (zeros 212)) halter (fun c s => zeroiseBusy s = none ∧ s.dev.sbRo = false ∧
      tailCheck c s = some { st := .auth, detail := 1 }) ∧
    Meets bistRunSpec (mbx (1 :: zeros 211)) { halter with fuse.lcs := .field } (fun c s => jobWhere s isBist = none ∧
      bistBusy s (testsOf (par c 0 4)) = none ∧ s.fuse.lcs = .field ∧ zeroiseBusy s = none ∧ s.dev.sbRo = false ∧
      tailCheck c s = some { st := .auth, detail := 1 }) := by decide +kernel

/-- A key wrapped under a provisioning key of zeros (SP 800-38F). -/
def wrapped : List Byte := beBytes 8 15684580824290684244 ++ beBytes 8 3114857352028966326 ++ beBytes 8 3196278466348957823 ++
  beBytes 8 6095139167740445921 ++ beBytes 8 622376913049954014

theorem witness_DeviceCommands_key : ∀ wrap ∈ [0, 1],
    Meets keyProvisionSpec (mbx ([15, BitVec.ofNat 8 wrap] ++ zeros 6 ++ wrapped ++ zeros 32)) halter
      (fun c s => par c 1 1 = wrap ∧ s.dev.sbRo = false ∧ vget none s.fuse.keys (par c 0 1) = none ∧
        keyUnwrap (keyBytes s.fuse.provKey) ((c.params.drop 8).take 40) = some (zeros 31 ++ [7])) := by decide +kernel

/-- With the rails at the floor it stands written; from 0.80 V its writes wait on the AVSBus. -/
theorem witness_DeviceCommands_doze :
    (∀ v ∈ [600, 800],
      Meets setStateSpec (mbx [5, 0, 0, 0])
        { service with gov.die := service.gov.die.map fun g => { g with vset := v }, gov.params := { service.gov.params with floor := 600 } }
        (fun c s => s.dev.state = .service ∧ devOfCode (par c 0 1) = some .doze ∧
          (floorWritten (toDoze s) 0 && floorWritten (toDoze s) 1) = (v == 600))) := by decide +kernel

theorem witness_DeviceCommands :
    (∀ cls ∈ [1, 3, 4, 5, 6],
      Meets semBindSpec (mbx ([0, 63, BitVec.ofNat 8 cls] ++ zeros 13)) (halter.modSem 63 fun x => { x with owner := some 0 })
        (fun c s => (semBind s (par c 0 1 == 1) (par c 1 1) (par c 2 1) (par c 4 4) (par c 8 4)).toOption.isSome = true)) ∧
    Meets bistRunSpec (mbx ([1, 1] ++ zeros 210)) halter
      (fun c s => jobWhere s isBist = none ∧ zeroiseBusy s = none ∧ bistBusy s (testsOf (par c 0 4)) = none ∧
        (bistPersists c s = true → s.dev.sbRo = false) ∧ s.fuse.lcs ≠ .field) ∧
    (∀ x ∈ [none, some [3]], Meets setStateSpec (mbx [4, 0, 0, 0]) { service with dev.state := .doze, dev.dozeExit := x }
      (fun c s => s.dev.state = .doze ∧ devOfCode (par c 0 1) = some .service ∧ s.dev.dozeExit = x)) ∧
    (∀ st ∈ [DevState.halter, .service, .doze, .recovery],
      Meets setStateSpec (mbx [6, 0, 0, 0]) { service with dev.state := st }
        (fun c s => s.dev.state ∈ [.halter, .service, .doze, .recovery] ∧ devOfCode (par c 0 1) = some .stabled)) ∧
    Begins shutdownSpec (mbx [1, 0, 0, 0]) service ∧ Begins wakeConfigSpec (mbx [0, 0, 3, 1, 0, 0, 0, 0]) service ∧
    Begins musterArmSpec (mbx ([63, 0, 1, 0] ++ zeros 12)) service ∧
    Meets musterFireSpec (mbx []) { service with mus.src := 1 } (fun _ s => s.mus.src.getLsbD 0 = true ∧ musterMissed s = false) ∧
    Meets governorConfigSpec (mbx ([0, 30, 10, 4] ++ leBytes 2 600 ++ leBytes 2 900 ++ leBytes 2 750 ++ [5, 100] ++ leBytes 4 1000 ++ zeros 24))
      service (fun c _ => (govParams c).isSome = true) ∧
    Begins fettlerConfigSpec (mbx [1, 0, 0, 0, 20, 0, 0, 0]) service := by decide +kernel

/-- A pattern image without frames: a header of the given kind and mask, and an empty pace table. -/
def image (kind mask s : Nat) : List Byte :=
  let pace : List Byte := leBytes 2 0 ++ leBytes 2 600 ++ zeros 12
  ascii "KZPT" ++ leBytes 4 1 ++ leBytes 2 0x0117 ++ leBytes 2 0x0080 ++ List.replicate 4 0xFF ++ leBytes 2 1 ++
    [BitVec.ofNat 8 kind, 0] ++ leBytes 8 mask ++ zeros 140 ++ leBytes 4 512 ++ leBytes 4 16 ++ leBytes 4 528 ++ leBytes 4 528 ++
    sha384 pace ++ pubKey ++ zeros 7 ++ leBytes 48 sigR ++ leBytes 48 s ++ zeros 80 ++ pace

/-- The unit's device key 0 is programmed. -/
def pourable (s : State) : State := { keyed s with fuse.keys := vset s.fuse.keys (0 : Fin 16) (some 0) }

theorem witness_PatternCommands_pours :
    Meets pourPatternSpec (mbxBuf ([1, 0] ++ zeros 6) (image 0 (2 ^ 64 - 1)
        0xf8e9b5242fb5a9d680f4df5332885edf615d59ea03bc738139261240cbf5123e18d02a2667e04e098cf1e9292024b0fa)) (pourable halter)
      (fun c s => s.cfg.pour = none ∧ par c 0 1 = 1 ∧
        (openHost c (noFrames s) { full := true, mask := BitVec.allOnes 64 }).2.toOption.isSome = true) ∧
    Meets pourPartialSpec (mbxBuf ([1, 0, 0, 0, 1] ++ zeros 11) (image 1 1
        0x86b0a065c37b288a9df3f9815a1c447ac52d67545779ae05366af978fe6fa6cae1da882d5941abfe66268f9b80a56159)) (pourable service)
      (fun c s => s.cfg.pour = none ∧ (maskList (BitVec.ofNat 64 (par c 4 8))).findSome? (partialDeny s) = none ∧ par c 0 1 = 1 ∧
        (openHost c (noFrames s) { full := false, mask := BitVec.ofNat 64 (par c 4 8) }).2.toOption.isSome = true) := by decide +kernel

/-- A pour from flash with no golden record to write: the studbook takes records, or there is no directory. -/
theorem witness_PatternCommands_flash : ∀ ro : Bool,
    Meets pourPatternSpec (mbx (zeros 8)) { halter with dev.sbRo := ro } (fun c s => s.cfg.pour = none ∧ par c 0 1 ≠ 1 ∧
      s.dev.sbRo = ro ∧ (directory s).1 = none ∧
      (openFlash (noFrames s) { full := true, mask := BitVec.allOnes 64 } 0).2.toOption.isSome = false) ∧
    Meets pourPartialSpec (mbx ([0, 0, 0, 0, 1] ++ zeros 11)) { service with dev.sbRo := ro } (fun c s => s.cfg.pour = none ∧
      par c 0 1 ≠ 1 ∧ (maskList (BitVec.ofNat 64 (par c 4 8))).findSome? (partialDeny s) = none ∧ s.dev.sbRo = ro ∧
      (directory s).1 = none ∧
      (openFlash (noFrames s) { full := false, mask := BitVec.ofNat 64 (par c 4 8) } 0).2.toOption.isSome = false) := by decide +kernel

/-- A directory whose golden slot 0 is programmed, in an otherwise erased flash: each byte is held as its complement. -/
def directoryFlash : FlashDev :=
  { present := true, log2cap := 24,
    bytes := ((ascii "KZDR" ++ [1, 0, 0]).zipIdx.map fun (x : Byte × Nat) => (x.2, ~~~x.1)) ++
      (leBytes 4 0xb848501b).zipIdx.map fun (x : Byte × Nat) => (4092 + x.2, ~~~x.1) }

theorem witness_PatternCommands_golden :
    let s := { service with dev.sbRo := true, cfg.flash := vset service.cfg.flash (0 : Fin 2) directoryFlash }
    Meets pourPatternSpec (mbx (zeros 8)) { s with dev.state := .halter } (fun c s => s.cfg.pour = none ∧ par c 0 1 ≠ 1 ∧
      s.dev.sbRo = true) ∧
    Meets pourPartialSpec (mbx ([0, 0, 0, 0, 1] ++ zeros 11)) s (fun c s => s.cfg.pour = none ∧ par c 0 1 ≠ 1 ∧
      (maskList (BitVec.ofNat 64 (par c 4 8))).findSome? (partialDeny s) = none ∧ s.dev.sbRo = true) ∧
    ((directory s).1.bind (newGolden s)).isSome = true := by decide +kernel

/-- Paddock 63 in the given state. -/
def withPdk (st : PdkState) : State := service.modPdk 63 fun d => { d with state := st, poured := true }

theorem witness_PatternCommands :
    (let s := { halter with cfg.flash := vset halter.cfg.flash (0 : Fin 2) { present := true, log2cap := 24 } }
     Meets flashWriteSpec (mbxBuf ([0, 1, 0, 0] ++ zeros 4 ++ leBytes 4 4096 ++ zeros 4) (zeros 4096)) s
       (fun c s => flashBusy s (par c 0 1) true = none ∧ (inBuf c (par c 8 4)).toOption.isSome = true) ∧
     Meets flashReadSpec (mbx (zeros 8 ++ leBytes 4 4080 ++ zeros 4)) s
       (fun c s => flashBusy s (par c 0 1) false = none ∧ (c.hlen.toNat ≠ 0 → par c 8 4 ≤ c.hlen.toNat)) ∧
     Meets flashReadSpec (mbxBuf (zeros 8 ++ leBytes 4 4096 ++ zeros 4) (zeros 4096)) s
       (fun c s => flashBusy s (par c 0 1) false = none ∧ (c.hlen.toNat ≠ 0 → par c 8 4 ≤ c.hlen.toNat))) ∧
    (∀ st ∈ [PdkState.live, .faulted], Meets isolateSpec (mbxTo 1 63 (zeros 8)) (withPdk st)
      (fun c s => let k := Fin.ofNat 64 c.tindex.toNat
        (s.pdk[k].state = .live ∨ s.pdk[k].state = .faulted) ∧ pdkBusy s k.val = false ∧ (par c 0 1 % 2 = 1 ∨ portItems s k.val = []))) ∧
    (∀ flag ∈ [0, 1], ∀ cut : Bool,
      Meets releasePdkSpec (mbxTo 1 63 (leBytes 4 flag)) { withPdk .isolated with mus.hold := cut, mus.part := 0x8000000000000000 }
        (fun c s => let k := Fin.ofNat 64 c.tindex.toNat
          s.pdk[k].state = .isolated ∧ s.pdk[k].poured = true ∧ pdkBusy s k.val = false ∧ par c 0 1 % 2 = flag ∧ cutHeld s k.val = cut)) ∧
    Begins releaseOrderSpec (mbx (zeros 7 ++ [0x80, 5] ++ zeros 7)) service := by decide +kernel

/-- Link 5 up with a camera of rate 7, as a master. -/
def upLink : State := service.modLink 5 fun l => { l with state := .up, maxRate := 7, rate := 1, grouped := true }

theorem witness_LinkAndTriggerCommands :
    Meets cxpDiscoverSpec (mbx (32 :: zeros 23)) service (fun c s => discoverDeny c s (maskLinks c 0) = none ∧ s.dev.sbRo = false) ∧
    Meets cxpSetLinkSpec (mbxTo 3 5 [7, 0, 0, 0]) upLink (fun c s =>
      firstLink .retired s (groupLinks s (linkTarget c)) linkFailed = none ∧
      firstLink .stateRefused s (groupLinks s (linkTarget c)) (fun x => x.state != .up) = none ∧
      firstLink .busy s (groupLinks s (linkTarget c)) (fun _ => bistLinks s) = none ∧ s.dev.sbRo = false ∧ par c 0 1 ≤ s.cxp.links[linkTarget c].maxRate ∧ linkCtrl s (groupLinks s (linkTarget c)) = none) ∧
    Meets cxpGroupSpec (mbxTo 3 5 (zeros 20 ++ [1, 0, 0, 0])) upLink (fun c s => queryOnly c = true ∧
      firstLink .retired s (groupLinks s (linkTarget c)) linkFailed = none) ∧
    Meets cxpGroupSpec (mbxTo 3 5 ([0, 0, 0, 2, 0, 0, 0, 0] ++ leBytes 4 4096 ++ leBytes 4 1000 ++ leBytes 4 100000 ++ zeros 4)) upLink
      (fun c s => queryOnly c = false ∧ groupDeny c s = none) ∧
    Meets cxpCtrlReadSpec (mbxTo 3 5 (zeros 4 ++ [4, 0] ++ zeros 6)) upLink
      (fun c s => ctrlDeny s (linkTarget c) = none ∧ outFits c s (par c 4 2) = none) ∧
    Meets cxpCtrlWriteSpec (mbxTo 3 5 (zeros 4 ++ [4, 0] ++ zeros 10)) upLink
      (fun c s => ctrlDeny s (linkTarget c) = none ∧ c.hlen.toNat = 0) ∧
    Meets cxpCtrlWriteSpec { mbxBuf (zeros 4 ++ [4, 0] ++ zeros 6) [1, 2, 3, 4] with tclass := 3, tindex := 5 } upLink
      (fun c s => ctrlDeny s (linkTarget c) = none ∧ c.hlen.toNat ≠ 0 ∧ (inBuf c (par c 4 2)).toOption = some [1, 2, 3, 4]) ∧
    (∀ on ∈ [0, 1], Meets cxpStreamEnableSpec (mbx (32 :: zeros 15 ++ leBytes 4 on)) upLink (fun c s =>
      firstLink .retired s ((maskLinks c 0).flatMap fun n => groupLinks s n) linkFailed = none ∧
      firstLink .stateRefused s ((maskLinks c 0).flatMap fun n => groupLinks s n) (fun x => !linkUp x) = none)) ∧
    Meets cxpPixelStoreSpec (mbxTo 3 5 (zeros 40)) upLink
      (fun c s => firstLink .retired s (groupLinks s (linkTarget c)) linkFailed = none ∧
        linkChanging s (groupLinks s (linkTarget c)) = none) := by decide +kernel

theorem witness_LinkAndTriggerCommands_triggers :
    (∀ p ∈ [0, 1], Meets encConfigSpec (mbxTo 4 7 ([3, 0, 0, 0, 0, 0, 2, 0, 2, BitVec.ofNat 8 p] ++ zeros 22)) service (fun c s =>
      s.trig.enc[encTarget c].failed = false ∧
      (encChanges s.trig.enc[encTarget c].par (encParams c) = true → armedOf s (encTarget c) = []))) ∧
    Meets trigGenConfigSpec (mbxTo 5 63 (zeros 16 ++ leBytes 8 1024 ++ zeros 40)) service
      (fun c s => s.trig.gen[genTarget c].state ≠ .armed) ∧
    (let s := (service.modGen 0 fun g => { g with state := .idle }).modEnc 0 fun x => { x with par := { x.par with mode := 3 } }
     Meets trigGenArmSpec (mbx (1 :: zeros 11)) s (fun c s => (maskGens c).find? (armBlocked s) = none)) ∧
    Begins trigGenStopSpec (mbx (zeros 7 ++ [0x80])) service ∧
    Meets headOffsetsSpec (mbx (1 :: zeros 31)) service (fun c s => (headEntries c).findSome? (headBusy s) = none) ∧
    (∀ arm ∈ [0, 1], Meets positionCompareSpec (mbx ([7, BitVec.ofNat 8 arm] ++ zeros 14)) service (fun c _ => par c 1 1 = arm)) := by
  decide +kernel

/-- An image with its CRC in bytes 28 to 31 (R174). -/
def withCrc (l : List Byte) : List Byte := l.take 28 ++ leBytes 4 (imageCrc l) ++ l.drop 32

/-- A graph of one operation, of class 4, and its collector, a result region. -/
def graphImage : List Byte :=
  withCrc ([1, 0, 7, 0, 1, 0, 0, 0, 1, 0, 0, 0] ++ leBytes 4 584 ++ zeros 528 ++ [3] ++ zeros 7 ++ [4] ++ zeros 31)

/-- A kernel of one NOP. -/
def kernelImage : List Byte := withCrc ([1, 0, 9, 0, 1, 0, 0, 0] ++ leBytes 4 40 ++ zeros 28)

/-- Flow 0 in the given state, with one operation and one collector loaded. -/
def withFlow (st : FlowState) : State :=
  { service with sch.graph := { oneOp 3 0 with collectors := [{ kind := 3 }] }, sch.flows := [(0, { state := st })] }

theorem witness_SchedulerCommands_memory :
    (∀ p ∈ [0, 1], Meets memMapSpec (mbx ([1, 0, BitVec.ofNat 8 p] ++ zeros 5 ++ [6] ++ zeros 15 ++ leBytes 8 4096)) (withDdr service)
      (fun c s => (newMap s c).isSome = true ∧
        s.ddr.map.find? (fun r => regionInUse s r && regionDisturbed ((newMap s c).getD []) r) = none ∧
        (par c 2 1 % 2 = 1 → s.dev.sbRo = false))) ∧
    (∀ a ∈ [65472, 65536], Meets memWriteSpec (mbx (leBytes 8 a ++ leBytes 4 64 ++ zeros 68)) (withDdr service) (fun c s =>
      c.hlen.toNat = 0 ∧ memReady s (par c 0 8) (par c 8 4) = true ∧
      ((memWrite s .memCmd (par c 0 8) ((c.params.drop 16).take (par c 8 4))).2 = true ↔ a = 65472))) ∧
    (∀ a ∈ [65472, 65536], Meets memWriteSpec (mbxBuf (leBytes 8 a ++ leBytes 4 64 ++ zeros 4) (zeros 64)) (withDdr service) (fun c s =>
      c.hlen.toNat ≠ 0 ∧ (inBuf c (par c 8 4)).toOption = some (zeros 64) ∧ memReady s (par c 0 8) (par c 8 4) = true ∧
      ((memWrite s .memCmd (par c 0 8) ((zeros 64).take (par c 8 4))).2 = true ↔ a = 65472))) ∧
    Meets memWriteSpec (mbx (zeros 8 ++ leBytes 4 64 ++ zeros 68)) ((withDdr service).modChan 0 fun h => { h with state := .recal })
      (fun c s => c.hlen.toNat = 0 ∧ memReady s (par c 0 8) (par c 8 4) = false) := by decide +kernel

theorem witness_SchedulerCommands_training :
    Meets memTrainSpec (mbx ([0, 1, 0, 0, 15, 0, 0, 1] ++ leBytes 2 4800 ++ zeros 6)) (withDdr service) (fun c s =>
      par c 0 1 = 0 ∧ (trainDesc c).isSome = true ∧ chanTaken s (Fin.ofNat 2 (par c 1 1)) false 0 = none ∧
      s.ddr.active[(Fin.ofNat 2 (par c 1 1) : Fin 2)] = [] ∧ s.dev.sbRo = false) ∧
    (∀ op ∈ [1, 2, 3], ∀ f ∈ [0, 1], Meets memTrainSpec (mbx ([BitVec.ofNat 8 op, 0, BitVec.ofNat 8 f] ++ zeros 13)) (withDdr service) (fun c s =>
      let ch : Fin 8 := Fin.ofNat 8 (par c 1 1)
      par c 0 1 = op ∧ chanTaken s (dieOfChan ch) (par c 0 1 == 1) ch = none ∧ s.ddr.chan[ch].state = .active ∧ par c 2 1 % 2 = f ∧
        ringOnDie s (dieOfChan ch) = false ∧ notQuiet s (dieOfChan ch) (f == 1) = none ∧ s.dev.sbRo = false)) ∧
    Meets memTrainSpec (mbx ([3, 0, 2] ++ zeros 13)) (withDdr service) (fun c s =>
      let ch : Fin 8 := Fin.ofNat 8 (par c 1 1)
      par c 0 1 = 3 ∧ chanTaken s (dieOfChan ch) (par c 0 1 == 1) ch = none ∧ s.ddr.chan[ch].state = .active ∧ notQuiet s (dieOfChan ch) false = none ∧
        par c 2 1 / 2 % 2 = 1 ∧ s.dev.sbRo = false) ∧
    Meets memTrainSpec (mbx ([4, 7] ++ zeros 14)) (service.modChan 7 fun h => { h with state := .retired }) (fun c s =>
      let ch : Fin 8 := Fin.ofNat 8 (par c 1 1)
      par c 0 1 = 4 ∧ chanTaken s (dieOfChan ch) (par c 0 1 == 1) ch = none ∧ s.ddr.chan[ch].state = .retired ∧ s.ddr.chan[ch].persist = false ∧
        notQuiet s (dieOfChan ch) false = none ∧ s.dev.sbRo = false) := by decide +kernel

/-- The block with `l` at the start of its user region. -/
def stored (l : List Byte) : State :=
  { withDdr service with ddr.bytes := (l.zipIdx.filter fun (x : Byte × Nat) => x.1 != 0).map fun (x : Byte × Nat) => (x.2, x.1) }

theorem witness_SchedulerCommands_graph :
    Meets graphLoadSpec (mbxBuf (zeros 12 ++ leBytes 4 584) graphImage) service (fun c s =>
      par c 0 1 = 0 ∧ (inBuf c (par c 12 4)).toOption = some graphImage ∧ s.sch.flows = [] ∧
      ((graphOf (graphImage.take (par c 12 4))).map fun g => g.ops.any (badProfile s) || (deadOp s g).isSome) = some false) ∧
    Meets graphLoadSpec (mbx (1 :: zeros 11 ++ leBytes 4 584)) (stored graphImage) (fun c s =>
      par c 0 1 = 1 ∧ imageRegion s (par c 4 8) (par c 12 4) = true ∧ memReady s (par c 4 8) (par c 12 4) = true ∧ s.sch.flows = [] ∧
      (ddrFetch s .memCmd (par c 4 8) (par c 12 4)).1.sch.flows = [] ∧
      (ddrFetch s .memCmd (par c 4 8) (par c 12 4)).2.1 = graphImage) ∧
    Meets graphLoadSpec (mbx (1 :: zeros 11 ++ leBytes 4 584)) ((withDdr service).modChan 0 fun h => { h with state := .recal })
      (fun c s => par c 0 1 = 1 ∧ imageRegion s (par c 4 8) (par c 12 4) = true ∧ memReady s (par c 4 8) (par c 12 4) = false) := by
  decide +kernel

theorem witness_SchedulerCommands_flows :
    (∀ op ∈ [0, 1, 2], ∀ d ∈ [0, 1],
      let st := if op = 0 then FlowState.closed else .open
      Meets flowConfigSpec (mbx ([BitVec.ofNat 8 op, 3, 1, 0] ++ zeros 16)) (withFlow st) (fun c s => par c 0 1 = op ∧
        ∀ i < par c 8 4 + 1 - par c 4 4, (s.flow (par c 4 4 + i)).state = st ∧ flowHolds s (par c 4 4 + i) = false) ∧
      Meets flowDrainSpec (mbx (BitVec.ofNat 8 d :: zeros 15)) (withFlow .open) (fun c s => par c 0 1 = d ∧
        ∀ i < par c 8 4 + 1 - par c 4 4, (s.flow (par c 4 4 + i)).state = .open)) ∧
    (∀ full : Bool, ∀ long : Bool,
      let s := withFlow .open
      let s := { s with sch.used := if full then s.sch.params.hLimit else 0 }
      Meets flowSubmitSpec { mbx ([1] ++ zeros 67) with long := long } s (fun c s =>
        c.hlen.toNat = 0 ∧ itemsDeny s (submitItems c) = none ∧ c.long = long ∧
        ((admitItems s (srcOf c.src) 0 (submitItems c)).2.1 = [] ↔ full = false) ∧
        (findJob (startJob c s (.flowSubmit (submitItems c) 0) []) s.cmdp.nextId).isSome = true) ∧
      Meets flowSubmitSpec { mbxBuf [1, 0, 0, 0] (zeros 64) with long := long } s (fun c s =>
        c.hlen.toNat ≠ 0 ∧ (inBuf c (64 * par c 0 2)).toOption.isSome = true ∧ itemsDeny s (submitItems c) = none ∧
        ((admitItems s (srcOf c.src) 0 (submitItems c)).2.1 = [] ↔ full = false))) := by decide +kernel

theorem witness_SchedulerCommands_settings :
    Meets coolConfigSpec (mbx (zeros 144)) service (fun c s => (coolAfter c s).period = s.cool.period ∧
      (∀ d ∈ List.range 16, domainHolds s d = false) ∧ (∀ p ∈ List.range 16, profileNamed s p = false)) ∧
    Begins spillConfigSpec (mbx (leBytes 4 196608 ++ leBytes 4 131072 ++ leBytes 4 253952 ++ zeros 20)) service ∧
    (∀ op ∈ [0, 2], Meets schedTraceSpec (mbx (BitVec.ofNat 8 op :: zeros 47)) service (fun c _ => par c 0 1 = op)) ∧
    (∀ dest ∈ [0, 1], Meets schedTraceSpec (mbx ([1, BitVec.ofNat 8 dest] ++ zeros 14 ++ [0xFF, 0xFF] ++ zeros 14 ++ leBytes 4 4096 ++ zeros 12))
      { withDdr service with ddr.map := [{ kind := .trace, index := 0, base := 0, len := 65536 }] }
      (fun c s => par c 0 1 = 1 ∧ (par c 1 1 = 0 → (traceRegion s).isSome = true))) := by decide +kernel

theorem witness_SchedulerCommands_casters :
    Meets kernelLoadSpec (mbxBuf (1 :: zeros 47) kernelImage) service (fun c s => (BitVec.ofNat 8 (par c 32 1)).getLsbD 1 = false ∧
      (inBuf c 32).toOption = some kernelImage ∧ (inBuf c 40).toOption = some kernelImage ∧
      castMask c = [0] ∧ (vget ({} : Caster) s.cast 0).mode = .idle ∧ (vget ({} : Caster) s.cast 0).drain = none) ∧
    Meets kernelLoadSpec (mbx (1 :: zeros 31 ++ 2 :: zeros 15)) (stored kernelImage) (fun c s =>
      (BitVec.ofNat 8 (par c 32 1)).getLsbD 1 = true ∧ par c 40 8 = 0 ∧ imageRegion s 0 32 = true ∧ imageRegion s 0 40 = true ∧
      memReady s 0 32 = true ∧ memReady s 0 40 = true ∧ bistChanges s 8 = false ∧
      castMask c = [0] ∧ (vget ({} : Caster) (ddrFetch s .memCmd 0 40).1.cast 0).mode = .idle ∧
      (vget ({} : Caster) (ddrFetch s .memCmd 0 40).1.cast 0).drain = none) ∧
    Meets kernelLoadSpec (mbx (1 :: zeros 31 ++ 2 :: zeros 15)) ((withDdr service).modChan 0 fun h => { h with state := .recal }) (fun c s =>
      (BitVec.ofNat 8 (par c 32 1)).getLsbD 1 = true ∧ imageRegion s (par c 40 8) 32 = true ∧ memReady s (par c 40 8) 32 = false) ∧
    (ddrFetch (stored kernelImage) .memCmd 0 32).2.1 = kernelImage.take 32 ∧
    (ddrFetch (stored kernelImage) .memCmd 0 40).2.1 = kernelImage ∧
    max 32 (leAt (kernelImage.take 32) 8 4) = 40 ∧ (kernelOf kernelImage).isSome = true ∧
    (∀ op ∈ [0, 1], ∀ f ∈ [0, 1, 2, 3], Meets casterRetireSpec (mbx (zeros 31 ++ [0x80, BitVec.ofNat 8 op, BitVec.ofNat 8 f] ++ zeros 6)) service
      (fun c s => par c 32 1 = op ∧ par c 33 1 = f ∧ castMask c = [255] ∧ bistChanges s 8 = false ∧ (vget ({} : Caster) s.cast 255).mode = .idle ∧ s.dev.sbRo = false ∧
        (vget ({} : Caster) s.cast 255).drain = none ∧
        (vget ({} : Caster) s.cast 255).persist = false)) := by decide +kernel

/-- The device not serving; a command with a wrong header; one that its body refuses (RELEASE_PADDOCK of an EMPTY paddock). -/
theorem witness_RefusedCommands :
    ((Instr.echo (mbx [])).hostCmd = some (5, mbx []) ∧ (cmdOf 5).isSome = true ∧ served State.reset = false) ∧
    (let c := { mbx [] with hdr := 1 }
     Reaches echoSpec c halter ∧ checkCmd echoSpec (typed echoSpec c) (counted c halter) = some { st := .check, detail := 1 }) ∧
    (let c := mbxTo 1 63 (zeros 4)
     Begins releasePdkSpec c service ∧ (releasePdkBody (typed releasePdkSpec c) (counted c service)).toOption.isSome = false) := by
  decide +kernel

/-- One command for each clause: LC_ADVANCE from FACTORY to RET; ISOLATE_PADDOCK in HALTER, with a semaphore not held or
without one, and of paddock 64; a command that takes no buffer given one. -/
theorem witness_CheckOrder :
    ((0 : BitVec 2) ≠ 1 ∧ (2 : BitVec 2) ≠ 0 ∧ (2 : BitVec 2) ≠ 1) ∧
    ({ echoSpec with known := false }.known = false ∧ echoSpec.known = true) ∧
    (getStateSpec.size (mbx [0]) = false ∧ (mbxTo 1 0 []).tclass.toNat ≠ 0 ∧ getStateSpec.size (mbx []) = true) ∧
    (lcAdvanceSpec.size (mbx (3 :: zeros 211)) = true ∧ lcAdvanceSpec.life (mbx (3 :: zeros 211)) halter = false) ∧
    (let c := mbxTo 1 63 (zeros 8)
     isolateSpec.size c = true ∧ c.tclass.toNat = 1 ∧ isolateSpec.life c halter = true ∧ halter.dev.state ∉ isolateSpec.states ∧
       isolateSpec.life c service = true ∧ service.dev.state ∈ isolateSpec.states ∧
       semCheck service { c with sem := 63 } (isolateSpec.touches c service) = some 63 ∧
       semCheck service c (isolateSpec.touches c service) = none ∧ c.sem = 0xFFFF ∧
       semCheck service { c with sem := 64 } (isolateSpec.touches c service) = none ∧ 64 ≤ (64 : BitVec 16).toNat ∧
       64 ≤ (mbxTo 1 64 []).tindex.toNat ∧ c.tindex.toNat < 64) ∧
    (echoSpec.buffer = false ∧ (mbxBuf [] [0]).hlen ≠ 0 ∧ getStateSpec.buffer = true ∧ (mbx []).hlen = 0) := by decide +kernel

/-! ### Well-formed and ill-formed operands -/

/-- Table 13-1: 4,064 parameter bytes are a command, 4,065 are not. -/
theorem test_wf_params : (Instr.echo { params := List.replicate 4064 0 }).ok = true ∧
    (Instr.echo { params := List.replicate 4065 0 }).ok = false := by decide +kernel

/-- One existing bit of each stored word, and one that the map does not have. -/
theorem test_wf_upset :
    (Instr.upset (.frame 0x14000 4143)).ok = true ∧ (Instr.upset (.frame (2 ^ 19) 0)).ok = false ∧
    (Instr.upset (.frame 5120 0)).ok = false ∧ (Instr.upset (.frame 0 4144)).ok = false ∧
    (Instr.upset (.bin 4095 2047 71)).ok = true ∧ (Instr.upset (.bin 4096 0 0)).ok = false ∧
    (Instr.upset (.bin 0 2048 0)).ok = false ∧ (Instr.upset (.bin 0 0 72)).ok = false ∧
    (Instr.upset (.casterMem 0 16384 0)).ok = false ∧ (Instr.upset (.casterMem 0 0 72)).ok = false ∧
    (Instr.upset (.casterStore 0 2048 0)).ok = false ∧ (Instr.upset (.casterStore 0 0 72)).ok = false ∧
    (Instr.upset (.ddr (2 ^ 34) 0)).ok = false ∧ (Instr.upset (.ddr 0 40)).ok = false := by decide +kernel

/-- The last frame address of each kind, of paddock 63, and the last bit of the last word of each memory. -/
theorem witness_Upsets :
    (∀ a ∈ [63 * 8192 + 5119, 63 * 8192 + 5152, 63 * 8192 + 5215], a < 2 ^ 19 ∧ (a % 8192 < 5120 ∨ (5152 ≤ a % 8192 ∧ a % 8192 < 5216))) ∧
    4143 < 4144 ∧ 4095 < 4096 ∧ 2047 < 2048 ∧ 71 < 72 ∧ 16383 < 16384 ∧ 2 ^ 34 - 1 < 2 ^ 34 ∧ 39 < 40 := by decide

/-- A fetch brings whole slots of 64 bytes, at least one; a link trains at 2.5 to 32 GT/s (1 to 5) and at x4, x2 or x1, and at
0 and x0 only PERST has gone (log entry 68). -/
theorem test_wf_events :
    (Instr.commandFetch 0 0 1 (List.replicate 64 0) none).ok = true ∧ (Instr.commandFetch 0 0 1 [] none).ok = false ∧
    (Instr.commandFetch 0 0 1 (List.replicate 63 0) none).ok = false ∧
    (Instr.dataLinkUp 0 5 4).ok = true ∧ (Instr.dataLinkUp 0 0 0).ok = true ∧ (Instr.dataLinkUp 0 0 4).ok = false ∧
    (Instr.dataLinkUp 0 6 4).ok = false ∧ (Instr.dataLinkUp 0 5 3).ok = false ∧ (Instr.dataLinkUp 0 5 0).ok = false := by decide +kernel

/-- The blocks of Table 15-6: the last of each class exists, the next does not; the loops are those of one use, 4 to 15. -/
theorem test_wf_blocks :
    (Instr.bistComplete 0 [.caster 255, .link 127, .channel 7, .enc 7, .tdc 7, .delayLine 31, .sensor 35, .monitor 6, .loop 4,
      .loop 15]).ok = true ∧
    ∀ b ∈ [Block.caster 256, .link 128, .channel 8, .enc 8, .tdc 8, .delayLine 32, .sensor 36, .monitor 7, .loop 3, .loop 16],
      (Instr.bistComplete 0 [b]).ok = false ∧ (Instr.shutdownComplete 0 [b]).ok = false ∧
      (Instr.deviceFault 0 0 [b]).ok = false ∧ (Instr.startUpComplete .good 0 [b] 0 0).ok = false := by decide +kernel

/-! ### Single steps -/

/-- The first clause of EveryCommandAnswers has no hypothesis; the second holds of every queue but one. -/
theorem witness_EveryCommandAnswers : ∀ c l rest, service.pending ≠ .jtagInstruction ⟨.internal c, l⟩ :: rest := nofun

theorem witness_FusesOnlyGrow : FusesGrow service.fuse service.fuse ∧ ∃ t, step service = .next t := 
  ⟨⟨rfl, rfl, rfl, rfl, Nat.le_refl _, id, fun _ _ h => h⟩, _, rfl⟩

/-- R355: nothing waits after reset. -/
theorem test_reset_queue : State.reset.pending = [] := rfl

/-- The table gives no row bits, so no word spells a command. -/
theorem test_no_word_spells_a_command : decodeTableWord 32 0 = none := rfl

/-- The published check value of CRC-32C (log entry 12). -/
theorem test_crc_check_value : crc32c ((List.range 9).map fun i => BitVec.ofNat 8 (0x31 + i)) = 0xE3069283 := by decide +kernel

/-- FIPS 197, appendix C.3: AES-256 of 00112233…EEFF under the key 000102…1F (log entry 50). -/
theorem test_aes_vector :
    aesBlock (aesKeys ((List.range 32).map (BitVec.ofNat 8))) ((List.range 16).map fun i => BitVec.ofNat 8 (17 * i)) =
      [0x8E, 0xA2, 0xB7, 0xCA, 0x51, 0x67, 0x45, 0xBF, 0xEA, 0xFC, 0x49, 0x90, 0x4B, 0x49, 0x60, 0x89] := by decide +kernel

/-- FIPS 180-4: the SHA-384 digest of "abc" begins CB 00 75 3F and ends C8 25 A7 (log entry 50). -/
theorem test_sha_vector : ((sha384 [0x61, 0x62, 0x63]).take 4, (sha384 [0x61, 0x62, 0x63]).drop 45) =
    (([0xCB, 0x00, 0x75, 0x3F], [0xC8, 0x25, 0xA7]) : List Byte × List Byte) := by decide +kernel

/-- Table 12-4: SEM_3, owned by port A, reads FREE 0 and OWNER 0b01 to port B; freed by port A's expiry it reads FREE 1 and
LOST 1, and then belongs to port B. -/
theorem test_sem3 :
    let s := halter.modSem 3 fun _ => { free := false, owner := some 0, takes := 5, lost := false }
    let u := halter.modSem 3 fun _ => { free := true, owner := none, takes := 5, lost := true }
    semWord s.hosts.sem[(3 : Fin 64)] / 2 ^ 31 = 0 ∧ semWord s.hosts.sem[(3 : Fin 64)] / 2 ^ 26 % 4 = 1 ∧
    semWord u.hosts.sem[(3 : Fin 64)] / 2 ^ 31 = 1 := by decide +kernel

/-- The same by a read of port B in SERVICE: port B owns it, TAKES counts one more, LOST clears. -/
theorem test_sem3_taken :
    let s := service.modSem 3 fun _ => { free := true, owner := none, takes := 5, lost := true }
    (semRead s 1 3).hosts.sem[(3 : Fin 64)].owner = some 1 ∧ (semRead s 1 3).hosts.sem[(3 : Fin 64)].takes = 6 ∧
    (semRead s 1 3).hosts.sem[(3 : Fin 64)].lost = false := by decide +kernel

/-- SADD: 0xFFFFFFFF + 1 wraps to 0 (R148). -/
theorem test_sadd_wraps :
    let w := word 0x02 1 2 3 0
    (match exec (.sadd 0) (castAt (sSet (sSet (sSet (caster w) 1 7) 2 0xFFFFFFFF) 3 1)) with
     | .next t => sGet t.cast[(0 : Fin 256)] 1 == 0
     | _ => false) = true := by decide +kernel

/-- An empty queue: one cycle of REFCLK_SYS passes, 40 ns (log entry 2). -/
theorem test_idle_tick :
    (match step service with
     | .next t => t.dev.yard == 40
     | _ => false) = true := by decide +kernel

/-- A command taken from the front of the queue leaves the rest waiting. -/
theorem test_step_takes_front :
    (match step { service with pending := [.echo { params := [1, 2] }, .pinEdge 0 true] } with
     | .next t => t.pending == [.pinEdge 0 true]
     | _ => false) = true := by decide +kernel

end Sys2Proof.Tests
end

section
/-! PROOFS. The 1-of-4 code of numbers: the rails of a number are, digit by digit, those of its base-4 digits (R19). -/

namespace Sys2Proof.Proofs

open Sys2Proof Machine

/-- The rails of the `n` lowest base-4 digits of `v`, four to a digit. -/
def codeSum (v : Nat) : Nat → Nat
  | 0 => 0
  | n + 1 => codeSum v n + 2 ^ (4 * n + v / 4 ^ n % 4)

theorem railsOf_eq_codeSum (v : Nat) : railsOf v = BitVec.ofNat 16 (codeSum v 4) := rfl

/-- The code of `m + n` digits: the lower `m`, and above them the other `n`. -/
theorem codeSum_add (v m n : Nat) : codeSum v (m + n) = codeSum v m + 16 ^ m * codeSum (v / 4 ^ m) n := by
  induction n with
  | zero => rfl
  | succ n ih =>
    have hd : v / 4 ^ m / 4 ^ n = v / 4 ^ (m + n) := by rw [Nat.div_div_eq_div_mul, ← Nat.pow_add]
    have hp : 2 ^ (4 * (m + n) + v / 4 ^ (m + n) % 4) = 16 ^ m * 2 ^ (4 * n + v / 4 ^ (m + n) % 4) := by
      rw [show 16 = 2 ^ 4 from rfl, ← Nat.pow_mul, ← Nat.pow_add, Nat.mul_add, Nat.add_assoc]
    rw [← Nat.add_assoc, codeSum, codeSum, ih, hd, hp, Nat.mul_add, Nat.add_assoc]

/-- The rails of one digit. -/
theorem codeSum_one (v : Nat) : codeSum v 1 = 2 ^ (v % 4) := by simp [codeSum]

theorem two_pow_digit_lt (v : Nat) : 2 ^ (v % 4) < 16 :=
  Nat.pow_lt_pow_right (n := 4) (by decide) (Nat.mod_lt _ (by decide))

theorem codeSum_lt (v n : Nat) : codeSum v n < 16 ^ n := by
  induction n with
  | zero => exact Nat.one_pos
  | succ n ih =>
    have hd : codeSum (v / 4 ^ n) 1 < 16 := codeSum_one _ ▸ two_pow_digit_lt _
    have hmul : 16 ^ n * codeSum (v / 4 ^ n) 1 ≤ 16 ^ n * 15 := Nat.mul_le_mul_left _ (Nat.le_of_lt_succ hd)
    rw [codeSum_add, Nat.pow_succ]
    omega

/-- The digit at place `d` of a code. -/
theorem codeSum_digit {v d n : Nat} (h : d < n) : codeSum v n / 16 ^ d % 16 = 2 ^ (v / 4 ^ d % 4) := by
  obtain ⟨r, rfl⟩ : ∃ r, n = d + (1 + r) := ⟨n - d - 1, by omega⟩
  rw [codeSum_add, Nat.add_mul_div_left _ _ (Nat.pow_pos (by decide)), Nat.div_eq_of_lt (codeSum_lt _ _), Nat.zero_add, codeSum_add,
    Nat.pow_one, Nat.add_mul_mod_self_left, codeSum_one, Nat.mod_eq_of_lt (two_pow_digit_lt _)]

/-- A code reads its own digits only. -/
theorem codeSum_mod (v n : Nat) : codeSum (v % 4 ^ n) n = codeSum v n := by
  have low : ∀ m ≤ n, codeSum (v % 4 ^ n) m = codeSum v m := by
    intro m
    induction m with
    | zero => exact fun _ => rfl
    | succ m ih => intro h; rw [codeSum, codeSum, ih (by omega), Laws.place_mod (by omega)]
  exact low n (Nat.le_refl n)

theorem digitVal_two_pow (v : Nat) : digitVal (2 ^ (v % 4)) = some (v % 4) := by
  have digits : ∀ d, d < 4 → digitVal (2 ^ d) = some d := by decide
  exact digits _ (Nat.mod_lt _ (by decide))

/-- The digits of a number's token are the number's base-4 digits (R19). -/
theorem operand_railsOf (v : Nat) {d : Nat} (h : d < 4) : operand (railsOf v) d = v / 4 ^ d % 4 := by
  have hr : digitRails (railsOf v) d = 2 ^ (v / 4 ^ d % 4) := by
    rw [digitRails, fld, railsOf_eq_codeSum, BitVec.toNat_ofNat,
      Nat.mod_eq_of_lt (b := 2 ^ 16) (codeSum_lt v 4), Nat.pow_mul]
    exact codeSum_digit h
  rw [operand, hr, digitVal_two_pow]
  rfl

end Sys2Proof.Proofs
end

section
/-! PROOFS. The digit adder (R36): eight macrocells with `CARRY` set add two numbers of eight base-4 digits. -/

namespace Sys2Proof.Proofs

open Sys2Proof Machine

/-- The carry into place `m` when `x` and `y` are added with the carry in `cin`. -/
def carryInto (x y cin m : Nat) : Nat := (x % 4 ^ m + y % 4 ^ m + cin) / 4 ^ m

@[simp] theorem carryInto_zero (x y cin : Nat) : carryInto x y cin 0 = cin := by simp [carryInto, Nat.mod_one]

/-- What leaves a place goes into the next. -/
theorem carryInto_succ (x y cin m : Nat) :
    carryInto x y cin (m + 1) = (x / 4 ^ m % 4 + y / 4 ^ m % 4 + carryInto x y cin m) / 4 := by
  have hp : 0 < 4 ^ m := Nat.pow_pos (by decide)
  have hsum : x % 4 ^ m + 4 ^ m * (x / 4 ^ m % 4) + (y % 4 ^ m + 4 ^ m * (y / 4 ^ m % 4)) + cin =
      x % 4 ^ m + y % 4 ^ m + cin + 4 ^ m * (x / 4 ^ m % 4 + y / 4 ^ m % 4) := by
    rw [Nat.mul_add]
    omega
  rw [carryInto, carryInto, Nat.pow_succ, Nat.mod_mul, Nat.mod_mul, ← Nat.div_div_eq_div_mul, hsum,
    Nat.add_mul_div_left _ _ hp, Nat.add_comm]

/-- Each digit of the sum is that of its place's digits and the carry into it. -/
theorem sum_digit (x y cin m : Nat) :
    (x / 4 ^ m % 4 + y / 4 ^ m % 4 + carryInto x y cin m) % 4 = (x + y + cin) / 4 ^ m % 4 := by
  have hp : 0 < 4 ^ m := Nat.pow_pos (by decide)
  have hs : x + y + cin = x % 4 ^ m + y % 4 ^ m + cin + 4 ^ m * (x / 4 ^ m + y / 4 ^ m) := by
    have hx := Nat.mod_add_div x (4 ^ m)
    have hy := Nat.mod_add_div y (4 ^ m)
    rw [Nat.mul_add]
    omega
  rw [hs, Nat.add_mul_div_left _ _ hp, carryInto]
  omega

/-- The carry out of the last place is what the sum has above it. -/
theorem carryInto_last {x y n : Nat} (cin : Nat) (hx : x < 4 ^ n) (hy : y < 4 ^ n) :
    carryInto x y cin n = (x + y + cin) / 4 ^ n := by
  rw [carryInto, Nat.mod_eq_of_lt hx, Nat.mod_eq_of_lt hy]

section

variable {s : State} {k n x y : Nat} {r : Fin 4 → BitVec 16}

/-- Every macrocell of the stall is a plain adder of two port digits. -/
def PlainAdder (s : State) (k n : Nat) : Prop :=
  ∀ m, m < 8 → mcCarry s k n m = true ∧ mcHeld s k n m = false ∧ mcOpbInv s k n m = false

/-- Ports A and C carry the digits of `x`, ports B and D those of `y` (R36). -/
def PortsCarry (r : Fin 4 → BitVec 16) (x y : Nat) : Prop :=
  ∀ m, m < 8 →
    let ports := if m < 4 then (r 0, r 1) else (r 2, r 3)
    operand ports.1 (m % 4) = x / 4 ^ m % 4 ∧ operand ports.2 (m % 4) = y / 4 ^ m % 4

/-- One macrocell of the adder: it raises its digit of the sum and hands on the carry. -/
theorem evalFrom_adds (hs : PlainAdder s k n) (hr : PortsCarry r x y) {terms held cin left m c : Nat} (hm : m < 8) {e : Eval}
    (hc : (if m = 0 then cin else c) = carryInto x y cin m) :
    evalFrom s k n r terms held cin (left + 1) m c e =
      evalFrom s k n r terms held cin left (m + 1) (carryInto x y cin (m + 1))
        ⟨e.rails + 2 ^ (4 * m + (x + y + cin) / 4 ^ m % 4), carryInto x y cin (m + 1)⟩ := by
  obtain ⟨hcar, hheld, hinv⟩ := hs m hm
  obtain ⟨ha, hb⟩ := hr m hm
  rw [carryInto_succ, ← sum_digit, evalFrom]
  simp [hcar, hheld, hinv, ha, hb, hc]

/-- The macrocells from `m` upward, with the sum's lower digits raised already. -/
theorem evalFrom_adder (hs : PlainAdder s k n) (hr : PortsCarry r x y) {terms held cin : Nat} (left m : Nat) (hm : m + left ≤ 8)
    {c c' : Nat} (hc : (if m = 0 then cin else c) = carryInto x y cin m) :
    evalFrom s k n r terms held cin left m c ⟨codeSum (x + y + cin) m, c'⟩ =
      ⟨codeSum (x + y + cin) (m + left), if left = 0 then c' else carryInto x y cin (m + left)⟩ := by
  induction left generalizing m c c' with
  | zero => rfl
  | succ left ih =>
    rw [evalFrom_adds hs hr (by omega) hc]
    refine (ih (m + 1) (by omega) (by simp)).trans ?_
    rw [show m + 1 + left = m + (left + 1) by omega]
    by_cases h : left = 0 <;> simp [h]

/-- Eight such macrocells add. -/
theorem evalStall_adds (hs : PlainAdder s k n) (hr : PortsCarry r x y) (held cin : Nat) :
    evalStall s k n r held cin = ⟨codeSum (x + y + cin) 8, carryInto x y cin 8⟩ :=
  evalFrom_adder hs hr 8 0 (Nat.le_refl 8) (by simp)

end

/-- Output X of a coded number is the token of its low byte, output Y that of the next (R26). -/
theorem evalOut_codeSum (v c : Nat) :
    evalOut ⟨codeSum v 8, c⟩ 0 = railsOf (v % 256) ∧ evalOut ⟨codeSum v 8, c⟩ 1 = railsOf (v / 256 % 256) := by
  have split : codeSum v 8 = codeSum v 4 + 65536 * codeSum (v / 256) 4 := codeSum_add v 4 4
  have low : codeSum v 4 < 65536 := codeSum_lt v 4
  have hx : codeSum (v % 256) 4 = codeSum v 4 := codeSum_mod v 4
  have hy : codeSum (v / 256 % 256) 4 = codeSum (v / 256) 4 := codeSum_mod (v / 256) 4
  simp only [evalOut, railsOf_eq_codeSum, hx, hy, split]
  constructor
  · apply BitVec.eq_of_toNat_eq
    simp
  · rw [Nat.pow_one, Nat.add_mul_div_left _ _ (by decide), Nat.div_eq_of_lt low, Nat.zero_add]

/-- Tokens on the four ports, as the digits of the two numbers that they make. -/
theorem portsCarry_tokens {r : Fin 4 → BitVec 16} {a b c d : Nat} (ha : a < 256) (hb : b < 256) (h0 : r 0 = railsOf a)
    (h1 : r 1 = railsOf b) (h2 : r 2 = railsOf c) (h3 : r 3 = railsOf d) : PortsCarry r (a + 256 * c) (b + 256 * d) := by
  have digit : ∀ u w m, u < 256 → m < 8 →
      (if m < 4 then operand (railsOf u) (m % 4) else operand (railsOf w) (m % 4)) = (u + 256 * w) / 4 ^ m % 4 := by
    intro u w m hu hm
    rw [operand_railsOf _ (Nat.mod_lt _ (by decide)), operand_railsOf _ (Nat.mod_lt _ (by decide))]
    split
    · next h =>
      have : (u + 256 * w) % 4 ^ 4 = u := by omega
      rw [Nat.mod_eq_of_lt h, ← Laws.place_mod (x := u + 256 * w) h, this]
    · next h =>
      obtain ⟨i, rfl⟩ : ∃ i, m = 4 + i := ⟨m - 4, by omega⟩
      have : (u + 256 * w) / 4 ^ 4 = w := by omega
      rw [Nat.pow_add, ← Nat.div_div_eq_div_mul, this, Nat.add_mod_left, Nat.mod_eq_of_lt (by omega : i < 4)]
  intro m hm
  rw [← digit a c m ha hm, ← digit b d m hb hm, h0, h1, h2, h3]
  split <;> exact ⟨rfl, rfl⟩

/-- Settles O15: macrocell by macrocell, the rails raised are the code of the sum's digits, and the carry is the sum's. -/
theorem adderIsExact : Obligations.AdderIsExact := by
  unfold Obligations.AdderIsExact
  intro s k n a b c d cin held ha hb hc hd _ hs rails e sum
  have he : e = ⟨codeSum sum 8, carryInto (a + 256 * c) (b + 256 * d) cin 8⟩ :=
    evalStall_adds hs (portsCarry_tokens ha hb rfl rfl rfl rfl) held cin
  obtain ⟨hx, hy⟩ := evalOut_codeSum sum (carryInto (a + 256 * c) (b + 256 * d) cin 8)
  rw [he]
  exact ⟨hx, hy, carryInto_last (n := 8) cin (by omega) (by omega)⟩

end Sys2Proof.Proofs
end

section
/-! PROOFS. The moves of the fabric leave the USER trees alone: whatever a token sets going, the levels of the trees and their
sources stay as they stand (R80). -/

namespace Sys2Proof.Proofs

open Sys2Proof Machine Laws

/-- What every step of a fold keeps, the fold keeps. -/
theorem foldl_keeps {σ α γ : Type} (g : σ → γ) {f : σ → α → σ} (h : ∀ a x, g (f a x) = g a) (l : List α) (a : σ) :
    g (l.foldl f a) = g a :=
  List.foldlRecOn l f (motive := fun b => g b = g a) rfl fun b hb x _ => (h b x).trans hb

/-! ### Events and errors -/

theorem raiseAt_replies (s : State) (p : Fin 2) (n : Nat) : RepliesOnly s (raiseAt s p n) := by
  unfold raiseAt
  simp only
  split
  · refine .trans ?_ (sendMsix_replies _ p _)
    rfl
  · rfl

theorem raiseEvent_replies (s : State) (n : Nat) : RepliesOnly s (raiseEvent s n) :=
  .trans (raiseAt_replies s 0 n) (.trans (raiseAt_replies _ 1 n) (musterOnEvent_replies _ n))

@[simp] theorem raiseEvent_pins (s : State) (n : Nat) : (raiseEvent s n).pins = s.pins := by
  rw [raiseEvent_replies s n]
  rfl

@[simp] theorem pdkCount_pins (s : State) (k : Fin 64) : (pdkCount s k).pins = s.pins := raiseEvent_pins _ _

/-! ### Presenting and acknowledging -/

@[simp] theorem present_pins (s : State) (x : Src) (r : BitVec 16) : (present s x r).pins = s.pins := rfl

@[simp] theorem lowerAck_pins (s : State) (l : Leaf) (x : Src) : (lowerAck s l x).1.pins = s.pins := by
  unfold lowerAck
  simp only
  split <;> rfl

@[simp] theorem lowerAcks_pins (s : State) (x : Src) : (lowerAcks s x).1.pins = s.pins :=
  foldl_keeps (fun a : State × List Src => a.1.pins)
    (fun _ _ => foldl_keeps (fun a : State × List Src => a.1.pins) (fun _ _ => lowerAck_pins _ _ _) _ _) _ _

@[simp] theorem ackOne_pins (s : State) (l : Leaf) (x : Src) : (ackOne s l x).1.pins = s.pins := by
  have fold : ∀ (ls : List Leaf) (a : State × Bool),
      (ls.foldl (fun a l => ((lowerAck a.1 l x).1, a.2 || (lowerAck a.1 l x).2)) a).1.pins = a.1.pins :=
    foldl_keeps (fun a : State × Bool => a.1.pins) fun _ _ => lowerAck_pins _ _ _
  simp only [ackOne]
  split
  · rfl
  · simp [apply_ite Prod.fst, apply_ite State.pins, fold]

@[simp] theorem ackLeaf_pins (s : State) (l : Leaf) : (ackLeaf s l).1.pins = s.pins :=
  foldl_keeps (fun a : State × List Src => a.1.pins) (fun _ _ => by simp) _ _

/-! ### What a freed source does -/

@[simp] theorem newRoutes_pins (s : State) : (newRoutes s).pins = s.pins := by
  unfold newRoutes
  split <;> rfl

@[simp] theorem paceCount_pins (s : State) (x : Src) : (paceCount s x).pins = s.pins := by
  unfold paceCount
  split <;> rfl

@[simp] theorem arrayRead_pins (s : State) (k b w : Nat) : (arrayRead s k b w).1.pins = s.pins := by
  unfold arrayRead
  simp only
  split <;> simp

@[simp] theorem binRead_pins (s : State) (k b a len : Nat) : (binRead s k b a len).1.pins = s.pins := arrayRead_pins _ _ _ _

@[simp] theorem presentWord_pins (s : State) (k b p : Nat) (w : Option (List Byte)) :
    (presentWord s k b p w).1.pins = s.pins :=
  foldl_keeps State.pins (fun _ _ => present_pins _ _ _) _ _

@[simp] theorem headerPresent_pins (s : State) (k b : Nat) : (headerPresent s k b).1.pins = s.pins := by
  unfold headerPresent
  simp only
  repeat' split
  all_goals simp

@[simp] theorem wordPresent_pins (s : State) (k b : Nat) : (wordPresent s k b).1.pins = s.pins := by
  unfold wordPresent
  simp only
  repeat' split
  all_goals simp

@[simp] theorem itemFinish_pins (s : State) (k b : Nat) : (itemFinish s k b).pins = s.pins := by
  unfold itemFinish
  simp only
  repeat' split
  all_goals simp

@[simp] theorem binRefill_pins (s : State) (k b p : Nat) : (binRefill s k b p).1.pins = s.pins := by
  unfold binRefill
  split
  · simp only [itemFinish_pins]
    split <;> simp
  · rfl

@[simp] theorem tapPresent_pins (s : State) (k row : Nat) : (tapPresent s k row).1.pins = s.pins := by
  -- Which tokens an event has does not matter: under a name of its own the kernel does not compute them.
  obtain ⟨tokens, htokens⟩ : ∃ f, f = tapTokens := ⟨_, rfl⟩
  rw [tapPresent, ← htokens]
  simp only
  split
  · rfl
  · split
    · rfl
    · split <;> rfl

@[simp] theorem adapterPresent_pins (s : State) (l j : Nat) : (adapterPresent s l j).1.pins = s.pins := by
  unfold adapterPresent
  simp only
  repeat' split
  all_goals simp

@[simp] theorem delPresent_pins (s : State) (n j : Nat) : (delPresent s n j).1.pins = s.pins := by
  unfold delPresent
  simp only
  repeat' split
  all_goals simp

@[simp] theorem modGpio_trees (s : State) (n : Fin 96) (f : Gpio → Gpio) : (s.modGpio n f).pins.trees = s.pins.trees := rfl

@[simp] theorem pinPresent_trees (s : State) (g : Nat) : (pinPresent s g).1.pins.trees = s.pins.trees := by
  unfold pinPresent
  simp only
  repeat' split
  all_goals simp

@[simp] theorem gateTake_pins (s : State) (e : End) : (gateTake s e).1.pins = s.pins := by
  unfold gateTake
  simp only
  generalize (if isCrossing e then farKey e else srcKey (.gate e)) = near
  split <;> simp

@[simp] theorem crossTake_pins (s : State) (e : End) : (crossTake s e).1.pins = s.pins := by
  unfold crossTake
  simp only
  split <;> simp

@[simp] theorem refill_trees (s : State) (x : Src) : (refill s x).1.pins.trees = s.pins.trees := by
  cases x <;> simp [refill]

/-! ### What takes a token by itself -/

@[simp] theorem pendEdge_trees (s : State) (g : Fin 96) (level : Bool) : (pendEdge s g level).pins.trees = s.pins.trees := rfl

@[simp] theorem emitPad_pins (s : State) (o : Out) : (s.emitPad o).pins = s.pins := by
  unfold State.emitPad
  split <;> simp

@[simp] theorem pinTakes_trees (s : State) (g : Nat) (r : BitVec 16) : (pinTakes s g r).1.pins.trees = s.pins.trees := by
  unfold pinTakes
  simp only
  repeat' split
  all_goals simp

@[simp] theorem opTakes_pins (s : State) (n j : Nat) (r : BitVec 16) : (opTakes s n j r).1.pins = s.pins := by
  unfold opTakes
  simp only
  repeat' split
  all_goals simp

@[simp] theorem tickEvent_trees (s : State) (n : Nat) : (tickEvent s n).pins.trees = s.pins.trees := by
  unfold tickEvent
  split <;> rfl

@[simp] theorem musterEvent_trees (s : State) (d : Nat) : (musterEvent s d).pins.trees = s.pins.trees := by
  unfold musterEvent
  split <;> rfl

theorem eventTake_trees (s : State) (l : Leaf) (k : Nat) {f : State → State} (h : (f s).pins.trees = s.pins.trees) :
    (eventTake s l k f).1.pins.trees = s.pins.trees := by
  unfold eventTake
  split
  · simp only [ackLeaf_pins]
    split
    · exact h
    · rfl
  · rfl

@[simp] theorem autoTake_trees (s : State) (l : Leaf) : (autoTake s l).1.pins.trees = s.pins.trees := by
  cases l with
  | gate e => simp [autoTake]
  | op n j =>
    simp only [autoTake]
    split <;> simp
  | pin g =>
    simp only [autoTake]
    split <;> simp
  | tick n => exact eventTake_trees s _ _ (tickEvent_trees s n)
  | muster d => exact eventTake_trees s _ _ (musterEvent_trees s d)
  | _ => rfl

/-! ### The moves together -/

@[simp] theorem autoTakes_trees (s : State) (ls : List Leaf) : (autoTakes s ls).1.pins.trees = s.pins.trees :=
  foldl_keeps (fun a : State × List Move => a.1.pins.trees) (fun _ _ => by simp) _ _

@[simp] theorem pump_trees (fuel : Nat) (l : List Move) (s : State) : (pump fuel l s).pins.trees = s.pins.trees := by
  induction fuel generalizing l s with
  | zero => rfl
  | succ fuel ih =>
    match l with
    | [] => rfl
    | .shown x :: r => rw [pump, ih, autoTakes_trees]
    | .freed x :: r => rw [pump, ih, refill_trees]

@[simp] theorem settle_trees (s : State) (l : List Move) : (settle s l).pins.trees = s.pins.trees := pump_trees _ _ _

@[simp] theorem settleShown_trees (r : State × List Src) : (settleShown r).pins.trees = r.1.pins.trees := settle_trees _ _

@[simp] theorem padEdges_trees (old s : State) : (padEdges old s).pins.trees = s.pins.trees :=
  foldl_keeps (fun t : State => t.pins.trees) (fun _ _ => by simp) _ _

@[simp] theorem treeEvent_pins (s : State) (src : Nat) (e : TapEv) : (treeEvent s src e).pins = s.pins := by
  unfold treeEvent
  simp only
  split <;> rfl

end Sys2Proof.Proofs
end

section
/-! PROOFS. The firing of a stall (R25 to R28, R42, R46): the cases of `execFiring`, and what a firing outside a carry chain
leaves. -/

namespace Sys2Proof.Proofs

open Sys2Proof Machine

/-- What the stall evaluates when it fires with grant `g`. -/
def fireEval (s : State) (k n g : Nat) : Eval :=
  evalStall s k n (fireRails s k n g) (stallSt s k n).held.toNat ((carryIn s k n).getD 0)

/-- The first used output that evaluates to a code violation (R26). -/
def firstViolation (s : State) (k n : Nat) (e : Eval) : Option Nat :=
  (List.range 2).find? fun o => usedOut s k n o && outcomeOf (evalOut e o) == .violation

theorem firstViolation_eq_none {s : State} {k n : Nat} {e : Eval}
    (h : ∀ o, o < 2 → usedOut s k n o = true → outcomeOf (evalOut e o) ≠ .violation) : firstViolation s k n e = none := by
  simpa [firstViolation] using h

theorem firstViolation_eq_some {s : State} {k n o : Nat} {e : Eval} (ho : o < 2) (hu : usedOut s k n o = true)
    (hv : outcomeOf (evalOut e o) = .violation)
    (hfirst : o = 1 → usedOut s k n 0 = true → outcomeOf (evalOut e 0) ≠ .violation) : firstViolation s k n e = some o := by
  rw [firstViolation, List.find?_range_eq_some]
  refine ⟨by simp [hu, hv], List.mem_range.mpr ho, fun j hj => ?_⟩
  obtain ⟨rfl, rfl⟩ : o = 1 ∧ j = 0 := by omega
  by_cases h0 : usedOut s k n 0 = true <;> simp [h0, hfirst rfl]

section

variable {s : State} {k : Fin 64} {n : Fin 2048} {g : BitVec 3}

/-- A bad token on a port is a stall fault of that port (R21). -/
theorem execFiring_badPort (hrun : running s k = true) (hheld : (stallSt s k n).fault = false) {p : Nat} {r : BitVec 16}
    (hbad : badPort s k n = some (p, r)) : execFiring k n g s = .next (stallFault s k n (faultKind r) p) := by
  simp [execFiring, hrun, hheld, hbad]

section

variable (hrun : running s k = true) (hheld : (stallSt s k n).fault = false) (hgood : badPort s k n = none)
  (hfires : fires s k n g.toNat = true)

include hrun hheld hgood hfires

/-- A stall whose fire conditions hold faults on the first output that violates, and fires where none does (R26). -/
theorem execFiring_of_fires :
    execFiring k n g s = .next ((firstViolation s k n (fireEval s k n g.toNat)).elim
      (fireStall s k n g.toNat (fireEval s k n g.toNat)) fun o => stallFault s k n 1 (4 + o)) := by
  -- Under names of their own the kernel computes neither the outputs in use nor the evaluation.
  obtain ⟨used, hused⟩ : ∃ f, f = usedOut := ⟨_, rfl⟩
  obtain ⟨eval, heval⟩ : ∃ f, f = evalStall := ⟨_, rfl⟩
  rw [execFiring, firstViolation, fireEval, ← hused, ← heval, hrun, hheld, hgood, hfires]
  simp only [Bool.not_true, Bool.false_eq_true, if_false, Bool.or_self]
  split
  · next h => simp only [h, Option.elim]
  · next h => simp only [h, Option.elim]

theorem execFiring_violation {o : Nat} (ho : firstViolation s k n (fireEval s k n g.toNat) = some o) :
    execFiring k n g s = .next (stallFault s k n 1 (4 + o)) := by
  rw [execFiring_of_fires hrun hheld hgood hfires, ho, Option.elim]

theorem execFiring_fireStall (ho : firstViolation s k n (fireEval s k n g.toNat) = none) :
    execFiring k n g s = .next (fireStall s k n g.toNat (fireEval s k n g.toNat)) := by
  rw [execFiring_of_fires hrun hheld hgood hfires, ho, Option.elim]

end

end

/-- What a stall holds does not configure it. -/
@[simp] theorem chainOut_modStall (s : State) (k n m : Nat) (f : StallSt → StallSt) :
    chainOut (s.modStall k m f) k n = chainOut s k n := rfl

/-- A change of a stall is what it makes of the stall as it stands. -/
theorem modStall_congr {s : State} {k n : Nat} {f f' : StallSt → StallSt} (h : f (stallSt s k n) = f' (stallSt s k n)) :
    s.modStall k n f = s.modStall k n f' := by
  simp only [stallSt] at h
  simp only [State.modStall, tmod, h]

section

variable (s : State) (k n g : Nat) (e : Eval)

/-- The outputs that a firing presents (R26). -/
def emitting : List Nat := (List.range 2).filter fun o => usedOut s k n o && outcomeOf (evalOut e o) == .emits

/-- The ports that a firing acknowledges (R27). -/
def acknowledged : List Nat := (fireSet s k n g).filter fun p => consumes s k n p e

/-- The stall once it has fired: its arbiter's memory and its held digits (R30, R42, R43). -/
def firedStall (x : StallSt) : StallSt :=
  { x with passed := if g < 4 then afterGrant s k n g x.passed else x.passed, blocked := none,
           grant := if g < 4 ∧ acknowledged s k n g e ≠ [] ∧ g ∉ acknowledged s k n g e then some (Fin.ofNat 4 g) else none,
           held := takeHeld x.held e (heldMcs s k n e) }

/-- The state with the stall fired and its outputs' tokens presented. -/
def firedOuts : State :=
  (emitting s k n e).foldl (fun t o => present t (.out k n o) (evalOut e o)) (s.modStall k n (firedStall s k n g e))

/-- The ports' acknowledges, and the moves that they set going. -/
def firedAcks : State × List Move :=
  (acknowledged s k n g e).foldl (fun (a : State × List Move) p =>
    ((ackLeaf a.1 (.port k n p)).1, a.2 ++ (ackLeaf a.1 (.port k n p)).2.map Move.freed)) (firedOuts s k n g e, [])

/-- Outside a carry chain the grant holds on while the firing acknowledges something but not the granted port (R42). -/
theorem grantAfter_acks (acks : List Nat) : grantAfter g acks (!acks.isEmpty) =
    if g < 4 ∧ acks ≠ [] ∧ g ∉ acks then some (Fin.ofNat 4 g) else none := by
  simp [grantAfter]

/-- A firing outside a carry chain that emits or acknowledges something (R26 to R30). -/
theorem fireStall_unchained (hout : chainOut s k n = false) (hin : cinSel s k n ≠ 2)
    (hacts : emitting s k n e ≠ [] ∨ acknowledged s k n g e ≠ []) :
    fireStall s k n g e = settle (firedAcks s k n g e).1
      ((emitting s k n e).map (fun o => Move.shown (.out k n o)) ++ (firedAcks s k n g e).2) := by
  have hchain : (cinSel s k n == 2) = false := by simpa using hin
  have hsome : ((emitting s k n e).isEmpty && (acknowledged s k n g e).isEmpty) = false := by
    rcases hacts with h | h <;> simp [h]
  have hfired : s.modStall k n (firedStall s k n g e) = s.modStall k n fun x =>
      { x with passed := if g < 4 then afterGrant s k n g (stallSt s k n).passed else (stallSt s k n).passed, blocked := none,
               grant := grantAfter g (acknowledged s k n g e) (!(acknowledged s k n g e).isEmpty),
               held := takeHeld x.held e (heldMcs s k n e) } :=
    modStall_congr (by rw [grantAfter_acks]; rfl)
  rw [firedAcks, firedOuts, hfired]
  obtain ⟨outs, houts⟩ : ∃ l, l = emitting s k n e := ⟨_, rfl⟩
  obtain ⟨acks, hacks⟩ : ∃ l, l = acknowledged s k n g e := ⟨_, rfl⟩
  rw [← houts, ← hacks] at hsome ⊢
  rw [emitting] at houts
  rw [acknowledged] at hacks
  rw [fireStall, ← houts, ← hacks, hout, hchain]
  simp only [hsome, Bool.false_and, Bool.false_eq_true, if_false, Bool.or_false, chainOut_modStall, hout]

end

/-- Settles O16: by the cases of `execFiring`; a used output that violates is the first one unless X violates too. -/
theorem stallFires : Obligations.StallFires := by
  unfold Obligations.StallFires
  intro k n g s hrun hheld e outs acks s1 s2 s3
  refine ⟨fun hgood hfires hout hin hviol hacts => ?_, fun p r hbad => execFiring_badPort hrun hheld hbad,
    fun o hgood hfires ho hu hv hfirst =>
      execFiring_violation hrun hheld hgood hfires (firstViolation_eq_some ho hu hv hfirst)⟩
  have hs3 : firedAcks s k n g.toNat e = s3 := rfl
  exact (execFiring_fireStall hrun hheld hgood hfires (firstViolation_eq_none hviol)).trans
    (congrArg Host.Outcome.next (hs3 ▸ fireStall_unchained s k n g.toNat e hout hin hacts))

end Sys2Proof.Proofs
end

section
/-! PROOFS. Gangs (R38 to R40), gate cells (R69, R73), row taps (R81, R82) and the edges of USER trees (R80). -/

namespace Sys2Proof.Proofs

open Sys2Proof Machine

/-! ### Gangs -/

/-- A gang whose control token and the input that it selects are complete fires on that input (R39). -/
theorem execGangFiring_fires {s : State} {k : Fin 64} {n : Fin 2048} (hrun : running s k = true)
    (hheld : (stallSt s k n).fault = false) (hgang : gangOk s k n = true) (hgood : gangBad s k n = none)
    (hctl : complete (seen s (.port k n 3)) = true) {i : Nat}
    (hi : tokenOf (seen s (.port k n 3)) % 16 % (2 * (gangSize s k n + 1)) = i)
    (hin : complete (seen s (gangInput k n i)) = true) (hrow : (stallSt s k (n.val + 64 * (i / 2))).fault = false)
    (hidle : idleSrc s (.out k n 0) = true) : execGangFiring k n s = .next (fireGang s k n i) := by
  simp [execGangFiring, hrun, hheld, hgang, hgood, hctl, hi, hin, hrow, hidle]

/-- A gang's X with a fork lane passes the token on, and the control and the input are acknowledged (R39). -/
theorem fireGang_forked {s held : State} {k n i : Nat} {inp : BitVec 16} {a b : State × List Src}
    (hforks : forks s k n 0 ≠ []) (hinp : seen s (gangInput k n i) = inp)
    (hheld : (s.modStall k n fun x => { x with held := setFld x.held 0 8 (tokenOf inp) }) = held)
    (ha : ackLeaf (present held (.out k n 0) inp) (.port k n 3) = a) (hb : ackLeaf a.1 (gangInput k n i) = b) :
    fireGang s k n i = settle b.1 (Move.shown (.out k n 0) :: (a.2 ++ b.2).map Move.freed) := by
  have hsome : (forks s k n 0).isEmpty = false := by simpa using hforks
  subst hinp hheld ha hb
  simp only [fireGang, hsome]
  rfl

/-! ### Gate cells and row taps -/

/-- An isolating gate cell set to DRAIN takes and counts the token offered to it (R69, R73). -/
theorem execGateCellDiscard_drains {s : State} {k : Fin 64} {n : Fin 16384} {e : End}
    (hedge : ahead (n.val / 8 / 64) (n.val / 8 % 64) (n.val / 2 % 4) = 0)
    (hlane : borderOut k (n.val / 8 / 64) (n.val / 8 % 64) (n.val / 2 % 4) (n.val % 2) = .lane e)
    (hiso : gatePasses s e = false) (hdrain : outDrain s e = true) (htok : arrived (seen s (.gate e)) = true)
    (hcut : cutHeld s k = false) : execGateCellDiscard k n s = .next (take (drainCount s k 1) (.gate e)) := by
  simp [execGateCellDiscard, hedge, hlane, hiso, hdrain, htok, hcut]

/-- An event that reaches a tap past the paddock's WRITE release joins its queue, unless 15 are pending (R82). -/
theorem execRowTapEvent_arrives {s : State} {k : Fin 64} {row : Fin 32} {ev : TapEv} {rest : List TreeEv}
    (hev : takeTreeEvent s.fab.tree (tapNo k row) = some (ev, rest)) (hwrite : (pdkAt s k).relWrite = true) :
    let t := tget ({} : TapSt) s.fab.taps (tapNo k row)
    let s1 := { s with fab := { s.fab with tree := rest } }
    execRowTapEvent k row s = .next (if 15 ≤ tapPending s1 k row
      then s1.modPdk k fun d => { d with tapOverrun := true, tapCount := satAdd d.tapCount 1 }
      else settleShown (tapPresent
        { s1 with fab := { s1.fab with taps := tput {} s.fab.taps (tapNo k row) { t with q := t.q ++ [ev] } } } k row)) := by
  have hwrite' : (pdkAt { s with fab.tree := rest } k).relWrite = true := hwrite
  simp only [execRowTapEvent, hev, hwrite']
  rfl

/-! ### USER trees -/

/-- The tree follows its source from its first edge on (R80). -/
def following (s : State) (n : Fin 3) : State :=
  { s with pins.trees := vmod s.pins.trees n fun t => { t with stale := false } }

@[simp] theorem following_level (s : State) (n : Fin 3) :
    ((following s n).pins.trees[n]).level = (s.pins.trees[n]).level := by simp [following]

theorem execUserTreeEdge_moves {s : State} {n : Fin 3} {rise : Bool} (h : treeMayMove s n rise = true) :
    execUserTreeEdge n rise s = .next (if (s.pins.trees[n]).level = rise then following s n
      else treeEdge (following s n) n rise) := by
  have hlevel := following_level s n
  simp only [following] at hlevel
  simp [execUserTreeEdge, h, treeMove, following]

/-- An edge sets the tree's level, and nothing that its clocked outputs, pins and row taps do with it changes a tree after. -/
theorem treeEdge_trees (s : State) (n : Nat) (rise : Bool) :
    ∃ trees, (treeEdge s n rise).pins.trees = vmodN trees n fun x => { x with level := rise } := by
  unfold treeEdge
  extract_lets old sampled shown pins edged
  refine ⟨shown.pins.trees, ?_⟩
  have hpads : edged.pins.trees = vmodN shown.pins.trees n fun x => { x with level := rise } := padEdges_trees _ _
  split
  · rw [treeEvent_pins, hpads]
  · exact hpads

theorem treeEdge_level (s : State) (n : Fin 3) (rise : Bool) : ((treeEdge s n rise).pins.trees[n]).level = rise := by
  obtain ⟨trees, htrees⟩ := treeEdge_trees s n rise
  rw [htrees]
  simp [vmodN]

/-- Settles O17: by the rules of its four rows; a tree's level after an edge stands because no move changes a tree. -/
theorem fabricEvents : Obligations.FabricEvents := by
  unfold Obligations.FabricEvents
  intro s k
  refine ⟨?_, ?_, ?_, ?_⟩
  · intro n hrun hheld hgang ctl i inp hgood hctl hin hrow hforks hidle held a b
    exact (execGangFiring_fires hrun hheld hgang hgood hctl rfl hin hrow hidle).trans
      (congrArg Host.Outcome.next (fireGang_forked hforks rfl rfl rfl rfl))
  · intro n e hedge hlane hiso hdrain htok hcut
    exact execGateCellDiscard_drains hedge hlane hiso hdrain htok hcut
  · intro row ev rest hev hwrite t s1
    have h := execRowTapEvent_arrives hev hwrite
    exact ⟨fun hfits => h.trans (by rw [if_neg (Nat.not_le.mpr hfits)]), fun hfull => h.trans (by rw [if_pos hfull])⟩
  · intro n rise hmove s1
    have h := execUserTreeEdge_moves hmove
    refine ⟨fun hsame => h.trans (by rw [if_pos hsame]; rfl), fun hother => ?_⟩
    have hedge : exec (.userTreeEdge n rise) s = .next (treeEdge s1 n rise) := h.trans (by rw [if_neg hother]; rfl)
    refine ⟨hedge, fun t ht => ?_⟩
    obtain rfl : treeEdge s1 n rise = t := Host.Outcome.next.inj (hedge.symm.trans ht)
    exact treeEdge_level s1 n rise

end Sys2Proof.Proofs
end

section
/-! PROOFS. Parking and the limit of an isolation (R71, R382), and the user global reset (R79): the cases of their rows. -/

namespace Sys2Proof.Proofs

open Sys2Proof Machine

section

variable {s : State} {k : Fin 64}

/-! ### Parking -/

theorem execPark_parks {job : Nat} (hiso : s.pdk[k].isolating = some job) (hcut : cutHeld s k = false)
    (hempty : outBusy s k = false) : execPark k s = .next (parkPaddock s k false) := by
  have hsome : s.pdk[k].isolating.isNone = false := hiso ▸ rfl
  simp only [execPark, hsome, hcut, hempty, Bool.or_self, Bool.false_eq_true, if_false]

/-- The limit of an isolation parks the paddock, or waits for the release of the cut that holds it (R418). -/
theorem execIsolateLimitExpiry_isolating {job : Nat} (hiso : s.pdk[k].isolating = some job) :
    execIsolateLimitExpiry k s = .next (if cutHeld s k = true
      then { s with mus.deferred := s.mus.deferred ++ [(.limitExpired, k.val)] } else parkPaddock s k (outBusy s k)) := by
  have hsome : s.pdk[k].isolating.isNone = false := hiso ▸ rfl
  rw [execIsolateLimitExpiry, hsome, if_neg Bool.false_ne_true]

/-! ### The user global reset -/

/-- The fabric of the paddock with its user reset asserted: the levels that it gives to other paddocks fall too (R79, R110). -/
def resetFabric (s : State) (k : Fin 64) : State :=
  (departureLanes k).foldl (fun s e => fallLevel s (.gate e))
    (binsUserReset (stallReset (s.modPdk k fun d => { d with urst := true }) k) k)

theorem assertReset_live (hlive : s.pdk[k].state = .live) (hcut : cutHeld s k = false) :
    assertReset s k = padEdges s (resetFabric s k) := by
  rw [assertReset, if_neg (fun h => h hlive), hcut, if_neg Bool.false_ne_true, resetFabric]

theorem releaseReset_asserted (hurst : s.pdk[k].urst = true) (hcut : cutHeld s k = false) :
    releaseReset s k = padEdges s
      (wakeFabric (showOutputs (loadInitial (s.modPdk k fun d => { d with urst := false }) k) k) k) := by
  rw [releaseReset, hurst, Bool.not_true, if_neg Bool.false_ne_true, hcut, if_neg Bool.false_ne_true]

/-- Of a write of `PDK_CTL` bit 0 alone counts (Table 14-9). -/
theorem execUrst_set {v : BitVec 32} (hserved : served s = true) (hbit : v.getLsbD 0 = true) :
    execUrst k v s = .next (assertReset s k) := by
  rw [execUrst, regsOpen, if_pos hserved, pdkCtlWrite, if_pos hbit]

theorem execUrst_clear {v : BitVec 32} (hbit : v.getLsbD 0 = false) : execUrst k v s = .next s := by
  rw [execUrst, pdkCtlWrite, hbit, if_neg Bool.false_ne_true, ite_self]

end

/-- Settles O18: by the cases of its four rows. -/
theorem parkAndUserReset : Obligations.ParkAndUserReset := by
  unfold Obligations.ParkAndUserReset
  intro s k
  refine ⟨fun job hiso hcut hempty => execPark_parks hiso hcut hempty, fun job hiso hcut => ?_, fun job hiso hcut => ?_,
    fun v hserved hbit hlive hcut => ?_, fun v hbit => execUrst_clear hbit, fun hurst hcut => ?_⟩
  · exact (execIsolateLimitExpiry_isolating hiso).trans (by rw [if_neg (Bool.eq_false_iff.mp hcut)])
  · exact (execIsolateLimitExpiry_isolating hiso).trans (by rw [if_pos hcut])
  · exact (execUrst_set hserved hbit).trans (congrArg Host.Outcome.next (assertReset_live hlive hcut))
  · exact congrArg Host.Outcome.next (releaseReset_asserted hurst hcut)

end Sys2Proof.Proofs
end

section
/-! PROOFS. The order of a priority FIFO's items (R94), and which items a release, a release through a mark and a rewind
touch (R96). -/

namespace Sys2Proof.Proofs

open Sys2Proof Machine

/-! ### Selection -/

/-- The items that may be selected: readable and not read-held (R94). -/
def selectable (x : BinSt) : List PItem := x.items.filter fun i => i.taken == i.len && !i.held

theorem mem_selectable {x : BinSt} {i : PItem} : i ∈ selectable x ↔ i ∈ x.items ∧ i.taken = i.len ∧ i.held = false := by
  simp [selectable]

/-- Item `i` is selected no later than item `j`: its priority number is lower, or the same and it did not arrive later (R94). -/
def Precedes (i j : PItem) : Prop := i.prio < j.prio ∨ (i.prio = j.prio ∧ i.arrival ≤ j.arrival)

theorem Precedes.refl (i : PItem) : Precedes i i := .inr ⟨rfl, Nat.le_refl _⟩

theorem Precedes.trans {i j l : PItem} (hij : Precedes i j) (hjl : Precedes j l) : Precedes i l := by
  rw [Precedes, BitVec.lt_def, ← BitVec.toNat_inj] at hij hjl ⊢
  omega

/-- The selection goes on to item `i`: it stands where it comes before the item selected so far. -/
def earlier : Option PItem → PItem → Option PItem
  | none, i => some i
  | some j, i => if i.prio < j.prio ∨ (i.prio = j.prio ∧ i.arrival < j.arrival) then some i else some j

theorem nextItem_eq_foldl (x : BinSt) : nextItem x = (selectable x).foldl earlier none := by
  rw [nextItem, selectable]
  congr 1
  funext a i
  cases a <;> rfl

/-- Of two items the one that goes on precedes both. -/
theorem earlier_some (j i : PItem) : ∃ c, earlier (some j) i = some c ∧ (c = i ∨ c = j) ∧ Precedes c i ∧ Precedes c j := by
  by_cases h : i.prio < j.prio ∨ (i.prio = j.prio ∧ i.arrival < j.arrival)
  · exact ⟨i, if_pos h, .inl rfl, .refl i, h.imp_right fun hsame => ⟨hsame.1, Nat.le_of_lt hsame.2⟩⟩
  · refine ⟨j, if_neg h, .inr rfl, ?_, .refl j⟩
    rw [BitVec.lt_def, ← BitVec.toNat_inj] at h
    rw [Precedes, BitVec.lt_def, ← BitVec.toNat_inj]
    omega

/-- From item `j` on, the item selected is one of those met and precedes them all. -/
theorem foldl_earlier_some {l : List PItem} {j m : PItem} (h : l.foldl earlier (some j) = some m) :
    m ∈ j :: l ∧ ∀ i ∈ j :: l, Precedes m i := by
  induction l generalizing j with
  | nil =>
    obtain rfl : j = m := Option.some.inj h
    exact ⟨List.mem_cons_self, List.forall_mem_singleton.mpr (.refl j)⟩
  | cons i l ih =>
    obtain ⟨c, hc, hor, hci, hcj⟩ := earlier_some j i
    rw [List.foldl_cons, hc] at h
    obtain ⟨hmem, hle⟩ := ih h
    obtain ⟨hmc, hml⟩ := List.forall_mem_cons.mp hle
    refine ⟨?_, List.forall_mem_cons.mpr ⟨hmc.trans hcj, List.forall_mem_cons.mpr ⟨hmc.trans hci, hml⟩⟩⟩
    simp only [List.mem_cons] at hmem ⊢
    rcases hmem with rfl | hl
    · exact hor.elim (fun heq => .inr (.inl heq)) .inl
    · exact .inr (.inr hl)

/-- The next item is one that may be selected, and it precedes every other such item. -/
theorem nextItem_least {x : BinSt} {it : PItem} (h : nextItem x = some it) :
    it ∈ selectable x ∧ ∀ j ∈ selectable x, Precedes it j := by
  rw [nextItem_eq_foldl] at h
  cases hl : selectable x with
  | nil => rw [hl] at h; cases h
  | cons j l => rw [hl] at h; exact foldl_earlier_some h

/-! ### Release and rewind -/

theorem mem_freeItems {x : BinSt} {p : PItem → Bool} {j : PItem} :
    j ∈ (freeItems x p).items ↔ j ∈ x.items ∧ ¬p j = true := by
  simp [freeItems]

theorem release_held {x : BinSt} {h : Nat} {i : PItem} (hi : itemOfHandle x h = some i) (hheld : i.held = true) :
    release x h = freeItems x fun j => j.handle == h := by
  rw [release, hi]
  exact if_pos hheld

theorem releaseThrough_items {x : BinSt} {m : Fin 4} {t : Nat} (h : x.marks[m] = some t) :
    (releaseThrough x m).items = (freeItems x fun i => i.held && decide (i.readseq ≤ t)).items := by
  rw [releaseThrough, h]

/-- What a rewind to the point `t` of the read sequence makes of an item. -/
def rewound (t : Nat) (i : PItem) : PItem := if i.held = true ∧ t < i.readseq then { i with held := false } else i

theorem rewind_items {x : BinSt} {m : Fin 4} {t : Nat} (h : x.marks[m] = some t) :
    (rewind x m).items = x.items.map (rewound t) := by
  rw [rewind, h]
  exact List.map_congr_left fun i _ => by simp only [rewound, Bool.and_eq_true, decide_eq_true_eq]

/-- Settles O21: selection finds an item that precedes all others, releases are filters and a rewind is a map of the bin's items. -/
theorem itemOrder : Obligations.ItemOrder := by
  unfold Obligations.ItemOrder
  intro x
  refine ⟨fun it hit => ?_, fun h i hi hheld j => ?_, fun m t hmark => ⟨fun j => ?_, ?_, fun n hn hm => ?_⟩⟩
  · obtain ⟨hsel, hfirst⟩ := nextItem_least hit
    obtain ⟨hmem, hread, hfree⟩ := mem_selectable.mp hsel
    exact ⟨hmem, hread, hfree, fun j hj hjread hjfree => hfirst j (mem_selectable.mpr ⟨hj, hjread, hjfree⟩)⟩
  · rw [release_held hi hheld, mem_freeItems, beq_iff_eq]
  · rw [releaseThrough_items hmark, mem_freeItems, Bool.and_eq_true, decide_eq_true_eq]
  · rw [rewind_items hmark, List.length_map]
  · simp only [rewind_items hmark, List.getElem_map, rewound]

end Sys2Proof.Proofs
end

section
/-! PROOFS. The accesses of bins as RAM and as a FIFO (R90, R92): the cases of their rows. -/

namespace Sys2Proof.Proofs

open Sys2Proof Machine Laws

/-! ### The lanes of a bin are configured -/

@[simp] theorem pdkCount_cfg (s : State) (k : Fin 64) : (pdkCount s k).cfg = s.cfg := by
  rw [pdkCount, raiseEvent_replies]
  rfl

@[simp] theorem arrayRead_cfg (s : State) (k b w : Nat) : (arrayRead s k b w).1.cfg = s.cfg := by
  unfold arrayRead
  simp only
  split <;> simp

@[simp] theorem binWrite_cfg (s : State) (k b a : Nat) (l : List Byte) : (binWrite s k b a l).cfg = s.cfg := by
  unfold binWrite
  simp only
  split
  · rfl
  · exact arrayRead_cfg s k b _
  · split <;> rfl

@[simp] theorem binNotice_cfg (s : State) (k b : Nat) : (binNotice s k b).cfg = s.cfg := rfl

theorem dataLeaves_congr {s t : State} (h : s.cfg = t.cfg) (k b p : Nat) : dataLeaves s k b p = dataLeaves t k b p := by
  simp only [dataLeaves, binLanes, binField, framePayload, h]

/-! ### The rows -/

/-- The FIFO with a word stored behind those that it holds, counted, and its notice after the change of the level (R92, R101). -/
def fifoStored (s : State) (k b : Nat) (w : List Byte) : State :=
  binNotice ((binWrite s k b
    (((s.bin (binNo k b)).rd + (s.bin (binNo k b)).count) % fifoCap s k b * binLanes s k b 0) w).modBin (binNo k b)
      fun x => { x with count := x.count + 1 }) k b

@[simp] theorem fifoStored_cfg (s : State) (k b : Nat) (w : List Byte) : (fifoStored s k b w).cfg = s.cfg := by
  simp [fifoStored]

/-- A bin acts when it runs, no cut holds it and none of its used inputs carries a bad token (R479). -/
def BinActs (s : State) (k b : Fin 64) : Prop := binRuns s k b = true ∧ cutHeld s k = false ∧ badInput s k b = none

section

variable {s : State} {k b : Fin 64}

theorem binStep_acts (hacts : BinActs s k b) (f : State → State) : binStep s k b f = f s := by
  obtain ⟨hrun, hcut, hgood⟩ := hacts
  simp only [binStep, hrun, hcut, hgood, Bool.not_true, Bool.or_self, Bool.false_eq_true, if_false]

section

variable (hacts : BinActs s k b)

include hacts

theorem execBinRead_request {p : Fin 2} {a : Nat} (hport : ramPort s k b p = true)
    (hreq : ramRequest s k b p = some (a, false)) (hidle : outsIdle s k b p = true) {r : State × Option (List Byte)}
    {q x y : State × List Src} (hr : binRead s k b (a * binLanes s k b p) (binLanes s k b p) = r)
    (hq : presentWord r.1 k b p r.2 = q) (hx : ackLeaf q.1 (.bin k b (10 * p)) = x)
    (hy : ackLeaf x.1 (.bin k b (10 * p + 1)) = y) :
    execBinRead k b p s = .next (settle y.1 (q.2.map Move.shown ++ (x.2 ++ y.2).map Move.freed)) := by
  subst hr hq hx hy
  simp only [execBinRead, binStep_acts hacts, hreq, hport, hidle, Bool.and_self, if_true]

theorem execBinWrite_request {p : Fin 2} {a : Nat} {w : List Byte} (hport : ramPort s k b p = true)
    (hreq : ramRequest s k b p = some (a, true)) (hdata : dataWord s k b p = some w) :
    execBinWrite k b p s =
      .next (takeAll (binWrite s k b (a * binLanes s k b p) w) (reqLeaves k b p ++ dataLeaves s k b p)) := by
  simp only [execBinWrite, binStep_acts hacts, hreq, hdata, hport, if_true]

/-- A word offered to a FIFO that has room is stored and acknowledged, and the FIFO presents if it can. -/
theorem execFifoWrite_room (hmode : binMode s k b = 2) {w : List Byte} (hdata : dataWord s k b 0 = some w)
    (hroom : (s.bin (binNo k b)).count < fifoCap s k b) :
    execFifoWrite k b s = .next (settleShown (fifoPresent (takeAll (fifoStored s k b w) (dataLeaves s k b 0)) k b)) := by
  have hlanes : dataLeaves (fifoStored s k b w) k b 0 = dataLeaves s k b 0 := dataLeaves_congr (fifoStored_cfg s k b w) k b 0
  rw [← hlanes]
  simp only [execFifoWrite, binStep_acts hacts, hdata, hmode, hroom, and_self, if_true, fifoStored]

theorem execFifoRead_shown (hmode : binMode s k b = 2) (hshown : (s.bin (binNo k b)).shown = true)
    (hidle : outsIdle s k b 1 = true) :
    execFifoRead k b s = .next (settleShown (fifoPresent (binNotice (s.modBin (binNo k b) fun x =>
      { x with count := x.count - 1, rd := (x.rd + 1) % fifoCap s k b, shown := false }) k b) k b)) := by
  simp only [execFifoRead, binStep_acts hacts, hmode, hshown, hidle, and_self, if_true]

end

end

/-- Settles O19: by the rules of its four rows. -/
theorem binTransfers : Obligations.BinTransfers := by
  unfold Obligations.BinTransfers
  intro s k b hrun hcut hgood
  have hacts : BinActs s k b := ⟨hrun, hcut, hgood⟩
  refine ⟨fun p a hport => ⟨fun hreq hidle => ?_, fun w hreq hdata => ?_⟩, fun hmode => ⟨fun w hdata hroom => ?_,
    fun hshown hidle => ?_⟩⟩
  · exact execBinRead_request hacts hport hreq hidle rfl rfl rfl rfl
  · exact execBinWrite_request hacts hport hreq hdata
  · exact execFifoWrite_room hacts hmode hdata hroom
  · exact execFifoRead_shown hacts hmode hshown hidle

end Sys2Proof.Proofs
end

section
/-! PROOFS. Priority FIFOs: the header pair of an item (R93), selection (R94) and commands (R96). -/

namespace Sys2Proof.Proofs

open Sys2Proof Machine

section

variable {s : State} {k b : Fin 64} (hacts : BinActs s k b) (hmode : binMode s k b = 3)
  (hidx : (s.bin (binNo k b)).idxErr = false) (hread : ((indexRead s k b).bin (binNo k b)).idxErr = false)

include hidx hread in
/-- A header pair begins an item once a handle and enough cells are free; the pair is acknowledged. -/
theorem itemHeader_begins {h len : Nat} {cells : List Nat} (hlo : complete (seen s (.bin k b 0)) = true)
    (hhi : complete (seen s (.bin k b 1)) = true) (hfree : freeHandle (s.bin (binNo k b)) = some h)
    (hlen : tokenOf (seen s (.bin k b 1)) + 1 = len) (hcells : (freeCells s k b).take len = cells) (hfit : cells.length = len) :
    itemHeader s k b = takeAll (binNotice ((indexRead s k b).modBin (binNo k b) fun y =>
      { y with items := y.items ++ [{ handle := h, prio := BitVec.ofNat 4 (tokenOf (seen s (.bin k b 0))), len := len,
                                      arrival := (s.bin (binNo k b)).arrivals, cells := cells }],
               writing := some h, arrivals := y.arrivals + 1 }) k b) (reqLeaves k b 0) := by
  have hroom : ¬cells.length < len := Nat.not_lt.mpr (Nat.le_of_eq hfit.symm)
  simp only [itemHeader, hidx, hread, hlo, hhi, hfree, hlen, hcells, hroom, Bool.and_self, Bool.not_true, Bool.or_self,
    Bool.false_eq_true, if_false]

include hacts hmode in
theorem execItemWrite_header (hwriting : (s.bin (binNo k b)).writing = none) :
    execItemWrite k b s = .next (itemHeader s k b) := by
  simp only [execItemWrite, binStep_acts hacts, hmode, hwriting, ne_eq, not_true_eq_false, if_false]

/-- The bin with the item of `handle` read: it is read-held at the next point of the read sequence, and presented (R94). -/
def selected (handle : Nat) (y : BinSt) : BinSt :=
  { y with seq := y.seq + 1, cur := some { handle := handle },
           items := y.items.map fun i => if i.handle == handle then { i with held := true, readseq := y.seq + 1 } else i }

include hacts hmode hidx hread in
theorem execItemSelect_selects {it : PItem} (hcur : (s.bin (binNo k b)).cur = none)
    (hfirst : (s.bin (binNo k b)).cmdFirst = false) (hnext : nextItem (s.bin (binNo k b)) = some it) {p q : State × List Src}
    (hp : headerPresent ((indexRead s k b).modBin (binNo k b) (selected it.handle)) k b = p)
    (hq : wordPresent p.1 k b = q) :
    execItemSelect k b s = .next (settle q.1 ((p.2 ++ q.2).map Move.shown)) := by
  subst hp hq
  simp only [execItemSelect, binStep_acts hacts, hmode, hcur, hidx, hfirst, hnext, hread, ne_eq, not_true_eq_false,
    Option.isSome_none, Bool.false_eq_true, or_self, if_false]
  rfl

include hacts hmode hidx hread in
/-- A command whose operation the row serves is applied and acknowledged while no item is presented. -/
theorem binStep_binCommand {ops : Nat → Bool} {f : Nat → Fin 4 → BinSt → BinSt} {lo hi : Nat} {m : Fin 4}
    (hcur : (s.bin (binNo k b)).cur = none) (hcmd : cmdComplete s k b = true) (hlo : tokenOf (seen s (.bin k b 10)) = lo)
    (hhi : tokenOf (seen s (.bin k b 11)) = hi) (hm : ⟨hi / 4 % 4, Nat.mod_lt _ (by decide)⟩ = m)
    (hops : ops (hi / 16) = true) :
    binStep s k b (fun s => binCommand s k b ops f) =
      takeAll ((binNotice ((indexRead s k b).modBin (binNo k b) (f (lo + 256 * (hi % 4)) m)) k b).modBin (binNo k b)
        fun y => { y with cmdFirst := false }) (reqLeaves k b 1) := by
  subst hlo hhi hm
  simp only [binStep_acts hacts, binCommand, hmode, hcmd, hcur, hops, hidx, hread, ne_eq, not_true_eq_false, Bool.not_true,
    Option.isSome_none, Bool.false_eq_true, or_self, if_false]

end

/-- Settles O20: by the rules of its rows; each command is its row's operation applied by `binCommand`. -/
theorem priorityItems : Obligations.PriorityItems := by
  unfold Obligations.PriorityItems
  intro s k b hrun hcut hgood hmode x s1 hidx hread
  have hacts : BinActs s k b := ⟨hrun, hcut, hgood⟩
  refine ⟨fun h hwriting hlo hhi hfree => ?_, fun it hcur hfirst hnext => ?_, fun hcur hcmd => ?_⟩
  · intro len cells hfit
    exact (execItemWrite_header hacts hmode hwriting).trans
      (congrArg Host.Outcome.next (itemHeader_begins hidx hread hlo hhi hfree rfl rfl hfit))
  · exact execItemSelect_selects hacts hmode hidx hread hcur hfirst hnext rfl rfl
  · intro lo hi m does
    have applies : ∀ {ops : Nat → Bool} (f : Nat → Fin 4 → BinSt → BinSt), ops (hi / 16) = true →
        binStep s k b (fun s => binCommand s k b ops f) = does (f (lo + 256 * (hi % 4)) m) :=
      fun f hops => binStep_binCommand hacts hmode hidx hread hcur hcmd rfl rfl rfl hops
    refine ⟨fun hop => ?_, fun hop => ?_, fun hop => ?_, fun hop => ?_, fun hop => ?_⟩
    · exact congrArg Host.Outcome.next ((applies (fun h _ x => if hi / 16 = 1 then release x h else misuse x)
        (by rw [hop]; rfl)).trans (by simp only [if_pos hop]))
    · exact congrArg Host.Outcome.next (applies (fun _ m x => releaseThrough x m) (beq_iff_eq.mpr hop))
    · exact congrArg Host.Outcome.next (applies (fun _ m x => saveMark x m) (beq_iff_eq.mpr hop))
    · exact congrArg Host.Outcome.next (applies (fun _ m x => rewind x m) (beq_iff_eq.mpr hop))
    · exact congrArg Host.Outcome.next (applies (fun _ m x => clearMark x m) (beq_iff_eq.mpr hop))

end Sys2Proof.Proofs
end

section
/-! PROOFS. The rate governor: the end of a window by the state of the device (R128, R134, R135), and AVSBus responses (R125). -/

namespace Sys2Proof.Proofs

open Sys2Proof Machine Laws

/-! ### The end of a window -/

/-- The reads of a window on one die: voltage, current and status. -/
def readRail (s : State) (d : Fin 2) : State := avsPush (avsPush (avsPush s d .readV) d .readI) d .readStatus

theorem readRails_eq (s : State) : readRails s = readRail (readRail s 0) 1 := by
  simp only [readRails, readRail, List.foldl]

section

variable {s : State}

theorem govRuns_iff : govRuns s = true ↔
    s.dev.state = .halter ∨ s.dev.state = .recovery ∨ s.dev.state = .pouring ∨ s.dev.state = .service := by
  unfold govRuns
  cases s.dev.state <;> decide

/-- Where the control loop runs, it closes the window under the `WINDOW` that the window was measured over (R128, R135). -/
theorem execGovernorWindow_runs (hruns : govRuns s = true) {s1 : State} (hs1 : countFreeze (applyPending s) = s1) :
    execGovernorWindow s = .next (readRails (latchPace (closeWindow s1 s.gov.params.window))) := by
  obtain hstate | hstate | hstate | hstate := govRuns_iff.mp hruns <;> simp only [execGovernorWindow, hstate, hs1]

/-- In DOZE the rails are set to the effective floor, and on the way out of it to the ceiling (Table 5-5). -/
theorem execGovernorWindow_doze (hstate : s.dev.state = .doze) {s1 : State} (hs1 : countFreeze (applyPending s) = s1) :
    execGovernorWindow s = .next (dozeWritten (readRails (latchPace
      (setRails s1 (if s1.dev.dozeExit.isSome then fun _ => s1.gov.params.ceiling else floorEff s1) 7)))) := by
  simp only [execGovernorWindow, hstate, hs1]

theorem execGovernorWindow_shuttingDown (hstate : s.dev.state = .shuttingDown) {s1 : State}
    (hs1 : countFreeze (applyPending s) = s1) : execGovernorWindow s = .next (readRails (latchPace s1)) := by
  simp only [execGovernorWindow, hstate, id_eq, hs1]

end

/-! ### AVSBus responses -/

/-- A readback of `mv` at the yard time `now` is a failure: it lies beside the set voltage by more than 25 mV, at least 100 µs
after the last write (R125). -/
def readbackFails (g : GovDie) (mv now : Nat) : Bool :=
  (decide (g.vset + 25 < mv) || decide (mv + 25 < g.vset)) && decide (g.wroteAt + 100000 ≤ now)

theorem readbackFails_iff {g : GovDie} {mv now : Nat} :
    readbackFails g mv now = true ↔ (g.vset + 25 < mv ∨ mv + 25 < g.vset) ∧ g.wroteAt + 100000 ≤ now := by
  simp only [readbackFails, Bool.and_eq_true, Bool.or_eq_true, decide_eq_true_eq]

/-- What a good response of value `mv` leaves of the transaction `op`: a current in the die's register, a voltage as the die's
and a failure where it lies too far from the voltage set; a write and the status leave nothing (R125). -/
def answered (s : State) (d : Fin 2) (mv : Nat) : AvsOp → State
  | .write _ | .readStatus => s
  | .readI => { s with pins.iread := vset s.pins.iread d (BitVec.ofNat 16 mv) }
  | .readV =>
    let read := s.modGov d fun g => { g with vread := mv }
    if readbackFails s.gov.die[d] mv s.dev.yard then avsFail read d else read

section

variable {s : State} {d : Fin 2} {op : AvsOp} {r : List AvsOp}

/-- A missing or wrong response is retried until three retries have failed; then it is a failure, and the next goes out. -/
theorem execAvsbusResponse_bad (havs : s.gov.die[d].avs = op :: r) (mv : Nat) :
    execAvsbusResponse d false mv s = .next (dozeWritten (if 3 ≤ s.gov.die[d].tries then avsNext (avsFail s d) d
      else (s.modGov d fun g => { g with tries := g.tries + 1 }).emit (.avs d.val op))) := by
  simp only [execAvsbusResponse, havs, Bool.not_false, if_true]

/-- A good response leaves its mark by the transaction's kind, and the next goes out. -/
theorem execAvsbusResponse_good (havs : s.gov.die[d].avs = op :: r) (mv : Nat) :
    execAvsbusResponse d true mv s = .next (dozeWritten (avsNext (answered s d mv op) d)) := by
  simp only [execAvsbusResponse, havs, Bool.not_true, Bool.false_eq_true, if_false]
  cases op <;> rfl

end

/-- Settles O25: by the state of the device at a window's end, and by the transaction under way at a response. -/
theorem governorSteps : Obligations.GovernorSteps := by
  unfold Obligations.GovernorSteps
  intro s
  refine ⟨?_, fun d op r mv havs => ⟨fun htries => ?_, fun htries => ?_, ?_, ?_, ?_, ?_⟩⟩
  · intro s1 reads
    have hreads : reads = readRail := rfl
    rw [hreads]
    refine ⟨fun hruns => ?_, fun hdoze hstays => ?_, fun hdoze hleaves => ?_, fun hdown => ?_⟩
    · rw [exec_governorWindow, execGovernorWindow_runs hruns (s1 := s1) rfl, readRails_eq, closeWindow]
    · rw [exec_governorWindow, execGovernorWindow_doze hdoze (s1 := s1) rfl, hstays, Option.isSome_none,
        if_neg Bool.false_ne_true, readRails_eq]
    · rw [exec_governorWindow, execGovernorWindow_doze hdoze (s1 := s1) rfl,
        if_pos (Option.isSome_iff_ne_none.mpr hleaves), readRails_eq]
    · rw [exec_governorWindow, execGovernorWindow_shuttingDown hdown (s1 := s1) rfl, readRails_eq]
  · rw [exec_avsbusResponse, execAvsbusResponse_bad havs, if_neg (Nat.not_le.mpr htries)]
  · rw [exec_avsbusResponse, execAvsbusResponse_bad havs, if_pos htries]
  · rintro v rfl
    exact execAvsbusResponse_good havs mv
  · rintro rfl
    exact execAvsbusResponse_good havs mv
  · rintro rfl
    exact execAvsbusResponse_good havs mv
  · rintro rfl
    refine ⟨fun hfails => ?_, fun hstands => ?_⟩
    · rw [exec_avsbusResponse, execAvsbusResponse_good havs, answered, if_pos (readbackFails_iff.mpr hfails)]
    · rw [exec_avsbusResponse, execAvsbusResponse_good havs, answered,
        if_neg fun hfails => hstands (readbackFails_iff.mp hfails)]

end Sys2Proof.Proofs
end

section
/-! PROOFS. The registers of a caster (R145), and its scalar instructions and branches (R146, R148). -/

namespace Sys2Proof.Proofs

open Sys2Proof Machine Safety Laws

/-! ### Registers -/

/-- What a place of an array holds after a place within it was set. -/
theorem vget_vmodN {α : Type} {n : Nat} (d : α) (v : Vector α n) {i : Nat} (hi : i < n) (x : α) (j : Nat) :
    vget d (vmodN v i fun _ => x) j = if j = i then x else vget d v j := by
  by_cases hj : j < n
  · simp only [vmodN, hi, dif_pos, vmod, vset, vget, hj, Vector.getElem_set, eq_comm]
  · simp only [vget, hj, dif_neg, not_false_eq_true, if_neg (show j ≠ i by omega)]

theorem sGet_sSet (h : Caster) (x : BitVec 32) (j : Nat) {i : Nat} (h0 : 0 < i) (hi : i < 16) :
    sGet (sSet h i x) j = if j = i then x else sGet h j := by
  by_cases hj : j = 0
  · subst hj
    simp only [sGet, if_true, if_neg (Nat.ne_of_lt h0)]
  · simp only [sGet, sSet, hj, Nat.ne_of_gt h0, if_false, vget_vmodN 0 h.sreg hi]

theorem kGet_kSet (h : Caster) (y : BitVec 64) (j : Nat) {i : Nat} (h0 : 0 < i) (hi : i < 8) :
    kGet (kSet h i y) j = if j = i then y else kGet h j := by
  by_cases hj : j = 0
  · subst hj
    simp only [kGet, if_true, if_neg (Nat.ne_of_lt h0)]
  · simp only [kGet, kSet, hj, Nat.ne_of_gt h0, if_false, vget_vmodN 0 h.k hi]

/-- Settles O2: a read after a write, by whether the register is the constant one. -/
theorem constantRegisters : Obligations.ConstantRegisters := by
  unfold Obligations.ConstantRegisters
  exact fun h x y => ⟨rfl, rfl, rfl, rfl, fun _ j h0 hi => sGet_sSet h x j h0 hi, fun _ j h0 hi => kGet_kSet h y j h0 hi⟩

/-! ### Another count of corrected words leaves all else of a caster as it is -/

section

variable (h : Caster) (e : BitVec 16)

@[simp] theorem withEcc_slots : (withEcc h e).slots = h.slots := rfl
@[simp] theorem withEcc_sent : (withEcc h e).sent = h.sent := rfl
@[simp] theorem withEcc_tags : (withEcc h e).tags = h.tags := rfl
@[simp] theorem sGet_withEcc (n : Nat) : sGet (withEcc h e) n = sGet h n := rfl
@[simp] theorem kGet_withEcc (n : Nat) : kGet (withEcc h e) n = kGet h n := rfl
@[simp] theorem vGet_withEcc (n : Nat) : vGet (withEcc h e) n = vGet h n := rfl
@[simp] theorem curSlot_withEcc : curSlot (withEcc h e) = curSlot h := rfl
@[simp] theorem oldestSlot_withEcc : oldestSlot (withEcc h e) = oldestSlot h := rfl
@[simp] theorem resultsWaiting_withEcc : resultsWaiting (withEcc h e) = resultsWaiting h := rfl
@[simp] theorem anyBusy_withEcc : anyBusy (withEcc h e) = anyBusy h := rfl
@[simp] theorem completionWaits_withEcc : completionWaits (withEcc h e) = completionWaits h := rfl
@[simp] theorem memAddr_withEcc (w : BitVec 64) : memAddr (withEcc h e) w = memAddr h w := rfl
@[simp] theorem extAddr_withEcc (w : BitVec 64) : extAddr (withEcc h e) w = extAddr h w := rfl
@[simp] theorem accessFault_withEcc (dma : Bool) (xs : List Nat) (n base align : Nat) :
    accessFault (withEcc h e) dma xs n base align = accessFault h dma xs n base align := rfl
@[simp] theorem anyBad_withEcc (l : List Nat) : anyBad (withEcc h e) l = anyBad h l := rfl
@[simp] theorem anyFixed_withEcc (l : List Nat) : anyFixed (withEcc h e) l = anyFixed h l := rfl

end

/-! ### Scalar instructions -/

section

variable {i : Instr} {op : Nat} {c : Fin 256} {s : State} {w : BitVec 64}

theorem scalarOp_issues {g : Bool → BitVec 32 → BitVec 32 → BitVec 32} {x : BitVec 32} (hexec : exec i s = scalarOp op c s g)
    (h : Issues s c w) (hw : wOp w = op) (hx : g (wSg w) (sGet s.cast[c] (wA w)) (opB32 s.cast[c] w) = x) :
    ScalarResult i s c w x := by
  rw [ScalarResult, hexec, scalarOp, issue_issues h hw]
  exact congrArg Host.Outcome.next (complete1_congr fun e =>
    congrArg (sSet (withEcc s.cast[c] e) (wD w)) hx)

/-- An instruction on registers alone whose result goes to `sD`. -/
theorem scalarResult_issues {f : BitVec 64 → Caster → BitVec 32} {x : BitVec 32}
    (hexec : exec i s = registerOp op c s fun w h => sSet h (wD w) (f w h))
    (h : Issues s c w) (hw : wOp w = op) (hx : ∀ e, f w (withEcc s.cast[c] e) = x) : ScalarResult i s c w x :=
  hexec.trans (registerOp_issues h hw fun e => congrArg (sSet (withEcc s.cast[c] e) (wD w)) (hx e))

/-! ### Branches -/

variable {g : Bool → BitVec 32 → BitVec 32 → Bool}

theorem branchOp_taken (hexec : exec i s = branchOp op c s g) (h : Issues s c w) (hw : wOp w = op)
    (hg : g (wSg w) (sGet s.cast[c] (wA w)) (sGet s.cast[c] (wB w)) = true) :
    exec i s = .next ((fetched s c).modCast c fun h =>
      { h with pc := BitVec.ofNat 11 (wImm w), mode := .running, cycles := h.cycles + 3 }) := by
  obtain ⟨e, he⟩ := fetched_get s c
  rw [hexec, branchOp, issue_issues h hw]
  simp only [he, sGet_withEcc, hg, if_true]

theorem branchOp_falls (hexec : exec i s = branchOp op c s g) (h : Issues s c w) (hw : wOp w = op)
    (hg : g (wSg w) (sGet s.cast[c] (wA w)) (sGet s.cast[c] (wB w)) = false) :
    exec i s = .next ((fetched s c).modCast c fun h =>
      { h with pc := h.pc + 1, mode := .running, cycles := h.cycles + 1 }) := by
  obtain ⟨e, he⟩ := fetched_get s c
  rw [hexec, branchOp, issue_issues h hw]
  simp only [he, sGet_withEcc, hg, if_neg Bool.false_ne_true]
  rfl

end

/-! ### Arithmetic on 32 bits -/

theorem add_eq_ofNat (a b : BitVec 32) : a + b = BitVec.ofNat 32 (a.toNat + b.toNat) := by bv_omega

theorem sub_eq_ofInt (a b : BitVec 32) : a - b = BitVec.ofInt 32 (a.toNat - b.toNat) := by
  refine BitVec.eq_of_toNat_eq ?_
  rw [BitVec.toNat_sub, BitVec.toNat_ofInt]
  omega

theorem mul_eq_ofNat (a b : BitVec 32) : a * b = BitVec.ofNat 32 (a.toNat * b.toNat) :=
  BitVec.eq_of_toNat_eq (by simp)

theorem shiftLeft_eq_ofNat (a : BitVec 32) (n : Nat) : a <<< n = BitVec.ofNat 32 (a.toNat * 2 ^ n) :=
  BitVec.eq_of_toNat_eq (by simp [Nat.shiftLeft_eq])

/-- A right shift divides by a power of two, rounding down: the signed value when `SG` is set, else the unsigned one. -/
theorem shiftRight_eq_div (sg : Bool) (a : BitVec 32) (n : Nat) :
    (if sg then a.sshiftRight n else a >>> n) =
      if sg then BitVec.ofInt 32 (a.toInt / 2 ^ n) else BitVec.ofNat 32 (a.toNat / 2 ^ n) := by
  cases sg with
  | true => simp [BitVec.sshiftRight, Int.shiftRight_eq_div_pow]
  | false =>
    have hlt : a.toNat / 2 ^ n < 2 ^ 32 := Nat.lt_of_le_of_lt (Nat.div_le_self ..) a.isLt
    refine BitVec.eq_of_toNat_eq ?_
    simp only [Bool.false_eq_true, if_false, BitVec.toNat_ushiftRight, Nat.shiftRight_eq_div_pow, BitVec.toNat_ofNat,
      Nat.mod_eq_of_lt hlt]

/-- Settles O3: each row writes `sD` through `scalarOp` or `registerOp`, and each operation is arithmetic modulo 2^32. -/
theorem scalarInstructions : Obligations.ScalarInstructions := by
  unfold Obligations.ScalarInstructions
  intro c s w h a b
  refine ⟨fun hw => (issue_issues h hw : execNop c s = _), fun hw => scalarResult_issues (exec_sli c s) h hw fun _ => rfl,
    fun hw => scalarOp_issues (exec_sadd c s) h hw (add_eq_ofNat a b),
    fun hw => scalarOp_issues (exec_ssub c s) h hw (sub_eq_ofInt a b),
    fun hw => scalarOp_issues (exec_smul c s) h hw (mul_eq_ofNat a b),
    fun hw => scalarOp_issues (exec_sand c s) h hw rfl,
    fun hw => scalarOp_issues (exec_sor c s) h hw rfl,
    fun hw => scalarOp_issues (exec_sxor c s) h hw rfl,
    fun hw => scalarOp_issues (exec_sshl c s) h hw (shiftLeft_eq_ofNat a _),
    fun hw => scalarOp_issues (exec_sshr c s) h hw (shiftRight_eq_div _ a _)⟩

/-- The order in which a branch compares: signed when `SG` is set. -/
theorem branch_less_iff (sg : Bool) (a b : BitVec 32) :
    (if sg then a.slt b else a.ult b) = true ↔ if sg then a.toInt < b.toInt else a.toNat < b.toNat := by
  cases sg
  · exact decide_eq_true_iff
  · exact decide_eq_true_iff

theorem branch_not_less (sg : Bool) (a b : BitVec 32) :
    (if sg then !a.slt b else !a.ult b) = !(if sg then a.slt b else a.ult b) := by cases sg <;> rfl

/-- Settles O4: a branch is taken or falls through by its condition. -/
theorem branches : Obligations.Branches := by
  unfold Obligations.Branches
  intro c s w h a b jump fall less
  have hless : (if wSg w then a.slt b else a.ult b) = true ↔ less := branch_less_iff (wSg w) a b
  have hnot : ¬less → (if wSg w then a.slt b else a.ult b) = false := fun hn => Bool.eq_false_iff.mpr (mt hless.mp hn)
  refine ⟨fun hw heq => branchOp_taken (exec_beq c s) h hw (beq_iff_eq.mpr heq),
    fun hw hne => branchOp_falls (exec_beq c s) h hw (beq_eq_false_iff_ne.mpr hne),
    fun hw hne => branchOp_taken (exec_bne c s) h hw (bne_iff_ne.mpr hne),
    fun hw heq => branchOp_falls (exec_bne c s) h hw (bne_eq_false_iff_eq.mpr heq),
    fun hw hl => branchOp_taken (exec_blt c s) h hw (hless.mpr hl),
    fun hw hn => branchOp_falls (exec_blt c s) h hw (hnot hn),
    fun hw hn => branchOp_taken (exec_bge c s) h hw ((branch_not_less _ a b).trans (by rw [hnot hn]; rfl)),
    fun hw hl => branchOp_falls (exec_bge c s) h hw ((branch_not_less _ a b).trans (by rw [hless.mpr hl]; rfl)),
    fun hw => branchOp_taken (exec_jmp c s) h hw rfl⟩

end Sys2Proof.Proofs
end

section
/-! PROOFS. The vector instructions lane by lane, the compares, the lane masks and the accumulators (R145, R148). -/

namespace Sys2Proof.Proofs

open Sys2Proof Machine Safety Laws

/-! ### Lanes as numbers -/

theorem opB8_lt (h : Caster) (w : BitVec 64) (n : Nat) : opB8 h w n < 256 := by
  unfold opB8
  split
  · exact lane8_lt _ _
  · exact Nat.mod_lt _ (by decide)
  · exact Nat.mod_lt _ (by decide)

/-- Two bytes are the same number, signed or not, exactly when they are the same byte. -/
theorem laneInt_inj {sg : Bool} {a b : Nat} (ha : a < 256) (hb : b < 256) : laneInt sg a = laneInt sg b ↔ a = b := by
  cases sg with
  | false => exact Int.ofNat_inj
  | true =>
    simp only [laneInt, sInt, if_true]
    split <;> split <;> omega

/-- The low 32 bits of a value are the value modulo 2^32. -/
theorem cast_uNat32 (v : Int) : ((uNat 32 v % 2 ^ 32 : Nat) : Int) = v % 2 ^ 32 := by
  unfold uNat
  omega

section

variable {i : Instr} {op : Nat} {c : Fin 256} {s : State} {w : BitVec 64}

/-! ### Vectors -/

/-- An instruction that writes the lanes of `vD` under `kK` with values that do not depend on the count of corrected words. -/
theorem vectorResult_issues {F : BitVec 64 → Caster → Nat → Nat} {f : Nat → Nat}
    (hexec : exec i s = registerOp op c s fun w h => vWrite h (wD w) (kGet h (wK w)) (F w h)) (h : Issues s c w)
    (hw : wOp w = op) (hF : ∀ e, F w (withEcc s.cast[c] e) = F w s.cast[c])
    (hf : ∀ n, n < 64 → F w s.cast[c] n % 256 = f n % 256) : VectorResult i s c w f := by
  obtain ⟨x, hx, hlanes⟩ := vWrite_lanes s.cast[c] (wD w) (kGet s.cast[c] (wK w)) (F w s.cast[c])
  refine ⟨x, hexec.trans (registerOp_issues h hw fun e => ?_), fun n hn => by rw [hlanes n hn, hf n hn]⟩
  rw [hF e]
  exact congrArg (withEcc · e) hx

/-- A vector instruction of the form vD lane = g(vA lane, b8 lane). -/
theorem vectorOp_lanes {g : Bool → Nat → Nat → Nat} {f : Nat → Nat} (hexec : exec i s = vectorOp op c s g) (h : Issues s c w)
    (hw : wOp w = op)
    (hg : ∀ n, n < 64 → g (wSg w) (lane8 (vGet s.cast[c] (wA w)) n) (opB8 s.cast[c] w n) % 256 = f n % 256) :
    VectorResult i s c w f :=
  vectorResult_issues (F := fun w h n => g (wSg w) (lane8 (vGet h (wA w)) n) (opB8 h w n)) hexec h hw (fun _ => rfl) hg

/-- VSEL writes every lane, from vA or b8 as the mask says. -/
theorem execVsel_lanes (h : Issues s c w) (hw : wOp w = 0x3C) : ∃ x : BitVec 512,
    exec (.vsel c) s = .next (complete1 (fetched s c) c 1 fun h => { h with v := vmodN h.v (wD w) fun _ => x }) ∧
    ∀ n, n < 64 → lane8 x n = if (kGet s.cast[c] (wK w)).getLsbD n then lane8 (vGet s.cast[c] (wA w)) n
      else opB8 s.cast[c] w n := by
  obtain ⟨x, hx, hlanes⟩ := vWrite_lanes s.cast[c] (wD w) (BitVec.allOnes 64) fun n =>
    if (kGet s.cast[c] (wK w)).getLsbD n then lane8 (vGet s.cast[c] (wA w)) n else opB8 s.cast[c] w n
  refine ⟨x, (exec_vsel c s).trans (registerOp_issues h hw fun e => congrArg (withEcc · e) hx), fun n hn => ?_⟩
  rw [hlanes n hn, BitVec.getLsbD_allOnes, decide_eq_true hn, if_pos rfl]
  split
  · exact Nat.mod_eq_of_lt (lane8_lt _ _)
  · exact Nat.mod_eq_of_lt (opB8_lt _ _ _)

end

/-- Settles O5: each row's lane function is that of Table 6-5, up to multiples of 256. -/
theorem vectorLanes : Obligations.VectorLanes := by
  unfold Obligations.VectorLanes
  intro c s w hi h a b sa sb
  refine ⟨fun hw => vectorOp_lanes (exec_vadd c s) hi hw fun n _ => Nat.mod_mod _ _,
    fun hw => vectorOp_lanes (exec_vsub c s) hi hw fun n _ => Nat.mod_mod _ _,
    fun hw => vectorOp_lanes (exec_vaddsat c s) hi hw fun n _ => rfl,
    fun hw => vectorOp_lanes (exec_vsubsat c s) hi hw fun n _ => rfl,
    fun hw => vectorOp_lanes (exec_vmin c s) hi hw fun n _ => rfl,
    fun hw => vectorOp_lanes (exec_vmax c s) hi hw fun n _ => rfl,
    fun hw => vectorOp_lanes (exec_vabsd c s) hi hw fun n _ => rfl,
    fun hw => vectorOp_lanes (exec_vand c s) hi hw fun n _ => rfl,
    fun hw => vectorOp_lanes (exec_vor c s) hi hw fun n _ => rfl,
    fun hw => vectorOp_lanes (exec_vxor c s) hi hw fun n _ => rfl,
    fun hw => vectorOp_lanes (exec_vshl c s) hi hw fun n _ => Nat.mod_mod _ _,
    fun hw => vectorOp_lanes (exec_vshr c s) hi hw fun n _ => rfl,
    fun hw => vectorOp_lanes (exec_vmov c s) hi hw fun n _ => rfl,
    fun hw => vectorResult_issues (exec_vperm c s) hi hw (fun _ => rfl) fun n _ => rfl,
    fun hw => vectorResult_issues (exec_vrot c s) hi hw (fun _ => rfl) fun n _ => rfl,
    fun hw => execVsel_lanes hi hw⟩

/-! ### Compares and lane masks -/

section

variable {i : Instr} {op : Nat} {c : Fin 256} {s : State} {w : BitVec 64}

/-- A compare sets bit `n` of `kD` where its condition on lane `n` holds and `kK` is set. -/
theorem compareOp_lanes {g : Bool → Nat → Nat → Bool} {p : Nat → Prop} (hexec : exec i s = compareOp op c s g)
    (h : Issues s c w) (hw : wOp w = op)
    (hg : ∀ n, g (wSg w) (lane8 (vGet s.cast[c] (wA w)) n) (opB8 s.cast[c] w n) = true ↔ p n) : MaskResult i s c w p := by
  refine ⟨BitVec.ofNat 64 (packLanes 2 fun n => b2n ((kGet s.cast[c] (wK w)).getLsbD n &&
    g (wSg w) (lane8 (vGet s.cast[c] (wA w)) n) (opB8 s.cast[c] w n))),
    hexec.trans ((issue_issues h hw).trans (congrArg Host.Outcome.next (complete1_congr fun _ => rfl))), fun n hn => ?_⟩
  have hb : ∀ b : Bool, b2n b < 2 ∧ (b2n b = 1 ↔ b = true) := by decide
  rw [bit_pack _ hn (hb _).1, decide_eq_true_iff, (hb _).2, Bool.and_eq_true, hg n]

end

/-- The two halves of a mask register as KGET takes them. -/
theorem ofNat_fld {n : Nat} (x : BitVec n) (lo len : Nat) : BitVec.ofNat len (fld x lo len) = x.extractLsb' lo len :=
  BitVec.eq_of_toNat_eq (by simp [fld, Nat.shiftRight_eq_div_pow])

/-- A mask register put together from two scalars as KSET does. -/
theorem ofNat_pair (a b : BitVec 32) : BitVec.ofNat 64 (a.toNat * 2 ^ 32 + b.toNat) = a ++ b := by
  refine BitVec.eq_of_toNat_eq ?_
  rw [BitVec.toNat_append, BitVec.toNat_ofNat, Nat.shiftLeft_eq, Nat.mod_eq_of_lt (by omega),
    ← Nat.shiftLeft_eq, ← Nat.shiftLeft_add_eq_or_of_lt b.isLt]

/-- Settles O6: the compares lane by lane; the mask instructions write what their rows name. -/
theorem laneMasks : Obligations.LaneMasks := by
  unfold Obligations.LaneMasks
  intro c s w hi h sa sb k
  have heq : ∀ n, sa n = sb n ↔ lane8 (vGet h (wA w)) n = opB8 h w n := fun n => laneInt_inj (lane8_lt _ _) (opB8_lt _ _ _)
  refine ⟨fun hw => compareOp_lanes (exec_vceq c s) hi hw fun n => beq_iff_eq.trans (heq n).symm,
    fun hw => compareOp_lanes (exec_vcne c s) hi hw fun n => bne_iff_ne.trans (not_congr (heq n).symm),
    fun hw => compareOp_lanes (exec_vclt c s) hi hw fun n => decide_eq_true_iff,
    fun hw => compareOp_lanes (exec_vcge c s) hi hw fun n => decide_eq_true_iff,
    fun hw => (exec_kand c s).trans (registerOp_issues hi hw fun e => rfl),
    fun hw => (exec_kor c s).trans (registerOp_issues hi hw fun e => rfl),
    fun hw => (exec_knot c s).trans (registerOp_issues hi hw fun e => rfl),
    fun hw => (exec_kget c s).trans (registerOp_issues hi hw fun e => ?_),
    fun hw => (exec_kset c s).trans (registerOp_issues hi hw fun e => congrArg (kSet _ (wD w)) (ofNat_pair _ _)),
    fun hw => scalarResult_issues (exec_kcnt c s) hi hw fun e => ?_⟩
  · simp only [ofNat_fld]
    rfl
  · rw [setLanes, ← List.countP_eq_length_filter]
    rfl

/-! ### Accumulators -/

section

variable {i : Instr} {op : Nat} {c : Fin 256} {s : State} {w : BitVec 64}

/-- An instruction that writes the lanes of `aACC` under `kK`. -/
theorem accResult_issues {F : BitVec 64 → Caster → Nat → Nat} {f : Nat → Int}
    (hexec : exec i s = registerOp op c s fun w h => aWrite h (wAcc w) (kGet h (wK w)) (F w h)) (h : Issues s c w)
    (hw : wOp w = op) (hF : ∀ e, F w (withEcc s.cast[c] e) = F w s.cast[c])
    (hf : ∀ n, ((F w s.cast[c] n % 2 ^ 32 : Nat) : Int) = f n % 2 ^ 32) : AccResult i s c w f := by
  obtain ⟨x, hx, hlanes⟩ := aWrite_lanes s.cast[c] (wAcc w) (kGet s.cast[c] (wK w)) (F w s.cast[c])
  refine ⟨x, hexec.trans (registerOp_issues h hw fun e => ?_), fun n hn => ?_⟩
  · rw [hF e]
    exact congrArg (withEcc · e) hx
  · rw [hlanes n hn]
    split
    · exact hf n
    · rfl

end

/-- Settles O7: the lanes of the accumulator are their values modulo 2^32, and AEXT's are saturated by `sat8`. -/
theorem accumulators : Obligations.Accumulators := by
  unfold Obligations.Accumulators
  intro c s w hi h sa sb acc n
  exact ⟨fun hw => accResult_issues (exec_vmac c s) hi hw (fun _ => rfl) fun _ => cast_uNat32 _,
    fun hw => accResult_issues (exec_vmul c s) hi hw (fun _ => rfl) fun _ => cast_uNat32 _,
    fun hw => accResult_issues (exec_aclr c s) hi hw (fun _ => rfl) fun _ => rfl,
    fun hw => vectorResult_issues (exec_aext c s) hi hw (fun _ => rfl) fun _ _ => rfl⟩

end Sys2Proof.Proofs
end

section
/-! PROOFS. The reductions and the moves between lanes and scalars (R145, R148). -/

namespace Sys2Proof.Proofs

open Sys2Proof Machine Safety Laws

/-! ### The least and the greatest lane -/

/-- The lane chosen is one of the list, with its own value. -/
theorem bestLane_mem {less : Int → Int → Bool} {f : Nat → Int} {l : List Nat} {x : Int} {j : Nat}
    (h : bestLane less f l = some (x, j)) : j ∈ l ∧ x = f j := by
  induction l with
  | nil => cases h
  | cons i r ih =>
    have hhead : some (f i, i) = some (x, j) → j ∈ i :: r ∧ x = f j := by
      rintro ⟨⟩
      exact ⟨List.mem_cons_self, rfl⟩
    rw [bestLane] at h
    split at h
    · next y k hr =>
      split at h
      · obtain ⟨hmem, hval⟩ := ih (hr.trans h)
        exact ⟨List.mem_cons_of_mem _ hmem, hval⟩
      · exact hhead h
    · exact hhead h

/-- Of the lanes of a rising list, the one that goes before all others: by its value, and by its number among equals. -/
theorem bestLane_eq {less : Int → Int → Bool} (hasymm : ∀ x y, less x y = true → less y x = false) {f : Nat → Int}
    {l : List Nat} (hl : l.Pairwise (· < ·)) {m : Nat} (hm : m ∈ l)
    (hbest : ∀ j ∈ l, less (f m) (f j) = true ∨ (f m = f j ∧ m ≤ j)) : bestLane less f l = some (f m, m) := by
  induction l with
  | nil => cases hm
  | cons i r ih =>
    obtain ⟨hi, hr⟩ := List.pairwise_cons.mp hl
    rw [bestLane]
    rcases List.mem_cons.mp hm with rfl | hmr
    · split
      · next y j hy =>
        obtain ⟨hj, rfl⟩ := bestLane_mem hy
        have hless : less (f j) (f m) = false := by
          rcases hbest j (List.mem_cons_of_mem _ hj) with h | ⟨h, -⟩
          · exact hasymm _ _ h
          · rw [h]
            exact Bool.eq_false_iff.mpr fun hx => Bool.eq_false_iff.mp (hasymm _ _ hx) hx
        rw [hless, if_neg Bool.false_ne_true]
      · rfl
    · have hless : less (f m) (f i) = true := by
        rcases hbest i List.mem_cons_self with h | ⟨-, h⟩
        · exact h
        · exact absurd (hi m hmr) (Nat.not_lt.mpr h)
      simp only [ih hr hmr fun j hj => hbest j (List.mem_cons_of_mem _ hj), hless, if_true]

theorem setLanes_pairwise (m : BitVec 64) : (setLanes m).Pairwise (· < ·) := List.pairwise_lt_range.filter _

/-- A sum taken from the left. -/
theorem foldl_add_eq_sum (l : List Int) : l.foldl (· + ·) 0 = l.sum := (List.sum_eq_foldl ..).symm

section

variable {i : Instr} {op : Nat} {c : Fin 256} {s : State} {w : BitVec 64} {less : Int → Int → Bool}

/-- VRMIN and VRMAX leave the value and the number of the lane that they choose; of no lane the default and 64. -/
theorem rankOp_issues {r : Int × Nat} (hexec : exec i s = registerOp op c s fun w h => rankOp w less h) (h : Issues s c w)
    (hw : wOp w = op)
    (hr : (bestLane less (fun n => laneInt (wSg w) (lane8 (vGet s.cast[c] (wA w)) n)) (setLanes (kGet s.cast[c] (wK w)))).getD
      (if wSg w then 127 else 255, 64) = r) :
    exec i s = .next (complete1 (fetched s c) c 1 fun h =>
      sSet (sSet h (wD w) (BitVec.ofInt 32 r.1)) (wD w + 1) (BitVec.ofNat 32 r.2)) :=
  hr ▸ hexec.trans (registerOp_issues h hw fun _ => rfl)

end

/-! ### Four lanes of a vector -/

/-- The bytes of a number in two parts, the lower of `n` bytes. -/
theorem byte_split {r n : Nat} (hr : r < 256 ^ n) (q i : Nat) :
    (r + 256 ^ n * q) / 256 ^ i % 256 = if i < n then r / 256 ^ i % 256 else q / 256 ^ (i - n) % 256 := by
  split
  · next hi => rw [← place_mod hi, Nat.add_mul_mod_self_left, Nat.mod_eq_of_lt hr]
  · next hi =>
    obtain ⟨k, rfl⟩ := Nat.exists_eq_add_of_le (Nat.le_of_not_lt hi)
    rw [Nat.pow_add, ← Nat.div_div_eq_div_mul, Nat.add_mul_div_left _ _ (Nat.pow_pos (by decide)), Nat.div_eq_of_lt hr,
      Nat.zero_add, Nat.add_sub_cancel_left]

/-- The bytes of a number whose four bytes from place `n` are replaced. -/
theorem byte_replace (v x n i : Nat) :
    (v - v / 256 ^ n % 256 ^ 4 * 256 ^ n + x % 256 ^ 4 * 256 ^ n) / 256 ^ i % 256 =
      if n ≤ i ∧ i < n + 4 then x / 256 ^ (i - n) % 256 else v / 256 ^ i % 256 := by
  obtain ⟨r, hr⟩ : ∃ r, v % 256 ^ n = r := ⟨_, rfl⟩
  obtain ⟨m, k, hm, hq⟩ : ∃ m k, m < 256 ^ 4 ∧ v / 256 ^ n = m + 256 ^ 4 * k :=
    ⟨_, _, Nat.mod_lt _ (by decide), (Nat.mod_add_div ..).symm⟩
  have hlow : r < 256 ^ n := hr ▸ Nat.mod_lt _ (Nat.pow_pos (by decide))
  have hmid : (m + 256 ^ 4 * k) % 256 ^ 4 = m := by rw [Nat.add_mul_mod_self_left, Nat.mod_eq_of_lt hm]
  have hv : v = r + 256 ^ n * (m + 256 ^ 4 * k) := by rw [← hr, ← hq, Nat.mod_add_div]
  have hcut : v = r + 256 ^ n * (256 ^ 4 * k) + m * 256 ^ n := by
    rw [hv, Nat.mul_add, Nat.mul_comm _ m, Nat.add_comm (m * 256 ^ n), Nat.add_assoc]
  have hnew : v - m * 256 ^ n + x % 256 ^ 4 * 256 ^ n = r + 256 ^ n * (x % 256 ^ 4 + 256 ^ 4 * k) := by
    rw [hcut, Nat.add_sub_cancel, Nat.mul_add, Nat.mul_comm _ (x % 256 ^ 4), Nat.add_comm (x % 256 ^ 4 * 256 ^ n),
      Nat.add_assoc]
  rw [hq, hmid, hnew, hv, byte_split hlow, byte_split hlow]
  by_cases hi : i < n
  · rw [if_pos hi, if_pos hi, if_neg (by omega)]
  · rw [if_neg hi, if_neg hi, byte_split (n := 4) (Nat.mod_lt _ (by decide)), byte_split hm]
    by_cases h4 : i - n < 4
    · rw [if_pos h4, if_pos (by omega), place_mod h4]
    · rw [if_neg h4, if_neg (by omega), if_neg h4]

theorem setFld_lanes (v : BitVec 512) (x : BitVec 32) {n i : Nat} (hi : i < 64) :
    lane8 (setFld v (8 * n) 32 x.toNat) i =
      if n ≤ i ∧ i < n + 4 then x.toNat / 256 ^ (i - n) % 256 else lane8 v i := by
  have h := byte_replace v.toNat x.toNat n i
  rw [← place_mod hi] at h
  simp only [lane8, setFld, fld, BitVec.toNat_ofNat, show 512 = 8 * 64 from rfl, show 32 = 8 * 4 from rfl, Nat.pow_mul]
  exact h

/-- Settles O8: the sums are sums over the lanes set, the chosen lane goes before all others, and the moves go by bytes. -/
theorem reductions : Obligations.Reductions := by
  unfold Obligations.Reductions
  intro c s w hi h set va pair n
  have hnone : set = [] → ∀ less : Int → Int → Bool, bestLane less va set = none := fun h0 _ => h0 ▸ rfl
  refine ⟨fun hw => scalarResult_issues (exec_vrsum c s) hi hw fun e => congrArg (BitVec.ofInt 32) (foldl_add_eq_sum _),
    fun hw => scalarResult_issues (exec_arsum c s) hi hw fun e => congrArg (BitVec.ofInt 32) (foldl_add_eq_sum _),
    fun hw m hm hmin => ?_, fun hw m hm hmax => ?_, fun hw h0 => ?_, fun hw h0 => ?_,
    fun hw => scalarResult_issues (exec_vgets c s) hi hw fun e => ofNat_fld _ _ 32, fun hw _ => ?_⟩
  · refine rankOp_issues (r := (va m, m)) (exec_vrmin c s) hi hw (congrArg (Option.getD · _) (bestLane_eq (fun x y => ?_)
      (setLanes_pairwise _) hm fun j hj => (hmin j hj).imp_left fun h => decide_eq_true h))
    simp only [decide_eq_true_iff, decide_eq_false_iff_not]
    exact fun h => Int.not_lt.mpr (Int.le_of_lt h)
  · refine rankOp_issues (r := (va m, m)) (exec_vrmax c s) hi hw (congrArg (Option.getD · _) (bestLane_eq (fun x y => ?_)
      (setLanes_pairwise _) hm fun j hj => (hmax j hj).imp_left fun h => decide_eq_true h))
    simp only [decide_eq_true_iff, decide_eq_false_iff_not]
    exact fun h => Int.not_lt.mpr (Int.le_of_lt h)
  · exact rankOp_issues (r := (if wSg w then 127 else 255, 64)) (exec_vrmin c s) hi hw
      (congrArg (Option.getD · _) (hnone h0 _))
  · exact rankOp_issues (r := (if wSg w then 127 else 255, 64)) (exec_vrmax c s) hi hw
      (congrArg (Option.getD · _) (hnone h0 _))
  · exact ⟨setFld (vGet h (wD w)) (8 * n) 32 (sGet h (wA w)).toNat,
      (exec_vsets c s).trans (registerOp_issues hi hw fun e => rfl), fun i hi => setFld_lanes _ _ hi⟩

end Sys2Proof.Proofs
end

section
/-! PROOFS. Accesses to local memory: what an instruction may reach (R141, R142, R147), how it faults (R162), and the loads
(R143, R148). -/

namespace Sys2Proof.Proofs

open Sys2Proof Machine Safety Laws

/-! ### Reach -/

section

variable {h : Caster}

/-- An instruction leaves the areas that it may reach exactly when its bytes are not within reach. -/
theorem ladleBreach_iff (x n : Nat) : ladleBreach h false x n = true ↔ ¬Within h x n := by
  unfold ladleBreach Within
  cases hcur : curSlot h with
  | none =>
    have hnone : ¬∃ i, none = some i ∧ winBase i ≤ max x 0x1C000 ∧ x + n ≤ winBase i + 0x2000 := fun ⟨_, hi, _⟩ => nomatch hi
    simp only [Bool.and_true, decide_eq_true_eq, or_iff_left hnone, Nat.not_le]
  | some i =>
    have hsome : (∃ j, some i = some j ∧ winBase j ≤ max x 0x1C000 ∧ x + n ≤ winBase j + 0x2000) ↔
        winBase i ≤ max x 0x1C000 ∧ x + n ≤ winBase i + 0x2000 :=
      ⟨fun ⟨_, hj, hwin⟩ => Option.some.inj hj ▸ hwin, fun hwin => ⟨i, rfl, hwin⟩⟩
    simp only [hsome, Bool.false_or, Bool.and_eq_true, Bool.not_eq_true', ← Bool.not_eq_true, decide_eq_true_eq, not_or,
      Nat.not_le]

/-- The window of a slot lies in local memory. -/
theorem winBase_le (i : Fin 2) : winBase i + 0x2000 ≤ 0x20000 := by
  have := i.isLt
  unfold winBase
  omega

theorem within_le_size {x n : Nat} (hx : Within h x n) : x + n ≤ 0x20000 := by
  rcases hx with hx | ⟨i, -, -, hx⟩
  · omega
  · exact Nat.le_trans hx (winBase_le i)

/-! ### Faults of accesses -/

variable {xs : List Nat} {n base align : Nat}

theorem accessFault_addr {dma : Bool} {x : Nat} (hx : 0x20000 < x + n) : accessFault h dma [x] n base align = 1 := by
  simp [accessFault, hx]

theorem accessFault_ladle {x : Nat} (hx : x + n ≤ 0x20000) (hreach : ¬Within h x n) :
    accessFault h false [x] n base align = 3 := by
  rw [accessFault, List.any_cons, List.any_cons, decide_eq_false (Nat.not_lt.mpr hx), (ladleBreach_iff x n).mpr hreach]
  rfl

/-- Accesses within reach can only be misaligned. -/
theorem accessFault_within (hxs : ∀ x ∈ xs, Within h x n) :
    accessFault h false xs n base align = if base % align ≠ 0 then 2 else 0 := by
  have haddr : ¬(xs.any fun x => decide (0x20000 < x + n)) = true := by
    rw [List.any_eq_true]
    rintro ⟨x, hx, hlt⟩
    exact absurd (within_le_size (hxs x hx)) (Nat.not_le.mpr (of_decide_eq_true hlt))
  have hladle : ¬(xs.any fun x => ladleBreach h false x n) = true := by
    rw [List.any_eq_true]
    rintro ⟨x, hx, hbreach⟩
    exact (ladleBreach_iff x n).mp hbreach (hxs x hx)
  rw [accessFault, if_neg haddr, if_neg hladle]

theorem accessFault_aligned (hxs : ∀ x ∈ xs, Within h x n) (hbase : base % align = 0) :
    accessFault h false xs n base align = 0 := by
  rw [accessFault_within hxs, hbase, if_neg (not_not_intro rfl)]

theorem anyBad_eq_false {l : List Nat} (hl : ∀ wd ∈ l, (wordFlips h wd).length ≤ 1) : anyBad h l = false := by
  rw [anyBad, List.any_eq_false]
  intro wd hwd hbad
  exact absurd (hl wd hwd) (Nat.not_le.mpr (of_decide_eq_true hbad))

end

/-! ### Bytes -/

theorem byteAt_readBytes (m : Memory) {len n : Nat} (hn : n < len) (a : Nat) :
    byteAt (readBytes m a len) n = tget 0 m (a + n) := by
  induction len generalizing a n with
  | zero => omega
  | succ len ih =>
    cases n with
    | zero => rfl
    | succ n => exact (ih (by omega) (a + 1)).trans (by rw [Nat.add_right_comm, Nat.add_assoc])

theorem drop_readBytes (m : Memory) (a n len : Nat) : (readBytes m a (n + len)).drop n = readBytes m (a + n) len := by
  induction n generalizing a with
  | zero => rw [Nat.zero_add, List.drop_zero, Nat.add_zero]
  | succ n ih =>
    rw [Nat.add_right_comm, readBytes, List.drop_succ_cons, ih, Nat.add_assoc, Nat.add_comm 1]

theorem take_readBytes (m : Memory) (a n len : Nat) : (readBytes m a (n + len)).take n = readBytes m a n := by
  induction n generalizing a with
  | zero => rfl
  | succ n ih => rw [Nat.add_right_comm, readBytes, List.take_succ_cons, ih, readBytes]

theorem length_readBytes (m : Memory) (a len : Nat) : (readBytes m a len).length = len := by
  induction len generalizing a with
  | zero => rfl
  | succ len ih => rw [readBytes, List.length_cons, ih]

theorem leNat_lt (l : List Byte) : leNat l < 256 ^ l.length := by
  induction l with
  | nil => exact Nat.one_pos
  | cons b r ih =>
    have hb := b.isLt
    rw [leNat, List.length_cons, Nat.pow_succ]
    omega

/-- Four bytes as a 32-bit word, the first least significant. -/
theorem ofNat_leNat_four (a b c d : Byte) : BitVec.ofNat 32 (leNat [a, b, c, d]) = d ++ c ++ b ++ a := by
  refine BitVec.eq_of_toNat_eq ?_
  have ha := a.isLt
  have hb := b.isLt
  have hc := c.isLt
  have hd := d.isLt
  simp only [BitVec.toNat_ofNat, BitVec.toNat_append, ← Nat.shiftLeft_add_eq_or_of_lt (BitVec.isLt _)]
  simp only [Nat.shiftLeft_eq, leNat]
  omega

/-! ### Loads -/

section

variable {i : Instr} {op n cyc : Nat} {c : Fin 256} {s : State} {w : BitVec 64} {g : Caster → BitVec 64 → List Byte → Caster}

theorem loadOp_faults {k : Nat} (hexec : exec i s = loadOp op n cyc c s g) (h : Issues s c w) (hw : wOp w = op)
    (hk : accessFault s.cast[c] false [memAddr s.cast[c] w] n (memAddr s.cast[c] w) n = k + 1) :
    exec i s = .next (takeFault (fetched s c) c (k + 1) 0) := by
  obtain ⟨e, he⟩ := fetched_get s c
  rw [hexec, loadOp, issue_issues h hw]
  simp only [he, memAddr_withEcc, accessFault_withEcc, hk]

theorem loadOp_loads (hexec : exec i s = loadOp op n cyc c s g) (h : Issues s c w) (hw : wOp w = op)
    (ha : memAddr s.cast[c] w % n = 0) (hreach : Within s.cast[c] (memAddr s.cast[c] w) n)
    (hread : Readable s.cast[c] (memAddr s.cast[c] w) n) :
    exec i s = .next (complete1 (fetched s c) c cyc fun h =>
      g (countFixed h (anyFixed h (wordsOf (memAddr s.cast[c] w) n))) w (readBytes h.mem (memAddr s.cast[c] w) n)) := by
  obtain ⟨e, he⟩ := fetched_get s c
  have hfault := accessFault_aligned (h := s.cast[c]) (xs := [memAddr s.cast[c] w])
    (fun x hx => List.mem_singleton.mp hx ▸ hreach) ha
  rw [hexec, loadOp, issue_issues h hw]
  simp only [he, memAddr_withEcc, accessFault_withEcc, anyBad_withEcc, hfault, anyBad_eq_false hread]
  rfl

end

/-- Settles O14: the fault of an access, by whether it lies in memory, within reach and aligned. -/
theorem accessFaults : Obligations.AccessFaults := by
  unfold Obligations.AccessFaults
  intro c s w hi hw h a faults
  refine ⟨fun haddr => (loadOp_faults (k := 0) (exec_vld c s) hi hw (accessFault_addr haddr)).trans rfl,
    fun hsize hreach => (loadOp_faults (k := 2) (exec_vld c s) hi hw (accessFault_ladle hsize hreach)).trans rfl,
    fun hreach halign => (loadOp_faults (k := 1) (exec_vld c s) hi hw ?_).trans rfl⟩
  rw [accessFault_within fun x hx => List.mem_singleton.mp hx ▸ hreach, if_pos halign]

section

variable {c : Fin 256} {s : State} {w : BitVec 64}

/-- The address that lane `n` of VLUT reads. -/
def lutAddr (h : Caster) (w : BitVec 64) : Nat → Nat := fun n => memAddr h w + 64 * (lane8 (vGet h (wB w)) n % 64) + n

/-- VLUT at an aligned address whose 64 bytes are within reach and can be read. -/
theorem execVlut_loads (h : Issues s c w) (hw : wOp w = 0x64) (ha : memAddr s.cast[c] w % 64 = 0)
    (hlanes : ∀ n, n < 64 → Within s.cast[c] (lutAddr s.cast[c] w n) 1 ∧
      (wordFlips s.cast[c] (lutAddr s.cast[c] w n / 8)).length ≤ 1) :
    exec (.vlut c) s = .next (complete1 (fetched s c) c 1 fun h =>
      vWrite (countFixed h (anyFixed h (((List.range 64).map (lutAddr s.cast[c] w)).map (· / 8)).eraseDups)) (wD w)
        (kGet h (wK w)) fun n => (tget 0 h.mem (lutAddr s.cast[c] w n)).toNat) := by
  obtain ⟨e, he⟩ := fetched_get s c
  have hfault : accessFault s.cast[c] false ((List.range 64).map (lutAddr s.cast[c] w)) 1 (memAddr s.cast[c] w) 64 = 0 := by
    refine accessFault_aligned (fun x hx => ?_) ha
    obtain ⟨n, hn, rfl⟩ := List.mem_map.mp hx
    exact (hlanes n (List.mem_range.mp hn)).1
  have hbad : anyBad s.cast[c] (((List.range 64).map (lutAddr s.cast[c] w)).map (· / 8)).eraseDups = false := by
    refine anyBad_eq_false fun wd hwd => ?_
    obtain ⟨x, hx, rfl⟩ := List.mem_map.mp (List.mem_eraseDups.mp hwd)
    obtain ⟨n, hn, rfl⟩ := List.mem_map.mp hx
    exact (hlanes n (List.mem_range.mp hn)).2
  unfold lutAddr at hfault hbad
  rw [exec_vlut, execVlut, issue_issues h hw]
  simp only [he, memAddr_withEcc, vGet_withEcc, accessFault_withEcc, anyBad_withEcc, hfault, hbad]
  rfl

/-- What a load under a mask leaves: the lanes of `vD` that `kK` sets, beside the count of corrected words. -/
theorem loaded_lanes (h : Caster) (d : Nat) (m : BitVec 64) (f : Nat → Byte) :
    ∃ x : BitVec 512, (∀ e k, vWrite (countFixed (withEcc h e) k) d m (fun n => (f n).toNat) =
        { countFixed (withEcc h e) k with v := vmodN h.v d fun _ => x }) ∧
      ∀ n, n < 64 → lane8 x n = if m.getLsbD n then (f n).toNat else lane8 (vGet h d) n := by
  obtain ⟨x, hx, hlanes⟩ := vWrite_lanes h d m fun n => (f n).toNat
  refine ⟨x, fun e k => congrArg (withEcc · (satAdd e k)) hx, fun n hn => ?_⟩
  rw [hlanes n hn, Nat.mod_eq_of_lt (f n).isLt]

/-- The words of a block of 256 bytes, for ALD. -/
theorem leAt_readBytes (m : Memory) (a : Nat) {n : Nat} (hn : n < 64) :
    leAt (readBytes m a 256) (4 * n) 4 = leNat (readBytes m (a + 4 * n) 4) := by
  obtain ⟨k, hk⟩ : ∃ k, 256 = 4 * n + (4 + k) := ⟨252 - 4 * n, by omega⟩
  rw [leAt, hk, drop_readBytes, take_readBytes]

end

/-- Settles O9: an aligned load within reach of readable words puts the bytes of memory into its register. -/
theorem loads : Obligations.Loads := by
  unfold Obligations.Loads
  intro c s w hi h a k fixed
  refine ⟨fun hw ha hreach hread => ?_, fun hw ha hreach hread => ?_, fun hw ha hreach hread => ?_, fun hw ha hlanes => ?_⟩
  · obtain ⟨x, hx, hlanes⟩ := loaded_lanes h (wD w) (kGet h (wK w)) fun n => byteAt (readBytes h.mem a 64) n
    refine ⟨x, (loadOp_loads (exec_vld c s) hi hw ha hreach hread).trans
      (congrArg Host.Outcome.next (complete1_congr fun e => hx e _)), fun n hn => ?_⟩
    rw [hlanes n hn, byteAt_readBytes h.mem hn]
  · refine (loadOp_loads (exec_sld c s) hi hw ha hreach hread).trans (congrArg Host.Outcome.next (complete1_congr fun e => ?_))
    exact congrArg (sSet _ (wD w)) (ofNat_leNat_four _ _ _ _)
  · obtain ⟨x, hx, hlanes⟩ := aWrite_lanes h (wAcc w) (kGet h (wK w)) fun n => leAt (readBytes h.mem a 256) (4 * n) 4
    refine ⟨x, (loadOp_loads (exec_ald c s) hi hw ha hreach hread).trans
      (congrArg Host.Outcome.next (complete1_congr fun e => congrArg (withEcc · (satAdd e _)) hx)), fun n hn => ?_⟩
    have hlt : leNat (readBytes h.mem (a + 4 * n) 4) < 2 ^ 32 := by
      simpa [length_readBytes] using leNat_lt (readBytes h.mem (a + 4 * n) 4)
    rw [hlanes n hn, leAt_readBytes h.mem a hn, Nat.mod_eq_of_lt hlt]
  · obtain ⟨x, hx, hout⟩ := loaded_lanes h (wD w) (kGet h (wK w)) fun n => tget 0 h.mem (lutAddr h w n)
    refine ⟨x, anyFixed h (((List.range 64).map (lutAddr h w)).map (· / 8)).eraseDups,
      (execVlut_loads hi hw ha hlanes).trans (congrArg Host.Outcome.next (complete1_congr fun e => ?_)), hout⟩
    rw [anyFixed_withEcc]
    exact hx e _

end Sys2Proof.Proofs
end

section
/-! PROOFS. The stores (R141 to R143, R147, R148): which bytes of local memory a store under enables leaves, and the counters of
VHIST. -/

namespace Sys2Proof.Proofs

open Sys2Proof Machine Safety Laws

/-! ### Bytes written under enables -/

theorem writeEnabled_append (m : Memory) (a : Nat) (k l : List (Option Byte)) :
    writeEnabled (fun _ => 0) m a (k ++ l) = writeEnabled (fun _ => 0) (writeEnabled (fun _ => 0) m a k) (a + k.length) l := by
  induction k generalizing m a with
  | nil => rfl
  | cons b r ih =>
    have hlen : a + (b :: r).length = a + 1 + r.length := by rw [List.length_cons, Nat.add_assoc, Nat.add_comm 1]
    cases b with
    | none => rw [hlen]; exact ih m (a + 1)
    | some b => rw [hlen]; exact ih _ (a + 1)

theorem writeEnabled_nothing (m : Memory) (a : Nat) {l : List (Option Byte)} (hl : ∀ b ∈ l, b = none) :
    writeEnabled (fun _ => 0) m a l = m := by
  induction l generalizing a with
  | nil => rfl
  | cons b r ih =>
    obtain ⟨rfl, hr⟩ := List.forall_mem_cons.mp hl
    exact ih (a + 1) hr

/-- The byte that stands at `y` once the enabled bytes of a list are written from `a`, where `old` stood. -/
def byteAfter (a : Nat) (l : List (Option Byte)) (y : Nat) (old : Byte) : Byte :=
  if a ≤ y then (l.getD (y - a) none).getD old else old

theorem tget_writeEnabled {m : Memory} (hm : Memory.wf m) (a : Nat) (l : List (Option Byte)) (y : Nat) :
    tget 0 (writeEnabled (fun _ => 0) m a l) y = byteAfter a l y (tget 0 m y) := by
  induction l generalizing m a with
  | nil => simp [writeEnabled, byteAfter]
  | cons b r ih =>
    have hstep : ∀ m' : Memory, (y ≠ a → tget 0 m' y = tget 0 m y) → (y = a → tget 0 m' y = b.getD (tget 0 m y)) →
        byteAfter (a + 1) r y (tget 0 m' y) = byteAfter a (b :: r) y (tget 0 m y) := by
      intro m' hne heq
      unfold byteAfter
      rcases Nat.lt_trichotomy y a with hlt | rfl | hgt
      · rw [if_neg (by omega), if_neg (by omega), hne (by omega)]
      · rw [if_neg (by omega), if_pos (Nat.le_refl y), heq rfl, Nat.sub_self, List.getD_cons_zero]
      · obtain ⟨k, rfl⟩ : ∃ k, y = a + 1 + k := ⟨y - (a + 1), by omega⟩
        rw [if_pos (by omega), if_pos (by omega), hne (by omega), show a + 1 + k - a = k + 1 by omega, List.getD_cons_succ,
          Nat.add_sub_cancel_left]
    cases b with
    | none => exact (ih hm (a + 1)).trans (hstep m (fun _ => rfl) fun _ => rfl)
    | some b =>
      refine (ih (tput_wf a b hm) (a + 1)).trans (hstep _ (fun hne => ?_) fun heq => ?_)
      · rw [tget_tput a y b hm, if_neg hne.symm]
      · rw [tget_tput a y b hm, if_pos heq.symm]; rfl

/-! ### Stores to local memory -/

/-- A caster after a store: its memory and its stored errors as given, `e` more errors corrected. -/
def stored (h : Caster) (m : Memory) (bad : Tab (List Nat)) (e : Nat) : Caster :=
  { h with mem := m, memBad := bad, eccCorr := satAdd h.eccCorr e }

theorem satAdd_zero {n : Nat} (v : BitVec n) : satAdd v 0 = v := by
  have hv := v.isLt
  rw [satAdd, Nat.add_zero, Nat.min_eq_right (by omega), BitVec.ofNat_toNat, BitVec.setWidth_eq]

theorem satAdd_satAdd {n : Nat} (v : BitVec n) (j k : Nat) : satAdd (satAdd v j) k = satAdd v (j + k) := by
  have hpos : 0 < 2 ^ n := Nat.two_pow_pos n
  refine BitVec.eq_of_toNat_eq ?_
  simp only [satAdd, BitVec.toNat_ofNat]
  rw [Nat.mod_eq_of_lt (by omega), Nat.mod_eq_of_lt (by omega), Nat.mod_eq_of_lt (by omega)]
  omega

theorem stored_self (h : Caster) : stored h h.mem h.memBad 0 = h := by rw [stored, satAdd_zero]

theorem stored_stored (h : Caster) (m m' : Memory) (bad bad' : Tab (List Nat)) (j k : Nat) :
    stored (stored h m bad j) m' bad' k = stored h m' bad' (j + k) := by simp only [stored, satAdd_satAdd]

/-- The enabled bytes of one word are written; the store may correct an error of the word and drops it. -/
theorem wordStore_stored (h : Caster) (wd : Nat) (l : List (Option Byte)) :
    ∃ bad e, wordStore h wd l = stored h (writeEnabled (fun _ => 0) h.mem (8 * wd) l) bad e := by
  unfold wordStore
  split
  · next hnone =>
    refine ⟨h.memBad, 0, ?_⟩
    rw [writeEnabled_nothing _ _ fun b hb => Option.isNone_iff_eq_none.mp (List.all_eq_true.mp hnone b hb), stored_self]
  · simp only
    split
    · exact ⟨_, 1, rfl⟩
    · exact ⟨_, 0, by rw [stored, satAdd_zero]⟩

/-- Words stored one after the other write the enabled bytes of the whole. -/
theorem wordStores_stored (h : Caster) (wd k : Nat) {l : List (Option Byte)} (hl : l.length ≤ 8 * k) :
    ∃ bad e, wordStores h wd k l = stored h (writeEnabled (fun _ => 0) h.mem (8 * wd) l) bad e := by
  induction k generalizing h wd l with
  | zero =>
    obtain rfl : l = [] := List.eq_nil_of_length_eq_zero (by omega)
    exact ⟨h.memBad, 0, (stored_self h).symm⟩
  | succ k ih =>
    obtain ⟨bad, e, hfirst⟩ := wordStore_stored h wd (l.take 8)
    obtain ⟨bad', e', hrest⟩ := ih (stored h (writeEnabled (fun _ => 0) h.mem (8 * wd) (l.take 8)) bad e) (wd + 1)
      (l := l.drop 8) (by rw [List.length_drop]; omega)
    refine ⟨bad', e + e', ?_⟩
    rw [wordStores, hfirst, hrest, stored_stored]
    congr 1
    by_cases h8 : 8 ≤ l.length
    · have hparts := writeEnabled_append h.mem (8 * wd) (l.take 8) (l.drop 8)
      rw [List.take_append_drop, List.length_take, Nat.min_eq_left h8] at hparts
      exact hparts.symm
    · rw [List.take_of_length_le (by omega), List.drop_of_length_le (by omega)]
      rfl

/-- Every word, from word `wd` on, that a list of bytes under enables covers in part can be read (R143). -/
def Mergeable (h : Caster) (wd : Nat) (l : List (Option Byte)) : Prop :=
  ∀ j, (wordFlips h (wd + j)).length ≤ 1 ∨ (∀ b ∈ (l.drop (8 * j)).take 8, b.isSome = false) ∨
    (8 * j + 8 ≤ l.length ∧ ∀ b ∈ (l.drop (8 * j)).take 8, b.isSome = true)

theorem Mergeable.drop {h : Caster} {wd : Nat} {l : List (Option Byte)} (hm : Mergeable h wd l) :
    Mergeable h (wd + 1) (l.drop 8) := by
  intro j
  have hj := hm (j + 1)
  rw [List.drop_drop, List.length_drop, Nat.add_assoc, Nat.add_comm 1, Nat.add_comm 8]
  exact hj.imp_right (Or.imp_right fun ⟨hlen, hb⟩ => ⟨by omega, hb⟩)

theorem mergeBad_eq_false {h : Caster} {wd : Nat} {l : List (Option Byte)} (hm : Mergeable h wd l) (k : Nat) :
    mergeBad h wd k l = false := by
  induction k generalizing wd l with
  | zero => rfl
  | succ k ih =>
    rw [mergeBad, ih hm.drop, Bool.or_false]
    have h0 := hm 0
    rw [Nat.mul_zero, List.drop_zero, Nat.add_zero, Nat.zero_add] at h0
    rcases h0 with hread | hnone | ⟨hlen, hall⟩
    · rw [decide_eq_false (Nat.not_le.mpr (Nat.lt_succ_of_le hread)), Bool.and_false]
    · rw [List.any_eq_false.mpr fun b hb => Bool.eq_false_iff.mp (hnone b hb), Bool.false_and, Bool.false_and]
    · rw [List.all_eq_true.mpr hall, List.length_take, Nat.min_eq_left (by omega)]
      simp

/-- A store whose words in part can be read writes the enabled bytes from `a`. -/
theorem localStore_stored {h : Caster} {a : Nat} {l : List (Option Byte)}
    (hm : Mergeable h (a / 8) (List.replicate (a % 8) none ++ l)) :
    ∃ bad e, localStore h a l = some (stored h (writeEnabled (fun _ => 0) h.mem a l) bad e) := by
  obtain ⟨bad, e, hst⟩ := wordStores_stored h (a / 8) (((List.replicate (a % 8) none ++ l).length + 7) / 8)
    (l := List.replicate (a % 8) none ++ l) (by omega)
  refine ⟨bad, e, ?_⟩
  rw [localStore, mergeBad_eq_false hm, if_neg Bool.false_ne_true, hst, writeEnabled_append,
    writeEnabled_nothing _ _ fun b hb => List.eq_of_mem_replicate hb, List.length_replicate, Nat.div_add_mod]

/-! ### When a store can be merged -/

/-- Words that can all be read. -/
theorem mergeable_readable {h : Caster} {a : Nat} {l : List (Option Byte)} (hread : Readable h a l.length) :
    Mergeable h (a / 8) (List.replicate (a % 8) none ++ l) := by
  intro j
  by_cases hj : j < (a + l.length + 7) / 8 - a / 8
  · exact .inl (hread _ (List.mem_map.mpr ⟨j, List.mem_range.mpr hj, rfl⟩))
  · refine .inr (.inl fun b hb => ?_)
    rw [List.drop_of_length_le (by rw [List.length_append, List.length_replicate]; omega)] at hb
    cases hb

/-- Whole words. -/
theorem mergeable_whole {h : Caster} {a : Nat} {l : List Byte} (ha : a % 8 = 0) (hl : l.length % 8 = 0) :
    Mergeable h (a / 8) (List.replicate (a % 8) none ++ l.map some) := by
  intro j
  rw [ha, List.replicate_zero, List.nil_append]
  by_cases hj : 8 * j + 8 ≤ l.length
  · refine .inr (.inr ⟨by rwa [List.length_map], fun b hb => ?_⟩)
    obtain ⟨x, -, rfl⟩ := List.mem_map.mp (List.mem_of_mem_drop (List.mem_of_mem_take hb))
    rfl
  · refine .inr (.inl fun b hb => ?_)
    rw [List.drop_of_length_le (by rw [List.length_map]; omega)] at hb
    cases hb

/-- The bytes of one word of a list given by a function. -/
theorem mem_chunk {α : Type} {f : Nat → α} {n j : Nat} {x : α} (hx : x ∈ (((List.range n).map f).drop (8 * j)).take 8) :
    ∃ i, i < 8 ∧ 8 * j + i < n ∧ x = f (8 * j + i) := by
  obtain ⟨i, hi, rfl⟩ := List.mem_iff_getElem.mp hx
  rw [List.length_take, List.length_drop, List.length_map, List.length_range] at hi
  exact ⟨i, by omega, by omega, by simp⟩

/-- Bytes enabled by a mask: a word that cannot be read is enabled whole or not at all. -/
theorem mergeable_masked {h : Caster} {a n : Nat} {k : Nat → Bool} {f : Nat → Byte} (ha : a % 8 = 0)
    (hk : ∀ j, j < n → (wordFlips h (a / 8 + j)).length ≤ 1 ∨ (∀ i, i < 8 → k (8 * j + i) = true) ∨
      ∀ i, i < 8 → k (8 * j + i) = false) :
    Mergeable h (a / 8) (List.replicate (a % 8) none ++
      (List.range (8 * n)).map fun i => if k i then some (f i) else none) := by
  intro j
  rw [ha, List.replicate_zero, List.nil_append]
  by_cases hj : j < n
  · rcases hk j hj with hread | hall | hnone
    · exact .inl hread
    · refine .inr (.inr ⟨by rw [List.length_map, List.length_range]; omega, fun b hb => ?_⟩)
      obtain ⟨i, hi, -, rfl⟩ := mem_chunk hb
      rw [hall i hi]
      rfl
    · refine .inr (.inl fun b hb => ?_)
      obtain ⟨i, hi, -, rfl⟩ := mem_chunk hb
      rw [hnone i hi]
      rfl
  · refine .inr (.inl fun b hb => ?_)
    obtain ⟨i, -, hi, -⟩ := mem_chunk hb
    omega

/-! ### The bytes of a store -/

theorem leBytes_getElem? (len v i : Nat) :
    (leBytes len v)[i]? = if i < len then some (BitVec.ofNat 8 (v / 256 ^ i)) else none := by
  induction len generalizing v i with
  | zero => rfl
  | succ len ih =>
    cases i with
    | zero => simp [leBytes]
    | succ i => simp [leBytes, ih, Nat.pow_succ', Nat.div_div_eq_div_mul]

theorem length_leBytes (len v : Nat) : (leBytes len v).length = len := by
  induction len generalizing v with
  | zero => rfl
  | succ len ih => rw [leBytes, List.length_cons, ih]

theorem ofNat_byte {n : Nat} (v : BitVec n) (i : Nat) : BitVec.ofNat 8 (v.toNat / 256 ^ i) = v.extractLsb' (8 * i) 8 :=
  BitVec.eq_of_toNat_eq (by simp [Nat.shiftRight_eq_div_pow, Nat.pow_mul])

/-- What stands at `y` once the bytes of a word are stored at `a`. -/
theorem byteAfter_word {n : Nat} (v : BitVec n) (len a y : Nat) (old : Byte) :
    byteAfter a ((leBytes len v.toNat).map some) y old =
      if a ≤ y ∧ y < a + len then v.extractLsb' (8 * (y - a)) 8 else old := by
  unfold byteAfter
  by_cases ha : a ≤ y
  · rw [if_pos ha, List.getD_eq_getElem?_getD, List.getElem?_map, leBytes_getElem?, ← ofNat_byte]
    by_cases hy : y < a + len
    · rw [if_pos (by omega), if_pos ⟨ha, hy⟩]
      rfl
    · rw [if_neg (by omega), if_neg fun h => hy h.2]
      rfl
  · rw [if_neg ha, if_neg fun h => ha h.1]

/-- What stands at `y` once the bytes that a mask enables are stored at `a`. -/
theorem byteAfter_masked (k : Nat → Bool) (f : Nat → Byte) (n a y : Nat) (old : Byte) :
    byteAfter a ((List.range n).map fun i => if k i then some (f i) else none) y old =
      if a ≤ y ∧ y < a + n ∧ k (y - a) = true then f (y - a) else old := by
  unfold byteAfter
  by_cases ha : a ≤ y ∧ y < a + n
  · obtain ⟨ha, hn⟩ := ha
    rw [if_pos ha, List.getD_eq_getElem?_getD, List.getElem?_map, List.getElem?_range (by omega)]
    by_cases hk : k (y - a) = true
    · rw [if_pos ⟨ha, hn, hk⟩]
      simp [hk]
    · rw [if_neg fun h => hk h.2.2]
      simp [hk]
  · rw [if_neg (c := a ≤ y ∧ y < a + n ∧ k (y - a) = true) fun h => ha ⟨h.1, h.2.1⟩]
    split
    · rw [List.getD_eq_getElem?_getD, List.getElem?_eq_none (by rw [List.length_map, List.length_range]; omega)]
      rfl
    · rfl

/-! ### The store instructions -/

section

variable {i : Instr} {op n cyc : Nat} {c : Fin 256} {s : State} {w : BitVec 64} {g : Caster → BitVec 64 → List (Option Byte)}
  {f : Nat → Byte}

/-- Two changes that agree on the caster as it stands are one. -/
theorem modCast_congr {t : State} {f g : Caster → Caster} (h : f t.cast[c] = g t.cast[c]) : t.modCast c f = t.modCast c g := by
  simp only [State.modCast, vmod, h]

theorem storeOp_stores (hexec : exec i s = storeOp op n cyc c s g) (h : Issues s c w) (hw : wOp w = op)
    (hwf : Memory.wf s.cast[c].mem) (ha : memAddr s.cast[c] w % n = 0) (hreach : Within s.cast[c] (memAddr s.cast[c] w) n)
    (hg : ∀ e, g (withEcc s.cast[c] e) w = g s.cast[c] w)
    (hm : Mergeable s.cast[c] (memAddr s.cast[c] w / 8) (List.replicate (memAddr s.cast[c] w % 8) none ++ g s.cast[c] w))
    (hf : ∀ y, byteAfter (memAddr s.cast[c] w) (g s.cast[c] w) y (tget 0 s.cast[c].mem y) = f y) :
    StoreResult i s c cyc f := by
  obtain ⟨e, he⟩ := fetched_get s c
  have hfault := accessFault_aligned (h := s.cast[c]) (xs := [memAddr s.cast[c] w])
    (fun x hx => List.mem_singleton.mp hx ▸ hreach) ha
  obtain ⟨bad, k, hst⟩ := localStore_stored (h := withEcc s.cast[c] e) hm
  refine ⟨_, bad, k, ?_, fun y => (tget_writeEnabled hwf (memAddr s.cast[c] w) (g s.cast[c] w) y).trans (hf y)⟩
  rw [hexec, storeOp, issue_issues h hw]
  simp only [he, memAddr_withEcc, accessFault_withEcc, hfault, hg, hst]
  exact congrArg Host.Outcome.next (modCast_congr (by rw [he]; rfl))

end

/-! ### VHIST -/

theorem leNat_leBytes (len v : Nat) : leNat (leBytes len v) = v % 256 ^ len := by
  induction len generalizing v with
  | zero => rw [Nat.pow_zero, Nat.mod_one]; rfl
  | succ len ih =>
    rw [leBytes, leNat, ih, BitVec.toNat_ofNat]
    exact (Nat.mod_mul ..).symm.trans (congrArg (v % ·) Nat.pow_succ'.symm)

/-- The bytes of a list are those of its number. -/
theorem byteAt_leNat (l : List Byte) (i : Nat) : byteAt l i = BitVec.ofNat 8 (leNat l / 256 ^ i) := by
  induction l generalizing i with
  | nil => simp [byteAt, leNat]
  | cons b r ih =>
    cases i with
    | zero =>
      refine BitVec.eq_of_toNat_eq ?_
      have hb := b.isLt
      simp only [byteAt, List.getD_cons_zero, leNat, BitVec.toNat_ofNat, Nat.pow_zero, Nat.div_one]
      omega
    | succ i =>
      have hb := b.isLt
      have hdiv : (b.toNat + 256 * leNat r) / 256 = leNat r := by omega
      rw [leNat, Nat.pow_succ', ← Nat.div_div_eq_div_mul, hdiv, ← ih i]
      rfl

/-- Bytes that stand one after the other. -/
theorem readBytes_eq {m : Memory} {a : Nat} {l : List Byte} (h : ∀ i, i < l.length → tget 0 m (a + i) = byteAt l i) :
    readBytes m a l.length = l := by
  induction l generalizing a with
  | nil => rfl
  | cons b r ih =>
    have hrest : readBytes m (a + 1) r.length = r :=
      ih fun i hi => by rw [Nat.add_assoc, Nat.add_comm 1]; exact h (i + 1) (Nat.succ_lt_succ hi)
    rw [List.length_cons, readBytes, hrest]
    exact congrArg (· :: r) (h 0 (Nat.succ_pos _))

/-- A byte as a byte of the 32-bit word that it stands in. -/
theorem tget_eq_word (m : Memory) (y : Nat) :
    tget 0 m y = BitVec.ofNat 8 (leNat (readBytes m (y / 4 * 4) 4) / 256 ^ (y % 4)) := by
  rw [← byteAt_leNat, byteAt_readBytes m (Nat.mod_lt _ (by decide)), Nat.div_add_mod']

/-- The 32-bit word at an address counts one. -/
def countOne (m : Memory) (x : Nat) : Memory := writeBytes m x (leBytes 4 (leNat (readBytes m x 4) + 1))

theorem countOne_word {m : Memory} (hm : Memory.wf m) {x z : Nat} (hx : x % 4 = 0) (hz : z % 4 = 0) :
    leNat (readBytes (countOne m x) z 4) = (leNat (readBytes m z 4) + if x = z then 1 else 0) % 256 ^ 4 := by
  have hbyte := tget_writeBytes x (leBytes 4 (leNat (readBytes m x 4) + 1)) hm
  rw [length_leBytes] at hbyte
  by_cases hxz : x = z
  · subst hxz
    have hnew : readBytes (countOne m x) x (leBytes 4 (leNat (readBytes m x 4) + 1)).length = _ :=
      readBytes_eq fun i hi => by
        rw [length_leBytes] at hi
        rw [countOne, hbyte, if_pos (by omega), Nat.add_sub_cancel_left]
    rw [length_leBytes] at hnew
    rw [hnew, if_pos rfl, leNat_leBytes]
  · have hold : readBytes (countOne m x) z (readBytes m z 4).length = _ := readBytes_eq fun i hi => by
      rw [length_readBytes] at hi
      rw [countOne, hbyte, if_neg (by omega), byteAt_readBytes m hi]
    have hlt := leNat_lt (readBytes m z 4)
    rw [length_readBytes] at hold hlt
    rw [hold, if_neg hxz, Nat.add_zero, Nat.mod_eq_of_lt hlt]

/-- Words that count one after the other: each counts as often as it is named, modulo 2^32. -/
theorem foldl_countOne_word {m : Memory} (hm : Memory.wf m) {xs : List Nat} (hxs : ∀ x ∈ xs, x % 4 = 0) {z : Nat}
    (hz : z % 4 = 0) : leNat (readBytes (xs.foldl countOne m) z 4) = (leNat (readBytes m z 4) + xs.count z) % 256 ^ 4 := by
  induction xs generalizing m with
  | nil =>
    have hlt := leNat_lt (readBytes m z 4)
    rw [length_readBytes] at hlt
    exact (Nat.mod_eq_of_lt hlt).symm
  | cons x r ih =>
    obtain ⟨hx, hr⟩ := List.forall_mem_cons.mp hxs
    rw [List.foldl_cons, ih (m := countOne m x) (writeBytes_wf _ _ hm) hr, countOne_word hm hx hz, Nat.mod_add_mod,
      List.count_cons]
    simp only [beq_iff_eq, Nat.add_assoc, Nat.add_comm]

/-- A byte after words have counted. -/
theorem tget_foldl_countOne {m : Memory} (hm : Memory.wf m) {xs : List Nat} (hxs : ∀ x ∈ xs, x % 4 = 0) (y : Nat) :
    tget 0 (xs.foldl countOne m) y = if xs.count (y / 4 * 4) = 0 then tget 0 m y
      else BitVec.ofNat 8 ((leNat (readBytes m (y / 4 * 4) 4) + xs.count (y / 4 * 4)) / 256 ^ (y % 4)) := by
  have hlt : y % 4 < 4 := Nat.mod_lt _ (by decide)
  have hword : tget 0 (xs.foldl countOne m) y =
      BitVec.ofNat 8 ((leNat (readBytes m (y / 4 * 4) 4) + xs.count (y / 4 * 4)) / 256 ^ (y % 4)) := by
    rw [tget_eq_word, foldl_countOne_word hm hxs (Nat.mul_mod_left _ _)]
    refine BitVec.eq_of_toNat_eq ?_
    simp only [BitVec.toNat_ofNat]
    exact place_mod hlt
  rw [hword]
  split
  · next h0 => rw [h0, Nat.add_zero, ← tget_eq_word]
  · rfl

/-- The counter of VHIST that lane `n` names. -/
def histAddr (h : Caster) (w : BitVec 64) : Nat → Nat := fun n => memAddr h w + 4 * lane8 (vGet h (wB w)) n

/-- The counters that the lanes set in `kK` name, lane by lane. -/
def histAddrs (h : Caster) (w : BitVec 64) : List Nat := (setLanes (kGet h (wK w))).map (histAddr h w)

/-- The words of local memory that hold them. -/
def histWords (h : Caster) (w : BitVec 64) : List Nat := ((histAddrs h w).map (· / 8)).eraseDups

theorem mem_histAddrs {h : Caster} {w : BitVec 64} {x : Nat} (hx : x ∈ histAddrs h w) :
    ∃ n, n < 64 ∧ (kGet h (wK w)).getLsbD n = true ∧ histAddr h w n = x := by
  obtain ⟨n, hn, hx⟩ := List.mem_map.mp hx
  obtain ⟨hn, hk⟩ := List.mem_filter.mp hn
  exact ⟨n, List.mem_range.mp hn, hk, hx⟩

/-- How many lanes name the counter at an address. -/
theorem count_histAddrs (h : Caster) (w : BitVec 64) (z : Nat) :
    (histAddrs h w).count z =
      (List.range 64).countP fun n => (kGet h (wK w)).getLsbD n && decide (histAddr h w n = z) := by
  rw [List.count, histAddrs, List.countP_map, setLanes, List.countP_filter]
  refine List.countP_congr fun n _ => ?_
  simp [and_comm]

section

variable {c : Fin 256} {s : State} {w : BitVec 64}

theorem execVhist_counts (h : Issues s c w) (hw : wOp w = 0x65) (ha : memAddr s.cast[c] w % 64 = 0)
    (hlanes : ∀ n, n < 64 → (kGet s.cast[c] (wK w)).getLsbD n = true → Within s.cast[c] (histAddr s.cast[c] w n) 4 ∧
      (wordFlips s.cast[c] (histAddr s.cast[c] w n / 8)).length ≤ 1) :
    exec (.vhist c) s = .next (complete1 (fetched s c) c 8 fun h => stored h
      ((histAddrs s.cast[c] w).foldl countOne s.cast[c].mem)
      (tdrop (fun wd => (histWords s.cast[c] w).contains wd) s.cast[c].memBad)
      (anyFixed s.cast[c] (histWords s.cast[c] w))) := by
  obtain ⟨e, he⟩ := fetched_get s c
  have hfault : accessFault s.cast[c] false (histAddrs s.cast[c] w) 4 (memAddr s.cast[c] w) 64 = 0 := by
    refine accessFault_aligned (fun x hx => ?_) ha
    obtain ⟨n, hn, hk, rfl⟩ := mem_histAddrs hx
    exact (hlanes n hn hk).1
  have hbad : anyBad s.cast[c] (histWords s.cast[c] w) = false := by
    refine anyBad_eq_false fun wd hwd => ?_
    obtain ⟨x, hx, rfl⟩ := List.mem_map.mp (List.mem_eraseDups.mp hwd)
    obtain ⟨n, hn, hk, rfl⟩ := mem_histAddrs hx
    exact (hlanes n hn hk).2
  unfold histWords at hbad
  unfold histAddrs histAddr at hfault hbad
  rw [exec_vhist, execVhist, issue_issues h hw]
  simp only [he, memAddr_withEcc, kGet_withEcc, vGet_withEcc, accessFault_withEcc, anyBad_withEcc, hfault, hbad]
  exact congrArg Host.Outcome.next (complete1_congr fun _ => rfl)

end

/-- Settles O10: the bytes that a store's enables name are written, and a counter of VHIST counts each lane that names it. -/
theorem stores : Obligations.Stores := by
  unfold Obligations.Stores
  intro c s w hi h a k hwf
  refine ⟨fun hw ha hreach hread => ?_, fun hw ha hreach hread => ?_, fun hw ha hreach => ?_, fun hw ha hlanes => ?_⟩
  · have ha8 : a % 8 = 0 := by omega
    exact storeOp_stores (exec_vst c s) hi hw hwf ha hreach (fun _ => rfl) (mergeable_masked (n := 8) ha8 hread)
      fun y => byteAfter_masked k _ 64 a y _
  · exact storeOp_stores (exec_sst c s) hi hw hwf ha hreach (fun _ => rfl)
      (mergeable_readable (by rw [List.length_map, length_leBytes]; exact hread)) fun y => byteAfter_word (sGet h (wD w)) 4 a y _
  · have ha8 : a % 8 = 0 := by omega
    exact storeOp_stores (exec_ast c s) hi hw hwf ha hreach (fun _ => rfl)
      (mergeable_whole ha8 (by rw [length_leBytes])) fun y => byteAfter_word (aGet h (wAcc w)) 256 a y _
  · have hxs : ∀ x ∈ histAddrs h w, x % 4 = 0 := by
      intro x hx
      obtain ⟨n, -, -, rfl⟩ := mem_histAddrs hx
      have ha4 : memAddr h w % 4 = 0 := Nat.mod_mod_of_dvd (memAddr h w) (by decide : 4 ∣ 64) ▸ congrArg (· % 4) ha
      unfold histAddr
      omega
    refine ⟨_, _, _, execVhist_counts hi hw ha hlanes, fun y => (tget_foldl_countOne hwf hxs y).trans ?_⟩
    rw [count_histAddrs]
    rfl

end Sys2Proof.Proofs
end

section
/-! PROOFS. The work-item instructions (R157 to R162) and the DMA and wait instructions (R148 to R150) of a caster that issues
them. -/

namespace Sys2Proof.Proofs

open Sys2Proof Machine Safety Laws

/-! ### Work items -/

/-- Reading the word changes nothing of the scheduler. -/
theorem fetched_sch (s : State) (c : Fin 256) : (fetched s c).sch = s.sch := by
  unfold fetched
  split
  · exact modCast_sch s c _
  · rfl

theorem opRec_fetched (s : State) (c : Fin 256) (op : Nat) : opRec (fetched s c) op = opRec s op := by
  simp only [opRec, fetched_sch]

section

variable {c : Fin 256} {s : State} {w : BitVec 64}

/-- A bit at its place, as TAKE puts the error bit above the length of the window. -/
theorem b2n_mul (b : Bool) (n : Nat) : b2n b * n = if b then n else 0 := by cases b <;> simp [b2n]

theorem execTake_takes (h : Issues s c w) (hw : wOp w = 0x80) (hcur : curSlot s.cast[c] = none) {i : Fin 2}
    (hold : oldestSlot s.cast[c] = some i) (hready : s.cast[c].slots[i].state = .ready) :
    exec (.take c) s = .next (complete1 (fetched s c) c 1 fun g =>
      sSet (sSet (vSet { g with slots := vmod g.slots i fun x => { x with state := .current }, sent := 0 } (wD w)
        s.cast[c].slots[i].item) (wA w) (BitVec.ofNat 32 (winBase i))) (wA w + 1)
        (BitVec.ofNat 32 (s.cast[c].slots[i].winLen % 2 ^ 14 + b2n s.cast[c].slots[i].winErr * 2 ^ 31))) := by
  obtain ⟨e, he⟩ := fetched_get s c
  rw [exec_take, execTake, issue_issues h hw]
  simp only [he, curSlot_withEcc, oldestSlot_withEcc, withEcc_slots, hcur, hold, hready]
  rfl

/-- A result enters the output half while it holds fewer than four. -/
theorem sendResult_sends {kind : OutKind} {op : Nat} {i : Fin 2} (hroom : resultsWaiting s.cast[c] < 4) :
    sendResult (fetched s c) c w kind op i = complete1 (fetched s c) c 1 fun g =>
      { g with sent := g.sent + 1, outHalf := g.outHalf ++ [⟨kind, itFlow s.cast[c].slots[i].item, s.cast[c].slots[i].oid,
          setOp (resultItem s.cast[c].slots[i].item (vGet s.cast[c] (wA w))) op⟩] } := by
  obtain ⟨e, he⟩ := fetched_get s c
  rw [sendResult]
  simp only [he, resultsWaiting_withEcc, if_neg (Nat.not_le.mpr hroom)]
  exact complete1_congr fun _ => rfl

theorem execEmit_sends (h : Issues s c w) (hw : wOp w = 0x81) {i : Fin 2} (hcur : curSlot s.cast[c] = some i)
    (hsent : s.cast[c].sent < 16) :
    exec (.emit c) s = .next (sendResult (fetched s c) c w .emit (itOp s.cast[c].slots[i].item) i) := by
  obtain ⟨e, he⟩ := fetched_get s c
  rw [exec_emit, execEmit, issue_issues h hw]
  simp only [he, curSlot_withEcc, withEcc_slots, withEcc_sent, hcur, if_neg (Nat.not_le.mpr hsent)]

theorem execPass_sends (h : Issues s c w) (hw : wOp w = 0x82) {i : Fin 2} {op : Nat} (hcur : curSlot s.cast[c] = some i)
    (hedge : vget none (opRec s (itOp s.cast[c].slots[i].item)).edges (wImm w % 8) = some op) (hsent : s.cast[c].sent < 16) :
    exec (.pass c) s = .next (sendResult (fetched s c) c w (.pass (wImm w % 8)) op i) := by
  obtain ⟨e, he⟩ := fetched_get s c
  rw [exec_pass, execPass, issue_issues h hw]
  simp only [he, curSlot_withEcc, withEcc_slots, withEcc_sent, hcur, opRec_fetched, hedge, if_neg (Nat.not_le.mpr hsent)]

theorem execDone_completes (h : Issues s c w) (hw : wOp w = 0x83) {i : Fin 2} (hcur : curSlot s.cast[c] = some i)
    (hbusy : anyBusy s.cast[c] = false) (hwaits : completionWaits s.cast[c] = false) :
    exec (.done c) s = .next (complete1 (fetched s c) c 1 fun g =>
      { g with items := g.items + 1, slots := vmod g.slots i fun x => { x with state := .empty },
               outHalf := g.outHalf ++ [⟨.completion, itFlow s.cast[c].slots[i].item, s.cast[c].slots[i].oid,
                 s.cast[c].slots[i].item⟩] }) := by
  obtain ⟨e, he⟩ := fetched_get s c
  rw [exec_done, execDone, issue_issues h hw]
  simp only [he, curSlot_withEcc, anyBusy_withEcc, completionWaits_withEcc, hcur, hbusy, hwaits, Bool.or_self,
    if_neg Bool.false_ne_true]
  exact congrArg Host.Outcome.next (complete1_congr fun _ => rfl)

end

/-- Settles O11: by the rules of its five rows. -/
theorem workItemInstructions : Obligations.WorkItemInstructions := by
  unfold Obligations.WorkItemInstructions
  intro c s w hi h
  refine ⟨fun hw hcur i hold hready => ?_, fun hw i hcur hsent hroom => ?_, fun hw i op hcur hedge hsent hroom => ?_,
    fun hw i hcur hbusy hwaits => execDone_completes hi hw hcur hbusy hwaits, fun hw => ?_⟩
  · rw [execTake_takes hi hw hcur hold hready, b2n_mul]
    rfl
  · exact (execEmit_sends hi hw hcur hsent).trans (congrArg Host.Outcome.next (sendResult_sends hroom))
  · exact (execPass_sends hi hw hcur hedge hsent).trans (congrArg Host.Outcome.next (sendResult_sends hroom))
  · rw [exec_trap, execTrap, issue_issues hi hw]
    have hcode : BitVec.ofNat 16 (wImm w % 2 ^ 16) = BitVec.ofNat 16 (wImm w) := BitVec.eq_of_toNat_eq (by simp)
    simp only [takeFault, if_true, hcode]
    rfl

/-! ### Waits and DMA -/

/-- A transfer that begins may only reach the general area (R147, R149). -/
theorem accessFault_dma {h : Caster} {x n align : Nat} (hreach : x + n ≤ 0x1C000) (halign : x % align = 0) :
    accessFault h true [x] n x align = 0 := by
  have haddr : ¬0x20000 < x + n := by omega
  have hladle : ¬0x1C000 < x + n := Nat.not_lt.mpr hreach
  simp only [accessFault, ladleBreach, List.any_cons, List.any_nil, decide_eq_false haddr, decide_eq_false hladle,
    Bool.false_and, Bool.or_false, halign]
  rfl

theorem mem_bitsOf {n m k : Nat} : k ∈ bitsOf n m ↔ k < n ∧ m.testBit k = true := by
  rw [bitsOf, List.mem_filter, List.mem_range]

theorem testBit_maskOf (l : List Nat) (k : Nat) : (maskOf l).testBit k = decide (k ∈ l) := by
  suffices h : ∀ m, (l.foldl (fun m k => m ||| 2 ^ k) m).testBit k = (m.testBit k || decide (k ∈ l)) by
    rw [maskOf, h 0, Nat.zero_testBit, Bool.false_or]
  induction l with
  | nil => simp
  | cons i r ih =>
    intro m
    rw [List.foldl_cons, ih, Nat.testBit_or, Nat.testBit_two_pow]
    simp [Bool.or_assoc, eq_comm]

theorem vget_fin {α : Type} {n : Nat} (d : α) (v : Vector α n) (i : Fin n) : vget d v i.val = v[i] := dif_pos i.isLt

/-- The mask of the tags with a property, as DTEST gives it. -/
def tagMask (tags : Vector Tag 8) (p : Tag → Bool) : Nat := maskOf ((List.range 8).filter fun t => p (vget ({} : Tag) tags t))

theorem testBit_tagMask (tags : Vector Tag 8) (p : Tag → Bool) (k : Nat) :
    (tagMask tags p).testBit k = (decide (k < 8) && p (vget ({} : Tag) tags k)) := by
  rw [tagMask, testBit_maskOf]
  simp

theorem tagMask_lt (tags : Vector Tag 8) (p : Tag → Bool) : tagMask tags p < 2 ^ 8 := by
  refine Nat.lt_pow_two_of_testBit _ fun k hk => ?_
  rw [testBit_tagMask, decide_eq_false (Nat.not_lt.mpr hk), Bool.false_and]

section

variable {i : Instr} {op : Nat} {c : Fin 256} {s : State} {w : BitVec 64}

/-- A transfer on multiples of 64 outside the ladle makes its idle tag busy. -/
theorem dmaOp_begins {push : Bool} (hexec : exec i s = dmaOp op push c s) (h : Issues s c w) (hw : wOp w = op)
    (hloc : (sGet s.cast[c] (wA w)).toNat % 64 = 0) (hext : extAddr s.cast[c] w % 64 = 0)
    (hreach : (sGet s.cast[c] (wA w)).toNat + wImm w % 2 ^ 17 ≤ 0x1C000)
    (hidle : (vget ({} : Tag) s.cast[c].tags (wD w % 8)).busy = none) :
    exec i s = .next (complete1 (fetched s c) c 1 fun g =>
      { g with tags := vmodN g.tags (wD w % 8) fun _ =>
          { busy := some ⟨push, extAddr s.cast[c] w, (sGet s.cast[c] (wA w)).toNat, wImm w % 2 ^ 17⟩ } }) := by
  obtain ⟨e, he⟩ := fetched_get s c
  rw [hexec, dmaOp, issue_issues h hw]
  simp only [he, sGet_withEcc, extAddr_withEcc, withEcc_tags, accessFault_dma hreach hloc, hext, hidle, Option.isSome_none,
    if_neg Bool.false_ne_true, ne_eq, not_true_eq_false, if_false]

theorem execDwait_goesOn (h : Issues s c w) (hw : wOp w = 0x72)
    (hidle : ∀ t : Fin 8, (wImm w).testBit t.val = true → s.cast[c].tags[t].busy = none) :
    exec (.dwait c) s = .next (complete1 (fetched s c) c 1 id) := by
  obtain ⟨e, he⟩ := fetched_get s c
  have hnone : ((bitsOf 8 (wImm w % 256)).any fun t => (vget ({} : Tag) s.cast[c].tags t).busy.isSome) = false := by
    rw [List.any_eq_false]
    intro t ht
    obtain ⟨h8, hbit⟩ := mem_bitsOf.mp ht
    rw [show 256 = 2 ^ 8 from rfl, Nat.testBit_mod_two_pow, Bool.and_eq_true] at hbit
    rw [vget_fin ({} : Tag) s.cast[c].tags ⟨t, h8⟩, hidle ⟨t, h8⟩ hbit.2]
    exact Bool.false_ne_true
  rw [exec_dwait, execDwait, issue_issues h hw]
  simp only [he, withEcc_tags, hnone, if_neg Bool.false_ne_true]

/-- DTEST gives the done bits of the tags and, eight places higher, their error bits. -/
theorem execDtest_bits (h : Issues s c w) (hw : wOp w = 0x73) :
    ∃ x : BitVec 32, ScalarResult (.dtest c) s c w x ∧ ∀ t : Fin 8,
      x.getLsbD t.val = s.cast[c].tags[t].done ∧
        x.getLsbD (8 + t.val) = (s.cast[c].tags[t].done && s.cast[c].tags[t].err) := by
  refine ⟨BitVec.ofNat 32 (tagMask s.cast[c].tags (fun t => t.done) + 2 ^ 8 * tagMask s.cast[c].tags fun t => t.done && t.err),
    scalarResult_issues (exec_dtest c s) h hw fun e => rfl, fun t => ?_⟩
  have ht := t.isLt
  rw [Nat.add_comm, BitVec.getLsbD_ofNat, BitVec.getLsbD_ofNat, Nat.testBit_two_pow_mul_add _ (tagMask_lt _ _),
    Nat.testBit_two_pow_mul_add _ (tagMask_lt _ _), if_pos ht, if_neg (by omega), Nat.add_sub_cancel_left, testBit_tagMask,
    testBit_tagMask, vget_fin]
  simp only [decide_eq_true ht, decide_eq_true (show t.val < 32 by omega), decide_eq_true (show 8 + t.val < 32 by omega),
    Bool.true_and, and_self]

theorem execWaitc_waits (h : Issues s c w) (hw : wOp w = 0x78) :
    exec (.waitc c) s = .next ((fetched s c).modCast c fun g =>
      { g with waitc := wImm w % 2 ^ 16, mode := .inWaitc, pc := g.pc + 1, cycles := g.cycles + wImm w % 2 ^ 16 }) := by
  rw [exec_waitc, execWaitc, issue_issues h hw, complete1, modCast_modCast]

end

end Sys2Proof.Proofs
end

section
/-! PROOFS. What happens to a caster beside its instructions: the end of a DMA transfer (R150 to R152), window pulls (R155,
R156), the end of WAITC, clock stops and restarts (R139, R163), kernel loads and retirements (R166, R167). -/

namespace Sys2Proof.Proofs

open Sys2Proof Machine Safety Laws

/-! ### Bytes that a push reads -/

theorem readBytes_append (m : Memory) (a n k : Nat) : readBytes m a (n + k) = readBytes m a n ++ readBytes m (a + n) k := by
  rw [← take_readBytes m a n k, ← drop_readBytes m a n k, List.take_append_drop]

theorem flatMap_words (m : Memory) (b k : Nat) :
    (List.range k).flatMap (fun i => readBytes m (8 * (b + i)) 8) = readBytes m (8 * b) (8 * k) := by
  induction k with
  | zero => rfl
  | succ k ih =>
    rw [List.range_succ, List.flatMap_append, ih, Nat.mul_succ, readBytes_append, List.flatMap_singleton, Nat.mul_add]

/-- Words that can all be read go out as the bytes that stand there. -/
theorem localRead_readable {h : Caster} {a n : Nat} (hread : Readable h a n) (ha : a % 8 = 0) (hn : n % 8 = 0) :
    localRead h a n = readBytes h.mem a n := by
  have hword : ∀ wd ∈ wordsOf a n,
      (if anyBad h [wd] then rawWord h wd else readBytes h.mem (8 * wd) 8) = readBytes h.mem (8 * wd) 8 := by
    intro wd hwd
    rw [anyBad_eq_false fun x hx => List.mem_singleton.mp hx ▸ hread wd hwd, if_neg Bool.false_ne_true]
  have hcount : (a + n + 7) / 8 - a / 8 = n / 8 := by omega
  rw [localRead, List.flatMap_def, List.map_congr_left hword, ← List.flatMap_def, wordsOf, List.flatMap_map, hcount,
    flatMap_words, Nat.mul_div_cancel' (by omega), Nat.mul_div_cancel' (by omega)]

/-! ### The end of a transfer -/

section

variable {c : Fin 256} {t : Fin 8} {d : Dma} {s u : State}

/-- A transfer whose range is served ends its tag. -/
theorem execDmaComplete_moved {err : Bool} (hbusy : s.cast[c].tags[t].busy = some d) (hready : extReady s c d.ext d.len = true)
    (hmoved : (if d.push then dmaPush s c d else dmaPull s c d) = (u, err)) :
    exec (.dmaComplete c t) s = .next (tagDone u c t err) := by
  rw [exec_dmaComplete, execDmaComplete]
  simp only [hbusy, hready, hmoved, if_true]

/-- The tag of a caster that has not faulted is done, with its error, which is counted. -/
theorem tagDone_runs (err : Bool) (hmode : u.cast[c].mode ≠ .faulted) :
    tagDone u c t err = wakeCaster (u.modCast c fun g =>
      { g with tags := vset g.tags t { busy := none, done := true, err := err },
               dmaErr := if err then satAdd g.dmaErr 1 else g.dmaErr }) c := by
  exact congrArg (wakeCaster · c) (modCast_congr (if_neg (mt beq_iff_eq.mp hmode)))

theorem dmaPull_ddr {l : List Byte} {bad : Bool} (hspan : extSpan d.ext d.len = .ddr)
    (hread : memRead s .caster d.ext d.len = (u, some (l, bad))) :
    dmaPull s c d = (u.modCast c fun g => localFill g d.loc l, bad) := by
  simp only [dmaPull, hspan, hread]

theorem dmaPush_ddr (hspan : extSpan d.ext d.len = .ddr) (hread : Readable s.cast[c] d.loc d.len) (hloc : d.loc % 8 = 0)
    (hlen : d.len % 8 = 0) (hwrite : memWrite s .caster d.ext (readBytes s.cast[c].mem d.loc d.len) = (u, true))
    (hu : u.cast[c] = s.cast[c]) :
    dmaPush s c d = (u.modCast c fun g => countFixed g (anyFixed s.cast[c] (wordsOf d.loc d.len)), false) := by
  simp only [dmaPush, hspan, localRead_readable hread hloc hlen, hwrite, anyBad_eq_false hread, Bool.false_and,
    if_neg Bool.false_ne_true]
  exact congrArg (·, false) (modCast_congr (by rw [hu]))

/-- A transfer with no address of DDR5 and no bin moves nothing and ends in error (R151). -/
theorem dma_invalid (hspan : extSpan d.ext d.len = .invalid) :
    (if d.push then dmaPush s c d else dmaPull s c d) = (s, true) := by
  simp only [dmaPush, dmaPull, hspan, ite_self]

end

/-- Settles O12: by the rules of the five instructions, the end of a transfer by its direction and its range. -/
theorem dmaInstructions : Obligations.DmaInstructions := by
  unfold Obligations.DmaInstructions
  intro c s h
  refine ⟨fun w hi => ?_, fun t d u l bad hbusy hpull hspan hready hread hmode => ?_,
    fun t d u hbusy hpush hspan hready hread hmode hwrite hloc hlen hu => ?_,
    fun t d hbusy hspan hmode => ?_, fun hmode hruns => ?_⟩
  · intro len loc ext begins
    exact ⟨fun hw hloc hext hreach hidle => dmaOp_begins (exec_dpull c s) hi hw hloc hext hreach hidle,
      fun hw hloc hext hreach hidle => dmaOp_begins (exec_dpush c s) hi hw hloc hext hreach hidle,
      fun hw hidle => execDwait_goesOn hi hw hidle, fun hw => execDtest_bits hi hw, fun hw => execWaitc_waits hi hw⟩
  · have hext : extReady s c d.ext d.len = true := by rw [extReady, hspan]; exact hready
    have hmoved : (if d.push then dmaPush s c d else dmaPull s c d) = (u.modCast c fun g => localFill g d.loc l, bad) := by
      rw [hpull, if_neg Bool.false_ne_true, dmaPull_ddr hspan hread]
    rw [execDmaComplete_moved hbusy hext hmoved, tagDone_runs, modCast_modCast]
    · rfl
    · rw [Fin.getElem_fin, modCast_get]
      exact hmode
  · have hext : extReady s c d.ext d.len = true := by rw [extReady, hspan]; exact hready
    have hmoved : (if d.push then dmaPush s c d else dmaPull s c d) =
        (u.modCast c fun g => countFixed g (anyFixed h (wordsOf d.loc d.len)), false) := by
      rw [hpush, if_pos rfl, dmaPush_ddr hspan hread hloc hlen hwrite hu]
    rw [execDmaComplete_moved hbusy hext hmoved, tagDone_runs, modCast_modCast]
    · rfl
    · rw [Fin.getElem_fin, modCast_get, ← Fin.getElem_fin, hu]
      exact hmode
  · have hext : extReady s c d.ext d.len = true := by rw [extReady, hspan]
    rw [execDmaComplete_moved hbusy hext (dma_invalid hspan), tagDone_runs true hmode]
    rfl
  · have hguard : (h.mode == .inWaitc && casterRuns s c) = true := by rw [hruns, hmode]; rfl
    rw [exec_waitcExpiry, execWaitcExpiry]
    exact congrArg Host.Outcome.next (if_pos hguard)

/-! ### Windows, clocks and restarts -/

/-- Settles O13: each row's guard holds, and the row does what it says. -/
theorem casterEvents : Obligations.CasterEvents := by
  unfold Obligations.CasterEvents
  intro c s h
  refine ⟨fun n u l bad hfilling hready hblocks => ?_, fun hmode hruns hwait => ?_, fun hmode hidle hruns => ?_,
    fun job j m f id prog segs loaded skipped late hdrain hjob hkind hdrained => ?_, fun job persistent hdrain hdrained => ?_⟩
  · rw [exec_windowPullComplete, execWindowPullComplete]
    simp only [h] at hfilling hready hblocks
    simp only [hfilling, hready, hblocks, beq_self_eq_true, Bool.and_self, if_true]
    rfl
  · have hguard : ((h.mode == .inTake || h.mode == .waiting) && casterRuns s c && waitStands h) = true := by
      rw [hruns, hwait, Bool.and_true, Bool.and_true, Bool.or_eq_true, beq_iff_eq, beq_iff_eq]
      exact hmode
    rw [exec_clockStop, execClockStop]
    exact congrArg Host.Outcome.next (if_pos hguard)
  · have hguard : (h.mode == .faulted && !anyBusy h && casterRuns s c) = true := by
      rw [hruns, hidle, Bool.and_true, Bool.not_false, Bool.and_true, beq_iff_eq]
      exact hmode
    rw [exec_casterRestart, execCasterRestart]
    exact congrArg Host.Outcome.next (if_pos hguard)
  · simp only [h] at hdrain hdrained
    rw [exec_kernelLoadSwitch, execKernelLoadSwitch]
    simp only [hdrain, hjob, hkind, hdrained, if_true]
  · simp only [h] at hdrain hdrained
    rw [exec_casterRetired, execCasterRetired]
    simp only [hdrain, hdrained, if_true]

end Sys2Proof.Proofs
end

section
/-! PROOFS. The steps of the flow scheduler (R190 to R204): which dispatch a cycle makes, grants, refill, admission that resumes,
the end of a drain and of a command's limit. -/

namespace Sys2Proof.Proofs

open Sys2Proof Machine Laws

/-! ### Dispatch (R193, R194) -/

/-- The state in which a dispatch of `cycle` tries the flows: no placement waits yet. -/
def atCycle (s : State) (cycle : Nat) : State := { s with sch.cycle := cycle, sch.placeWait := false }

/-- The dispatchable flows class by class, each class in its turn (R194). -/
def dispatchOrder (s : State) : List Nat := (List.range 4).flatMap (flowsInTurn s)

/-- A dispatch two cycles after the last one is decided by the first flow, in order, that is not passed over. -/
theorem execDispatch_tries {s : State} {cycle : Nat} (hservice : s.dev.state = .service) (hlater : s.sch.cycle + 2 ≤ cycle) :
    execDispatch cycle s = .next (((dispatchOrder (atCycle s cycle)).findSome? fun f =>
      tryFlow (atCycle s cycle) f s.sch.cycle cycle).getD (atCycle s cycle)) := by
  have hguard : (s.dev.state == .service && decide (s.sch.cycle + 2 ≤ cycle)) = true := by
    rw [hservice, decide_eq_true hlater]; rfl
  rw [execDispatch, if_pos hguard]
  rfl

/-- What that flow does is what the dispatch does. -/
theorem execDispatch_decides {s t : State} {cycle : Nat} (hservice : s.dev.state = .service)
    (hlater : s.sch.cycle + 2 ≤ cycle) (hfirst : ((dispatchOrder (atCycle s cycle)).findSome? fun f =>
      tryFlow (atCycle s cycle) f s.sch.cycle cycle) = some t) : execDispatch cycle s = .next t := by
  rw [execDispatch_tries hservice hlater, hfirst, Option.getD_some]

/-- With every flow passed over, the cycle alone is counted and no placement waits. -/
theorem execDispatch_idle {s : State} {cycle : Nat} (hservice : s.dev.state = .service) (hlater : s.sch.cycle + 2 ≤ cycle)
    (hnone : ∀ f ∈ dispatchOrder (atCycle s cycle), tryFlow (atCycle s cycle) f s.sch.cycle cycle = none) :
    execDispatch cycle s = .next (atCycle s cycle) := by
  rw [execDispatch_tries hservice hlater, List.findSome?_eq_none_iff.mpr hnone, Option.getD_none]

/-! ### Grants (R196) -/

/-- A caster whose turn it may be gives up the oldest entry of its output half and may go on. -/
theorem execCompletionGrant_accepts {s : State} {c : Fin 256} {e : OutEntry} {r : List OutEntry}
    (hout : s.cast[c].outHalf = e :: r) (hservice : s.dev.state = .service) (hturn : arbFair s c.val = true) :
    execCompletionGrant c s =
      .next (acceptEntry (wakeCaster ((arbGrant s c.val).modCast c fun h => { h with outHalf := r }) c) e) := by
  have hguard : (s.dev.state == .service && arbFair s c.val) = true := by rw [hservice, hturn]; rfl
  simp only [execCompletionGrant, hout, if_pos hguard]

/-- Settles O26: by the first flow that is not passed over, and by the turn of the caster granted. -/
theorem schedulerSteps : Obligations.SchedulerSteps := by
  unfold Obligations.SchedulerSteps
  intro s
  refine ⟨?_, fun c e r hout hservice hturn => execCompletionGrant_accepts hout hservice hturn, fun f => ?_⟩
  · intro cycle hservice hlater s1 flows
    exact ⟨fun f t hfirst _ => execDispatch_decides hservice hlater hfirst, execDispatch_idle hservice hlater⟩
  · rw [exec_releaseResume, execReleaseResume]

/-! ### Admission that resumes (R183) -/

theorem execAdmissionResume_submit {s : State} {j : Job} {items : List Item} {dropped : Nat}
    (hfirst : s.cmdp.jobs.find? (submitMoves s) = some j) (hkind : j.kind = .flowSubmit items dropped) :
    execAdmissionResume none s = .next (resumeSubmit s j items dropped) := by
  simp only [execAdmissionResume, hfirst, hkind]

/-! ### Spill refill (R190) -/

/-- The oldest page of the flow to refill returns once its memory can be read; until then its refill is in progress. -/
theorem execSpillRefill_page {s : State} {f : Nat} {r : Region} {p : SpillPage} {l : List SpillPage}
    (hflow : refillNow s = some f) (hregion : spillRegion s = some r) (hpage : (s.flow f).spill = p :: l) :
    execSpillRefill s = .next (if memReady s (r.base + 4096 * p.page) 4096 = true
      then traceCycle (fun s => refillPage s f r p) s else { s with sch.refilling := some f }) := by
  simp only [execSpillRefill, hflow, hregion, hpage]

theorem execSpillRefill_none {s : State} (hflow : refillNow s = none) :
    execSpillRefill s = .next { s with sch.refilling := none } := by
  simp only [execSpillRefill, hflow]

/-! ### The end of a drain and limits (R203, R166, R167) -/

/-- The draining flows from `lo` to `hi` that hold nothing are closed. -/
def closeEmpty (s : State) (lo hi : Nat) : State := (flowsIn s lo hi .draining).foldl closeIfEmpty s

section

variable {s : State} {job lo hi : Nat} {j : Job} (hjob : findJob s job = some j)

include hjob

/-- A drain is done once none of its flows is left draining. -/
theorem execFlowDrainComplete_drain (hkind : j.kind = .flowDrain lo hi) :
    execFlowDrainComplete job s = .next (if flowsIn (closeEmpty s lo hi) lo hi .draining = []
      then finishJob (closeEmpty s lo hi) job .done 0 [] else closeEmpty s lo hi) := by
  simp only [execFlowDrainComplete, hjob, hkind, List.isEmpty_iff]
  rfl

/-- At its limit a drain ends, as done or as timed out. -/
theorem execCommandLimitExpiry_drain (hkind : j.kind = .flowDrain lo hi) :
    execCommandLimitExpiry job s = .next (if flowsIn (closeEmpty s lo hi) lo hi .draining = []
      then finishJob (closeEmpty s lo hi) job .done 0 [] else finishJob (closeEmpty s lo hi) job .timeout 0 []) := by
  simp only [execCommandLimitExpiry, hjob, hkind, List.isEmpty_iff]
  rfl

/-- At its limit a load or a retirement deals with the casters that still drain. -/
theorem execCommandLimitExpiry_casters
    (hkind : (∃ m f i p g l k n, j.kind = .kernelLoad m f i p g l k n) ∨ ∃ m f p, j.kind = .casterRetire m f p) :
    execCommandLimitExpiry job s = .next (casterLimit s j) := by
  obtain ⟨m, f, i, p, g, l, k, n, hload⟩ | ⟨m, f, p, hretire⟩ := hkind
  · simp only [execCommandLimitExpiry, hjob, hload]
  · simp only [execCommandLimitExpiry, hjob, hretire]

end

/-- Settles O28: each row by the page, the flows or the kind of job that it finds. -/
theorem schedulerJobs : Obligations.SchedulerJobs := by
  unfold Obligations.SchedulerJobs
  intro s
  refine ⟨fun j items dropped hfirst hkind => execAdmissionResume_submit hfirst hkind, ?_,
    fun hflow => execSpillRefill_none hflow, ?_, fun job j hjob hkind => execCommandLimitExpiry_casters hjob hkind⟩
  · intro f r p l hflow hregion hpage
    have h := execSpillRefill_page hflow hregion hpage
    exact ⟨fun hready => h.trans (by rw [if_pos hready]),
      fun hwaits => h.trans (by rw [if_neg (Bool.eq_false_iff.mp hwaits)])⟩
  · intro job j lo hi hjob hkind t
    have hdrain := execFlowDrainComplete_drain hjob hkind
    have hlimit := execCommandLimitExpiry_drain hjob hkind
    exact ⟨fun hall => hdrain.trans (congrArg Host.Outcome.next (if_pos hall)),
      fun hsome => hdrain.trans (congrArg Host.Outcome.next (if_neg hsome)),
      fun hall => hlimit.trans (congrArg Host.Outcome.next (if_pos hall)),
      fun hsome => hlimit.trans (congrArg Host.Outcome.next (if_neg hsome))⟩

end Sys2Proof.Proofs
end

section
/-! PROOFS. The records of a fabric operation port (R184 to R188, R204): the row that takes a record, then what it does with a
submission, a result and a completion. -/

namespace Sys2Proof.Proofs

open Sys2Proof Machine Laws

section

variable {s : State} {n : Fin 512} {r : Record}

/-! ### Submissions (R186, R188) -/

/-- A submission that its flow can take enters it, and the record is consumed. -/
theorem submitRecord_enters {t : State} (hmode : portMode s n.val = 1 ∨ portMode s n.val = 2)
    (hclass : (opRec s (itOp (recordItem r))).cls ≠ 0) (hopen : (s.flow (itFlow (recordItem r))).state = .open)
    (henter : enterItem s (.port n.val) (b2n (portMode s n.val == 2)) (recordItem r) = (t, true)) :
    submitRecord s n r = consumeRecord t n r := by
  have hport : ¬(portMode s n.val ≠ 1 ∧ portMode s n.val ≠ 2) := fun ⟨h1, h2⟩ => hmode.elim h1 h2
  have hflow : ¬((opRec s (itOp (recordItem r))).cls = 0 ∨ (s.flow (itFlow (recordItem r))).state ≠ .open) :=
    fun h => h.elim hclass (· hopen)
  simp only [submitRecord, if_neg hport, if_neg hflow, henter, if_true]

/-! ### Results (R185) -/

theorem resultRecord_noItem {op : Op → Nat → Option Nat} {mk : Item → Result} (hitems : s.sch.ports[n].items = []) :
    resultRecord s n r op mk = discardRecord s n r := by
  simp only [resultRecord, hitems]

/-- Whatever result a record of another mode, or of a port with no item, is to become, it is discarded (R186). -/
theorem result_discards (hnone : portMode s n.val ≠ 3 ∨ s.sch.ports[n].items = []) (op : Op → Nat → Option Nat)
    (mk : Item → Result) :
    (if portMode s n.val ≠ 3 then discardRecord s n r else resultRecord s n r op mk) = discardRecord s n r :=
  ite_eq_left_iff.mpr fun hmode => resultRecord_noItem (hnone.resolve_left hmode)

/-- A result of the item delivered first joins it in SERVICE and waits outside it. -/
theorem resultRecord_names {op : Op → Nat → Option Nat} {mk : Item → Result} {f oid k x : Nat}
    {l : List (Nat × Nat × Nat)} {o : OutItem} (hitems : s.sch.ports[n].items = (f, oid, k) :: l) (hout : findOut s f oid = some o) (hsent : k < 16)
    (hop : op (opRec s (itOp o.item)) (itOp o.item) = some x) :
    resultRecord s n r op mk = if s.dev.state ≠ .service then s
      else consumeRecord (addResult (countSent s n) f oid (mk (setOp (resultItem o.item (recordItem r)) x))) n r := by
  simp only [resultRecord, hitems, hout, hop, if_neg (Nat.not_le.mpr hsent)]

/-! ### The rows -/

variable {v : Nat} (hserved : portServed s n.val = true) (hrec : portRecord s.sch.ports[n] = some r)
  (hgood : recordBad r = false) (hkind : r.kind = some v)

include hserved hrec hgood hkind

/-- A row takes the record of its kind at the head of the port. -/
theorem portRow_takes {mine : Nat → Bool} {f : State → Record → Nat → State} (hmine : mine v = true) :
    portRow s n mine f = f s r v := by
  simp only [portRow, hserved, hrec, hgood, hkind, hmine, Bool.not_true, Bool.false_eq_true, if_false, if_true]

theorem portRow_takes_kind {kind : Nat} {f : State → Record → Nat → State} (hv : v = kind) :
    portRow s n (· == kind) f = f s r v :=
  portRow_takes hserved hrec hgood hkind (mine := (· == kind)) (beq_iff_eq.mpr hv)

theorem execPortSubmit_takes (hv : v = 0) : execPortSubmit n s = .next (submitRecord s n r) :=
  congrArg Host.Outcome.next (portRow_takes_kind hserved hrec hgood hkind hv)

/-- A record held back is taken up again like a submission (R188). -/
theorem execAdmissionResume_takes (hv : v = 0) (hheld : s.sch.ports[n].holding = true) :
    execAdmissionResume (some n) s = .next (submitRecord s n r) :=
  congrArg Host.Outcome.next ((if_pos hheld).trans (portRow_takes_kind hserved hrec hgood hkind hv))

theorem execPortEmit_takes (hv : v = 1) : execPortEmit n s = .next (if portMode s n.val ≠ 3 then discardRecord s n r
    else resultRecord s n r (fun _ op => some op) Result.emit) :=
  congrArg Host.Outcome.next (portRow_takes_kind hserved hrec hgood hkind hv)

theorem execPortPass_takes (hlo : 2 ≤ v) (hhi : v ≤ 9) :
    execPortPass n s = .next (if portMode s n.val ≠ 3 then discardRecord s n r
      else resultRecord s n r (fun o _ => vget none o.edges (v - 2)) (Result.pass (v - 2))) := by
  have hmine : (decide (2 ≤ v) && decide (v ≤ 9)) = true := by rw [decide_eq_true hlo, decide_eq_true hhi]; rfl
  exact congrArg Host.Outcome.next (portRow_takes hserved hrec hgood hkind hmine)

/-- A completion of the item delivered first completes it in SERVICE and waits outside it (R204). -/
theorem execPortDone_item (hv : v = 10) (hmode : portMode s n.val = 3) {f oid k : Nat} {l : List (Nat × Nat × Nat)}
    (hitems : s.sch.ports[n].items = (f, oid, k) :: l) :
    execPortDone n s = .next (if s.dev.state ≠ .service then s
      else completeItem (consumeRecord (s.modOpPort n fun x => { x with items := l }) n r) f oid) := by
  refine congrArg Host.Outcome.next ((portRow_takes_kind hserved hrec hgood hkind hv).trans ?_)
  simp only [if_neg (not_not_intro hmode), hitems]

/-! ### Records that name no delivered item (R186) -/

section

variable (hnone : portMode s n.val ≠ 3 ∨ s.sch.ports[n].items = [])

include hnone

theorem execPortEmit_discards (hv : v = 1) : execPortEmit n s = .next (discardRecord s n r) := by
  rw [execPortEmit_takes hserved hrec hgood hkind hv, result_discards hnone]

theorem execPortPass_discards (hlo : 2 ≤ v) (hhi : v ≤ 9) : execPortPass n s = .next (discardRecord s n r) := by
  rw [execPortPass_takes hserved hrec hgood hkind hlo hhi, result_discards hnone]

theorem execPortDone_discards (hv : v = 10) : execPortDone n s = .next (discardRecord s n r) := by
  refine congrArg Host.Outcome.next ((portRow_takes_kind hserved hrec hgood hkind hv).trans ?_)
  refine ite_eq_left_iff.mpr fun hmode => ?_
  simp only [hnone.resolve_left hmode]

end

/-! ### Results of the item delivered first -/

section

variable (hmode : portMode s n.val = 3) {f oid k : Nat} {l : List (Nat × Nat × Nat)}
  (hitems : s.sch.ports[n].items = (f, oid, k) :: l) {o : OutItem} (hout : findOut s f oid = some o) (hsent : k < 16)

include hmode hitems hout hsent

theorem execPortEmit_item (hv : v = 1) : execPortEmit n s = .next (if s.dev.state ≠ .service then s
    else consumeRecord (addResult (countSent s n) f oid
      (.emit (setOp (resultItem o.item (recordItem r)) (itOp o.item)))) n r) := by
  rw [execPortEmit_takes hserved hrec hgood hkind hv, if_neg (not_not_intro hmode),
    resultRecord_names hitems hout hsent rfl]

theorem execPortPass_item (hlo : 2 ≤ v) (hhi : v ≤ 9) {e : Nat}
    (hedge : vget none (opRec s (itOp o.item)).edges (v - 2) = some e) :
    execPortPass n s = .next (if s.dev.state ≠ .service then s
      else consumeRecord (addResult (countSent s n) f oid
        (.pass (v - 2) (setOp (resultItem o.item (recordItem r)) e))) n r) := by
  rw [execPortPass_takes hserved hrec hgood hkind hlo hhi, if_neg (not_not_intro hmode),
    resultRecord_names hitems hout hsent hedge]

end

end

/-- Settles O27: the row of its kind takes the record, which in SERVICE acts on the flow or the item that it names. -/
theorem operationPorts : Obligations.OperationPorts := by
  unfold Obligations.OperationPorts
  intro s n r v hserved hrec hgood hkind
  refine ⟨?_, ?_, fun hnone => ?_, ?_⟩
  · intro hv hmode hclass hopen t henter
    have henters := submitRecord_enters hmode hclass hopen henter
    exact ⟨(execPortSubmit_takes hserved hrec hgood hkind hv).trans (congrArg Host.Outcome.next henters),
      fun hheld => (execAdmissionResume_takes hserved hrec hgood hkind hv hheld).trans (congrArg Host.Outcome.next henters)⟩
  · intro hmode hservice f oid k l hitems
    have now : ∀ {x y : State}, (if s.dev.state ≠ .service then x else y) = y := if_neg (not_not_intro hservice)
    refine ⟨fun o hout hsent => ⟨fun hv => ?_, fun e hlo hhi hedge => ?_⟩, fun hv => ?_⟩
    · rw [exec_portEmit, execPortEmit_item hserved hrec hgood hkind hmode hitems hout hsent hv, now]
    · rw [exec_portPass, execPortPass_item hserved hrec hgood hkind hmode hitems hout hsent hlo hhi hedge, now]
    · rw [exec_portDone, execPortDone_item hserved hrec hgood hkind hv hmode hitems, now]
  · exact ⟨execPortEmit_discards hserved hrec hgood hkind hnone, execPortPass_discards hserved hrec hgood hkind hnone,
      execPortDone_discards hserved hrec hgood hkind hnone⟩
  · intro hmode hother f oid k l hitems
    have waits : ∀ {x y : State}, (if s.dev.state ≠ .service then x else y) = x := if_pos hother
    refine ⟨fun o hout hsent => ⟨fun hv => ?_, fun e hlo hhi hedge => ?_⟩, fun hv => ?_⟩
    · rw [exec_portEmit, execPortEmit_item hserved hrec hgood hkind hmode hitems hout hsent hv, waits]
    · rw [exec_portPass, execPortPass_item hserved hrec hgood hkind hmode hitems hout hsent hlo hhi hedge, waits]
    · rw [exec_portDone, execPortDone_item hserved hrec hgood hkind hv hmode hitems, waits]

end Sys2Proof.Proofs
end

section
/-! PROOFS. The cooling block, the tick inputs and the trace's own rows (R210 to R226): the entry due first, a token's delivery,
the oldest record of the buffer, the epoch, and the read index. -/

namespace Sys2Proof.Proofs

open Sys2Proof Machine Laws

/-! ### Cooling and ticks (R210, R214 to R218) -/

/-- With nothing due, the evaluation of the domains is all that happens. -/
theorem execCoolDue_nothing {s : State} (hruns : coolState s.dev.state = true) (hnone : (evalDomains s).cool.dueQ = []) :
    execCoolDue s = .next (evalDomains s) := by
  simp only [execCoolDue, if_pos hruns, hnone]

/-- The first entry due leaves the queue, is counted, traced, and re-enters the flow of its item (R215, R216). -/
theorem execCoolDue_first {s : State} {e : CoolEntry} {r : List CoolEntry} (hruns : coolState s.dev.state = true)
    (hfirst : (evalDomains s).cool.dueQ = e :: r) :
    execCoolDue s = .next (traceCycle
      (fun u => reenter (traceItem u 8 (1007 + e.profile) e.item false) (itFlow e.item) e.item)
      { evalDomains s with cool.dueQ := r, cool.cntDue := (evalDomains s).cool.cntDue + 1 }) := by
  simp only [execCoolDue, if_pos hruns, hfirst]

theorem execTickInput_pending {s : State} {n : Fin 8} (hpend : s.pins.tickPend[n] ≠ 0) :
    execTickInput n s = .next
      (tickDue { s with pins.tickPend := vmod s.pins.tickPend n (· - 1), cool.ticks := vmod s.cool.ticks n (· + 1) }) :=
  congrArg Host.Outcome.next (if_neg hpend)

/-! ### The oldest record of the buffer (R223, R224) -/

/-- The mark of records lost before it, which a record takes as it is written (R223). -/
def markLost (s : State) (r : BitVec 128) : BitVec 128 := if s.trc.lost then r ||| BitVec.twoPow 128 62 else r

theorem execTraceWrite_ready {s : State} (hready : traceReady s = true) : execTraceWrite s = .next (traceDrain s) :=
  congrArg Host.Outcome.next (if_pos hready)

section

variable {s : State} {r : BitVec 128} {l : List (BitVec 128)} (hbuf : s.trc.buf = r :: l)

include hbuf

/-- A destination with room takes the record with its mark, and only then does the write index pass it (R224). -/
theorem traceDrain_writes (hroom : traceFull s.trc = false) :
    traceDrain s = let t := tracePut s (markLost s r)
      traceNotify { t with trc := { t.trc with buf := l, lost := false, written := t.trc.written + 1,
                                               wrIdx := t.trc.wrIdx + 1 } } := by
  simp only [traceDrain, hbuf, hroom, Bool.false_eq_true, if_false, markLost]

/-- At a full or lost destination the record is dropped, counted, and remembered for the next one's mark (R223, R225). -/
theorem traceDrain_drops (hfull : traceFull s.trc = true) :
    traceDrain s = { s with trc := { s.trc with buf := l, drop := s.trc.drop + 1, dropped := true, lost := true } } := by
  simp only [traceDrain, hbuf, hfull, if_true]

end

/-! ### The epoch (R220) -/

/-- Yard time has reached `y`, and what that makes due has joined those that wait. -/
def yardReaches (s : State) (y : Nat) : State := tickDue { s with dev.yard := max s.dev.yard y }

theorem execTraceEpoch_new {s : State} {y : Nat} (hon : (yardReaches s y).trc.en = true)
    (hnew : (yardReaches s y).trc.epoch ≠ BitVec.ofNat 16 ((yardReaches s y).dev.yard / 2 ^ 48)) :
    execTraceEpoch y s = .next (traceEpochRecord (yardReaches s y)) := by
  refine congrArg Host.Outcome.next (if_pos ?_)
  exact (Bool.and_eq_true ..).mpr ⟨hon, bne_iff_ne.mpr hnew⟩

theorem execTraceEpoch_off {s : State} {y : Nat} (hoff : (yardReaches s y).trc.en = false) :
    execTraceEpoch y s = .next (yardReaches s y) := by
  refine congrArg Host.Outcome.next (if_neg ?_)
  exact fun hboth => Bool.eq_false_iff.mp hoff ((Bool.and_eq_true ..).mp hboth).1

/-! ### The read index (R224) -/

section

variable {s : State} {v : BitVec 32} (hserved : served s = true)

include hserved

theorem execTrcRdidx_served : execTrcRdidx v s = .next (trcRdidxWrite s v) :=
  congrArg Host.Outcome.next (if_pos hserved)

/-- A ring that wraps takes every read index; one that stops, each that leaves it no more records than it holds. -/
theorem execTrcRdidx_sets (hfits : s.trc.wrap = true ∨ (s.trc.wrIdx - v).toNat ≤ s.trc.size) :
    execTrcRdidx v s = .next (traceNotify { s with trc.rdIdx := v }) := by
  have htaken : ¬ ((!s.trc.wrap && decide (s.trc.size < (s.trc.wrIdx - v).toNat)) = true) := by
    rw [Bool.and_eq_true, Bool.not_eq_true', decide_eq_true_iff]
    rintro ⟨hstop, hover⟩
    rcases hfits with hwrap | hle
    · exact Bool.eq_false_iff.mp hstop hwrap
    · exact Nat.not_lt.mpr hle hover
  rw [execTrcRdidx_served hserved, trcRdidxWrite, if_neg htaken]

theorem execTrcRdidx_ignored (hstop : s.trc.wrap = false) (hover : s.trc.size < (s.trc.wrIdx - v).toNat) :
    execTrcRdidx v s = .next s := by
  rw [execTrcRdidx_served hserved, trcRdidxWrite, hstop, decide_eq_true hover]
  rfl

end

/-- Settles O29: by the head of the queue of entries due, the room at the trace's destination, and the guards of the rows. -/
theorem coolingAndTrace : Obligations.CoolingAndTrace := by
  unfold Obligations.CoolingAndTrace
  intro s
  refine ⟨fun hruns => ⟨execCoolDue_nothing hruns, fun e r => execCoolDue_first hruns⟩,
    fun n => execTickInput_pending, fun r l hready hbuf => ?_, fun y => ⟨execTraceEpoch_new, execTraceEpoch_off⟩,
    fun v hserved => ⟨execTrcRdidx_sets hserved, execTrcRdidx_ignored hserved⟩⟩
  have hdrains := execTraceWrite_ready hready
  exact ⟨fun hroom => hdrains.trans (congrArg Host.Outcome.next (traceDrain_writes hbuf hroom)),
    fun hfull => hdrains.trans (congrArg Host.Outcome.next (traceDrain_drops hbuf hfull))⟩

end Sys2Proof.Proofs
end

section
/-! PROOFS. Lines and stream packets of the CoaXPress links (R234, R240, R245 to R251): line starts, packets in and out of the
order of tags, and the adapter and the pixel store that take a line. -/

namespace Sys2Proof.Proofs

open Sys2Proof Machine

/-! ### Line starts (R234, R240) -/

section

variable {s : State} {n : Fin 128}

/-- A line start is stamped by the group of master `m`, its takers are chosen, and it joins the lines that wait for their
bytes. -/
def lineJoins (s : State) (m n : Fin 128) (t : Nat) : State :=
  let a := stampLine (s.modLinks (groupLinks s m) fun l => { l with lastStart := t, skip := false }) m t
  let b := lineTakers a.1 m a.2
  settleGroup (b.1.modGroup m fun g =>
    { g with starts := g.starts ++ [{ b.2 with link := n.val }], startLink := if g.taking then g.startLink else n.val,
             taking := true, rx := g.rx + 1, stopping := false }) m

theorem lineStart_streaming {m : Fin 128} (hm : masterOf s n = m) (t : Nat) (hlink : s.cxp.links[n].state = .streaming) :
    lineStart s n t = lineJoins s m n t := hm ▸ if_pos hlink

/-- A line start at a link that no longer streams ends the line in progress of a group that is stopping. -/
theorem lineStart_stopping (t : Nat) (hlink : s.cxp.links[n].state ≠ .streaming)
    (hstop : s.cxp.groups[masterOf s n].stopping = true) : lineStart s n t = cutLines s (masterOf s n) 1 :=
  (if_neg hlink).trans (if_pos hstop)

/-! ### Packets (R234, R245) -/

/-- The group takes bytes, and the link streams or ends the reception of a group that is stopping. -/
def Receives (s : State) (n : Fin 128) : Prop :=
  s.cxp.groups[masterOf s n].taking = true ∧
    (s.cxp.links[n].state = .streaming ∨ (s.cxp.links[n].state = .up ∧ s.cxp.groups[masterOf s n].stopping = true))

/-- The state in which a packet's tag is looked at: an error of its CRC has been counted. -/
def crcSeen (s : State) (n : Fin 128) (crcOk : Bool) : State := if crcOk then s else packetError s n

/-- A packet in order enters the FIFO under its tag, and may be the last of its line. -/
def packetEnters (s : State) (m n : Fin 128) (tag : Nat) (bytes : List Byte) (crcOk last : Bool) : State :=
  let s2 := s.modGroup m fun g => arriveTag g n tag
  let s3 := ingest s2 n { tag := s2.cxp.groups[m].rxRef, bytes := bytes, crcOk := crcOk, last := last, run := s2.cxp.groups[m].run }
  settleGroup (s3.modGroup m fun g => arriveLast g last) m

theorem streamPacket_receives (h : Receives s n) (tag : Nat) (bytes : List Byte) (crcOk last : Bool) :
    streamPacket s n tag bytes crcOk last =
      if outOfOrder (crcSeen s n crcOk) (masterOf s n) n tag then cutLatest (packetError s n) (masterOf s n) 8
      else packetEnters (crcSeen s n crcOk) (masterOf s n) n tag bytes crcOk last := by
  obtain ⟨htaking, hlink⟩ := h
  have hguard : (s.cxp.groups[masterOf s n].taking && (s.cxp.links[n].state == .streaming ||
      (s.cxp.links[n].state == .up && s.cxp.groups[masterOf s n].stopping))) = true := by
    simpa only [htaking, Bool.true_and, Bool.or_eq_true, Bool.and_eq_true, beq_iff_eq] using hlink
  refine (if_neg (by rw [hguard]; exact Bool.false_ne_true)).trans ?_
  -- A packet counts as one error, whether its CRC or its tag shows it.
  cases crcOk <;> rfl

end

/-! ### Adapters (R247, R249) -/

section

variable {s t : State} {n : Fin 128} {l : Line}

/-- The lanes of the adapter take what the line gives them, as far as they have room. -/
def lanesPut (s : State) (m n : Fin 128) (l : Line) : State := (List.finRange 4).foldl (fun s i => lanePut s m n l i) s

/-- The adapter is through with the line, and its group's reassembler goes on. -/
def adapterLeaves (s : State) (m n : Fin 128) : State :=
  settleGroup (s.modGroup m fun g => { g with toAdapt := g.toAdapt.filter (· != n.val) }) m

/-- An adapter moves only while its group has a line that waits for it. -/
theorem adapterMove_none (h : s.cxp.groups[masterOf s n].line = none ∨ n.val ∉ s.cxp.groups[masterOf s n].toAdapt) :
    adapterMove s n = none := by
  cases hline : s.cxp.groups[masterOf s n].line with
  | none => simp only [adapterMove, hline]
  | some l =>
    have htakes := h.resolve_left (by rw [hline]; exact Option.some_ne_none l)
    simp only [adapterMove, hline, List.contains_eq_mem, decide_eq_false htakes, Bool.not_false, if_true]

section

variable (hline : s.cxp.groups[masterOf s n].line = some l) (htakes : n.val ∈ s.cxp.groups[masterOf s n].toAdapt)

include hline htakes

/-- With a line that waits for it, a closed adapter drops the line; an open one ends it, goes on with it, or waits. -/
theorem adapterMove_line : adapterMove s n =
    if adapterOpen s n = false then some (adapterLeaves (linkErr s n cxPdk) (masterOf s n) n)
    else if l.done = true ∧ adapterCaught (lanesPut s (masterOf s n) n l) (masterOf s n) n l = true then
      some (adapterLeaves (lanesPut s (masterOf s n) n l) (masterOf s n) n)
    else if adapterSent (lanesPut s (masterOf s n) n l) n = adapterSent s n then none
    else some (settleGroup (lanesPut s (masterOf s n) n l) (masterOf s n)) := by
  have hwaits : (!s.cxp.groups[masterOf s n].toAdapt.contains n.val) = false := by simpa using htakes
  unfold adapterMove
  simp only [hline, hwaits, Bool.false_eq_true, if_false]
  cases adapterOpen s n
  · rfl
  · simp only [Bool.not_true, Bool.false_or, Bool.and_eq_true, Bool.true_eq_false, if_true, if_false]
    rfl

theorem adapterMove_closed (hopen : adapterOpen s n = false) :
    adapterMove s n = some (adapterLeaves (linkErr s n cxPdk) (masterOf s n) n) := by
  rw [adapterMove_line hline htakes, if_pos hopen]

variable (hopen : adapterOpen s n = true)

include hopen

theorem adapterMove_ends (hdone : l.done = true)
    (hcaught : adapterCaught (lanesPut s (masterOf s n) n l) (masterOf s n) n l = true) :
    adapterMove s n = some (adapterLeaves (lanesPut s (masterOf s n) n l) (masterOf s n) n) := by
  rw [adapterMove_line hline htakes, if_neg (by rw [hopen]; exact Bool.noConfusion), if_pos ⟨hdone, hcaught⟩]

/-- Short of the line's last token, the adapter moves exactly where a lane has taken a token. -/
theorem adapterMove_more
    (hmore : l.done = false ∨ adapterCaught (lanesPut s (masterOf s n) n l) (masterOf s n) n l = false) :
    adapterMove s n = if adapterSent (lanesPut s (masterOf s n) n l) n = adapterSent s n then none
      else some (settleGroup (lanesPut s (masterOf s n) n l) (masterOf s n)) := by
  rw [adapterMove_line hline htakes, if_neg (by rw [hopen]; exact Bool.noConfusion), if_neg]
  rintro ⟨hdone, hcaught⟩
  exact hmore.elim (fun h => Bool.noConfusion (h.symm.trans hdone)) fun h => Bool.noConfusion (h.symm.trans hcaught)

end

theorem adapterMoves_waits (hwaits : adapterMove s n = none) (k : Nat) : adapterMoves n k s = s := by
  cases k with
  | zero => rfl
  | succ k => rw [adapterMoves, hwaits]

/-- The bound on an adapter's moves allows one. -/
theorem adapterFuel_pos (s : State) (n : Fin 128) : 0 < adapterFuel s n :=
  Nat.mul_pos (Nat.succ_pos _) (Nat.succ_pos _)

theorem adapterTake_waits (hwaits : adapterMove s n = none) : adapterTake s n = s := adapterMoves_waits hwaits _

/-- An adapter that waits after one move has made that move. -/
theorem adapterTake_once (hmove : adapterMove s n = some t) (hwaits : adapterMove t n = none) : adapterTake s n = t := by
  obtain ⟨k, hk⟩ := Nat.exists_eq_succ_of_ne_zero (Nat.ne_of_gt (adapterFuel_pos s n))
  rw [adapterTake, hk, adapterMoves, hmove]
  exact adapterMoves_waits hwaits k

end

/-! ### The pixel store (R251) -/

/-- A whole line that the store waits for is written once its memory can be, and the reassembler goes on. -/
theorem storeTake_puts {s t : State} {m : Fin 128} {l : Line} (hline : s.cxp.groups[m].line = some l) (hdone : l.done = true)
    (hstore : s.cxp.groups[m].toStore = true) (hput : storePut s m l = some t) :
    storeTake s m = settleGroup (t.modGroup m fun g => { g with toStore := false }) m := by
  simp only [storeTake, hline, hdone, hstore, hput, Bool.and_self, if_true]

/-- Settles O30: by the link's state at a line start, the order of a packet's tag, the adapter's one move, and the store's. -/
theorem linesAndPackets : Obligations.LinesAndPackets := by
  unfold Obligations.LinesAndPackets
  intro s n m
  refine ⟨fun t hlink => congrArg Host.Outcome.next (lineStart_streaming (m := m) rfl t hlink),
    fun t hlink hstop => congrArg Host.Outcome.next (lineStart_stopping t hlink hstop), ?_, ?_,
    fun l t hline hdone hstore hput => congrArg Host.Outcome.next (storeTake_puts hline hdone hstore hput)⟩
  · intro tag bytes crcOk last htaking hlink s1
    have htakes := streamPacket_receives ⟨htaking, hlink⟩ tag bytes crcOk last
    exact ⟨fun hin => congrArg Host.Outcome.next (htakes.trans (if_neg (Bool.eq_false_iff.mp hin))),
      fun hout => congrArg Host.Outcome.next (htakes.trans (if_pos hout))⟩
  · refine ⟨fun hidle => congrArg Host.Outcome.next (adapterTake_waits (adapterMove_none hidle)), ?_⟩
    intro l hline htakes put one
    have once : ∀ {t}, adapterMove s n = some t → one t := fun hmove =>
      ⟨hmove, fun hwaits => congrArg Host.Outcome.next (adapterTake_once hmove hwaits)⟩
    refine ⟨fun hopen => once (adapterMove_closed hline htakes hopen),
      fun hopen hdone hcaught => once (adapterMove_ends hline htakes hopen hdone hcaught), fun hopen hmore => ?_⟩
    have hmove := adapterMove_more hline htakes hopen hmore
    exact ⟨fun hsent => once (hmove.trans (if_neg hsent)),
      fun hsent => congrArg Host.Outcome.next (adapterTake_waits (hmove.trans (if_pos hsent)))⟩

end Sys2Proof.Proofs
end

section
/-! PROOFS. The control channel of a CoaXPress link (R229, R235, R238): what an acknowledgment does to the access at the front,
and the acknowledgments, events and heartbeats beside it. -/

namespace Sys2Proof.Proofs

open Sys2Proof Machine

section

variable {s : State} {n : Fin 128}

/-! ### Trigger packets, event packets, heartbeats (R229, R238) -/

theorem execAckMiss_none (hwait : s.cxp.links[n].ackWait = []) : execAckMiss n s = .next s :=
  congrArg Host.Outcome.next (if_pos (List.isEmpty_iff.mpr hwait))

theorem execAckMiss_oldest (hwait : s.cxp.links[n].ackWait ≠ []) :
    execAckMiss n s = .next (linkErr (s.modLink n fun l => { l with ackWait := l.ackWait.drop 1 }) n cxAckMiss) :=
  congrArg Host.Outcome.next (if_neg (mt List.isEmpty_iff.mp hwait))

theorem execEventPacket_connected (hup : linkUp s.cxp.links[n] = true) : execEventPacket n s =
    .next ((linkErr s n cxEvent).modLink n fun l => { l with cntEvent := l.cntEvent + 1 }) :=
  congrArg Host.Outcome.next (if_pos hup)

theorem execEventPacket_unconnected (hdown : linkUp s.cxp.links[n] = false) : execEventPacket n s = .next s :=
  congrArg Host.Outcome.next (if_neg (Bool.eq_false_iff.mp hdown))

theorem execHeartbeat_master (hmaster : isMaster s n = true) (hup : linkUp s.cxp.links[n] = true) :
    execHeartbeat n s = .next (s.emit (.heartbeat n.val s.dev.yard)) :=
  congrArg Host.Outcome.next (if_pos ((Bool.and_eq_true ..).mpr ⟨hmaster, hup⟩))

theorem execHeartbeat_unconnected (hdown : linkUp s.cxp.links[n] = false) : execHeartbeat n s = .next s := by
  rw [execHeartbeat, hdown, Bool.and_false]
  rfl

/-! ### The acknowledgment of the packet outstanding (Table 9-5) -/

section

variable {c : Ctrl} {code : Nat} {data : List Byte}

/-- A corrupt or missing acknowledgment ends a write. -/
theorem ctrlAck_badWrite (hwrite : c.write = true) :
    ctrlAck s n c false code data = finishJob (ctrlPop s n) c.job .check 0x0200 [] := if_pos hwrite

/-- It ends a read that has failed twice already, and repeats any other. -/
theorem ctrlAck_badRead (hread : c.write = false) : ctrlAck s n c false code data =
    if 2 ≤ c.fails then finishJob (ctrlPop s n) c.job .timeout 0x0201 []
    else ctrlSend (setCtrl s n { c with fails := c.fails + 1 }) n :=
  if_neg (Bool.eq_false_iff.mp hread)

theorem ctrlAck_error (hcode : code ≠ 0) :
    ctrlAck s n c true code data = finishJob (ctrlPop s n) c.job .check (0x0100 + code) [] := if_pos hcode

/-- Bytes of the packet outstanding, by what the access has sent before it. -/
def ctrlLen (c : Ctrl) : Nat := min ctrlChunk (c.len - c.sent)

/-- A good acknowledgment short of the access's last packet sends the next. -/
theorem ctrlAck_more (hmore : c.sent + ctrlLen c < c.len) : ctrlAck s n c true 0 data = ctrlSend (setCtrl s n
    { c with sent := c.sent + ctrlLen c, fails := 0, data := if c.write then c.data else c.data ++ padTo (ctrlLen c) data }) n :=
  if_pos hmore

section

variable (hlast : c.len ≤ c.sent + ctrlLen c)

include hlast

theorem ctrlAck_lastWrite (hwrite : c.write = true) :
    ctrlAck s n c true 0 data = finishJob (ctrlPop s n) c.job .done 0 [] :=
  (if_neg (Nat.not_lt.mpr hlast)).trans (if_pos hwrite)

/-- With its last packet a read delivers its data. -/
theorem ctrlAck_lastRead (hread : c.write = false) :
    ctrlAck s n c true 0 data = finishOut (ctrlPop s n) c.job 0 (c.data ++ padTo (ctrlLen c) data) := by
  have hdata : (if c.write then c.data else c.data ++ padTo (ctrlLen c) data) = c.data ++ padTo (ctrlLen c) data :=
    if_neg (Bool.eq_false_iff.mp hread)
  refine (if_neg (Nat.not_lt.mpr hlast)).trans ((if_neg (Bool.eq_false_iff.mp hread)).trans ?_)
  exact congrArg (finishOut (ctrlPop s n) c.job 0) hdata

end

end

/-! ### Which acknowledgment it is (R235) -/

section

variable {tag code : Nat} {ok : Bool} {data : List Byte}

/-- At discovery a good acknowledgment gives the bootstrap registers; any other is awaited still. -/
theorem controlAck_bootstrap {j : Nat} (hwait : s.cxp.links[n].wait = .bootstrap j) :
    controlAck s n tag ok code data = if ok && code == 0 then bootstrapped s n j data else s := by
  simp only [controlAck, hwait]

section

variable (hwait : s.cxp.links[n].wait = .none)

include hwait

/-- With no access outstanding an acknowledgment means nothing. -/
theorem controlAck_noAccess (hctrl : s.cxp.groups[n].ctrl = []) : controlAck s n tag ok code data = s := by
  simp only [controlAck, hwait, hctrl]

variable {c : Ctrl} {r : List Ctrl} (hctrl : s.cxp.groups[n].ctrl = c :: r)

include hctrl

/-- Only the tag of the packet outstanding acknowledges it. -/
theorem controlAck_access :
    controlAck s n tag ok code data = if c.tag = tag then ctrlAck s n c ok code data else s := by
  simp only [controlAck, hwait, hctrl]

theorem execControlAcknowledgment_outstanding :
    execControlAcknowledgment n c.tag ok code data s = .next (ctrlAck s n c ok code data) :=
  congrArg Host.Outcome.next ((controlAck_access hwait hctrl).trans (if_pos rfl))

theorem execControlAcknowledgment_otherTag (htag : tag ≠ c.tag) :
    execControlAcknowledgment n tag ok code data s = .next s :=
  congrArg Host.Outcome.next ((controlAck_access hwait hctrl).trans (if_neg (Ne.symm htag)))

end

end

/-! ### Limits (R235) -/

section

variable {c : Ctrl} {r : List Ctrl}

/-- A wait acknowledgment that gives a time restarts the limit of the access at the front. -/
theorem execWaitAcknowledgment_access (ms : Nat) (hctrl : s.cxp.groups[n].ctrl = c :: r) :
    execWaitAcknowledgment n ms s = .next (if ms = 0 then s else setCtrl s n { c with waits := c.waits + 1 }) := by
  simp only [execWaitAcknowledgment, hctrl]

theorem execWaitAcknowledgment_noAccess (ms : Nat) (hctrl : s.cxp.groups[n].ctrl = []) :
    execWaitAcknowledgment n ms s = .next s := by
  simp only [execWaitAcknowledgment, hctrl]

theorem execControlTimeout_access (hctrl : s.cxp.groups[n].ctrl = c :: r) :
    execControlTimeout n s = .next (finishJob (ctrlPop s n) c.job .timeout 0x0202 []) := by
  simp only [execControlTimeout, hctrl]

theorem execControlTimeout_noAccess (hctrl : s.cxp.groups[n].ctrl = []) : execControlTimeout n s = .next s := by
  simp only [execControlTimeout, hctrl]

end

end

/-- Settles O31: by the access at the front, the acknowledgment's tag and code, and what is left of the access. -/
theorem linkControl : Obligations.LinkControl := by
  unfold Obligations.LinkControl
  intro s n
  refine ⟨rfl, execAckMiss_oldest, execAckMiss_none, ?_, ?_, ?_, execEventPacket_connected,
    fun hdown => ⟨execEventPacket_unconnected hdown, execHeartbeat_unconnected hdown⟩, execHeartbeat_master⟩
  · intro c r hctrl
    refine ⟨fun hwait => ?_,
      fun ms hms => (execWaitAcknowledgment_access ms hctrl).trans (congrArg Host.Outcome.next (if_neg hms)),
      execWaitAcknowledgment_access 0 hctrl, execControlTimeout_access hctrl⟩
    have acks : ∀ {ok code data t}, ctrlAck s n c ok code data = t →
        exec (.controlAcknowledgment n c.tag ok code data) s = .next t := fun hack =>
      (execControlAcknowledgment_outstanding hwait hctrl).trans (congrArg Host.Outcome.next hack)
    refine ⟨fun code data => ⟨fun hwrite => acks (ctrlAck_badWrite hwrite),
        fun hread hthird => acks ((ctrlAck_badRead hread).trans (if_pos hthird)),
        fun hread hfew => acks ((ctrlAck_badRead hread).trans (if_neg (Nat.not_le.mpr hfew))),
        fun hcode => acks (ctrlAck_error hcode),
        fun tag ok htag => execControlAcknowledgment_otherTag hwait hctrl htag⟩,
      fun data => ⟨fun hmore => acks (ctrlAck_more hmore), fun hlast hwrite => acks (ctrlAck_lastWrite hlast hwrite),
        fun hlast hread => acks (ctrlAck_lastRead hlast hread)⟩⟩
  · intro hctrl
    exact ⟨fun tag ok code data hwait => congrArg Host.Outcome.next (controlAck_noAccess hwait hctrl),
      fun ms => execWaitAcknowledgment_noAccess ms hctrl, execControlTimeout_noAccess hctrl⟩
  · intro j tag data hwait
    refine ⟨congrArg Host.Outcome.next (controlAck_bootstrap hwait), fun ok code hbad => ?_⟩
    refine congrArg Host.Outcome.next ((controlAck_bootstrap hwait).trans (if_neg ?_))
    rw [Bool.and_eq_true, beq_iff_eq]
    rintro ⟨hok, hcode⟩
    exact hbad.elim (fun h => Bool.noConfusion (h.symm.trans hok)) (· hcode)

end Sys2Proof.Proofs
end

section
/-! PROOFS. The states of a CoaXPress link (R230 to R232, R254, R255): what ends each wait of a discovery or a rate change, and
loss, power faults and re-discovery. -/

namespace Sys2Proof.Proofs

open Sys2Proof Machine

section

variable {s : State} {n : Fin 128} {j : Nat}

/-! ### Discovery and rate changes (R231, R232) -/

theorem execPocxpPowerWait_power (hwait : s.cxp.links[n].wait = .power j) :
    execPocxpPowerWait n s = .next (beginLock s n j) := by
  simp only [execPocxpPowerWait, hwait]

section

variable (hlink : s.cxp.links[n].state = .discovering)

include hlink

/-- Symbol lock in a discovery leads to the read of the bootstrap registers. -/
theorem symbolLock_lock (hwait : s.cxp.links[n].wait = .lock j) : symbolLock s n =
    ((drawEq s n).modLink n fun l => { l with wait := .bootstrap j }).emit (.ctrlPacket n.val false 0x4000 8 [] 0) := by
  simp only [symbolLock, hlink, hwait, ne_eq, not_true_eq_false, if_false]

/-- The link is UP at the rate to which its receiver has locked. -/
def upAtRate (s : State) (n : Fin 128) : State := (drawEq s n).modLink n fun l => { l with state := .up, wait := .none }

/-- Symbol lock at a new rate ends the rate change, of a rediscovery or of a command. -/
theorem symbolLock_rate {c : Nat} (hwait : s.cxp.links[n].wait = .rate j c) : symbolLock s n =
    if j = 0 then groupBack (upAtRate s n) (masterOf (upAtRate s n) n) else linkJobDone (upAtRate s n) j := by
  simp only [symbolLock, hlink, hwait, ne_eq, not_true_eq_false, if_false]
  rfl

end

/-- The link is LOST for want of a lock. -/
def lockLost (s : State) (n : Fin 128) : State :=
  s.modLink n fun l => { l with state := .lost, wait := .none, rate := 0, eq := 0 }

/-- A discovery that finds no camera puts the link OFF, a rediscovery puts it LOST. -/
theorem execDiscoveryTimeout_lock (hwait : s.cxp.links[n].wait = .lock j) :
    execDiscoveryTimeout n s = .next (if j = 0 then lockLost s n else linkJobDone (linkOff s n) j) := by
  simp only [execDiscoveryTimeout, hwait]
  rfl

theorem execSetLinkLockTimeout_rate {c : Nat} (hwait : s.cxp.links[n].wait = .rate j c) :
    execSetLinkLockTimeout n s = .next (if j = 0 then lockLost s n else linkJobDone (lockLost s n) j) := by
  simp only [execSetLinkLockTimeout, hwait]
  rfl

/-! ### Loss and power faults (R231, R254) -/

theorem execLinkLoss_connected (hup : linkUp s.cxp.links[n] = true) : execLinkLoss n s =
    .next (raiseEvent ((linkErr (groupLost s (masterOf s n)) n cxLost).modLink n fun l =>
      { l with state := .lost, prevRate := l.rate, rate := 0, eq := 0, ackWait := [] }) 4) :=
  congrArg Host.Outcome.next (if_pos hup)

/-- The group of a connected link has lost it. -/
def ownGroupLost (s : State) (n : Fin 128) : State := if linkUp s.cxp.links[n] then groupLost s (masterOf s n) else s

/-- The link in POWER_FAULT, its power withdrawn. -/
def powerFaulted (s : State) (n : Fin 128) : State :=
  (linkErr (setPocxp (ownGroupLost s n) n false) n cxPwr).modLink n fun l =>
    { l with state := .powerFault, wait := .none, rate := 0, eq := 0, ackWait := [] }

/-- What the wait of a link's command or rediscovery comes to once the link is given up. -/
def waitEnds (s : State) : Option Nat → State
  | none => s
  | some j => if j = 0 then s else linkJobDone s j

/-- A sense fault of a powered link that is not FAILED ends its power and what its link waited for. -/
theorem senseFault_powered (hpower : s.cxp.links[n].pocxp = true) (hpin : hasPocxp s n = true) (hsense : senseLow s n = true)
    (hlink : s.cxp.links[n].state ≠ .failed) :
    senseFault s n = waitEnds (powerFaulted s n) (waitJob s.cxp.links[n].wait) := by
  have hguard : (!s.cxp.links[n].pocxp || !hasPocxp s n || !senseLow s n || s.cxp.links[n].state == .failed) = false := by
    rw [hpower, hpin, hsense, beq_eq_false_iff_ne.mpr hlink]
    rfl
  refine (if_neg (Bool.eq_false_iff.mp hguard)).trans ?_
  cases waitJob s.cxp.links[n].wait <;> rfl

/-- A high level on the sense pin is no fault. -/
theorem senseFault_high (hsense : senseLow s n = false) : senseFault s n = s := by
  have hguard : (!s.cxp.links[n].pocxp || !hasPocxp s n || !senseLow s n || s.cxp.links[n].state == .failed) = true := by
    rw [hsense, Bool.not_false, Bool.or_true, Bool.true_or]
  exact if_pos hguard

/-! ### Re-discovery (R255) -/

/-- One LOST link whose `AUTO` is set has the whole group discovered again. -/
theorem execRediscoveryRetry_auto {x : Fin 128} (hx : x ∈ groupLinks s (masterOf s n)) (hlost : s.cxp.links[x].state = .lost)
    (hauto : s.cxp.links[x].auto = true) :
    execRediscoveryRetry n s = .next ((groupLinks s (masterOf s n)).foldl beginAgain s) := by
  refine congrArg Host.Outcome.next (if_pos (List.any_eq_true.mpr ⟨x, hx, ?_⟩))
  exact (Bool.and_eq_true ..).mpr ⟨beq_iff_eq.mpr hlost, hauto⟩

end

/-- Settles O32: by what the link waits for, whether it is connected, and the level of its sense pin. -/
theorem linkStates : Obligations.LinkStates := by
  unfold Obligations.LinkStates
  intro s n j
  refine ⟨execPocxpPowerWait_power, fun hlink => ⟨fun hwait => congrArg Host.Outcome.next (symbolLock_lock hlink hwait),
      fun c hwait hj => congrArg Host.Outcome.next ((symbolLock_rate hlink hwait).trans (if_neg hj)),
      fun c hwait => congrArg Host.Outcome.next ((symbolLock_rate hlink hwait).trans (if_pos rfl))⟩, fun hwait => ?_,
    fun c hwait => execSetLinkLockTimeout_rate hwait, execLinkLoss_connected, ?_,
    fun hsense => congrArg Host.Outcome.next (senseFault_high hsense),
    fun x hx hlost hauto => execRediscoveryRetry_auto hx hlost hauto,
    fun v hserved => congrArg Host.Outcome.next (if_pos hserved)⟩
  · have htimeout := execDiscoveryTimeout_lock hwait
    exact ⟨fun hj => htimeout.trans (congrArg Host.Outcome.next (if_pos hj)),
      fun hj => htimeout.trans (congrArg Host.Outcome.next (if_neg hj))⟩
  · intro hpower hpin hsense hlink s1 s2
    have hfault : ∀ {w}, waitJob s.cxp.links[n].wait = w → exec (.pocxpSenseFault n) s = .next (waitEnds s2 w) := fun hw =>
      congrArg Host.Outcome.next ((senseFault_powered hpower hpin hsense hlink).trans (congrArg (waitEnds s2) hw))
    exact ⟨fun hwait => hfault (w := none) (congrArg waitJob hwait), fun i hi => hfault hi⟩

end Sys2Proof.Proofs
end

section
/-! PROOFS. The commands of links, encoders and triggers (R231 to R235, R250, R256, R260, R270, R274, R282, R288): what the body of
each does once nothing denies it. -/

namespace Sys2Proof.Proofs

open Sys2Proof Machine Safety Laws

/-- Denials tried in turn: none is left where none of them holds. -/
theorem orElse_none {a b : Option Deny} (ha : a = none) (hb : b = none) : (a.orElse fun _ => b) = none := by rw [ha, hb]; rfl

section

variable {c : Cmd} {s : State}

/-! ### Discovery, rates and groups (R231 to R233) -/

theorem cxpDiscoverBody_ok (hdeny : discoverDeny c s (maskLinks c 0) = none) (hbook : s.dev.sbRo = false) :
    cxpDiscoverBody c s = .ok (linkJobDone
      ((maskLinks c 0).foldl (fun t n => discoverBegin t n (par c 16 1 == 1) s.cmdp.nextId)
        (dissolve (startJob c s (.discover (BitVec.ofNat 128 (par c 0 16))) []) (maskLinks c 0))) s.cmdp.nextId) := by
  simp only [cxpDiscoverBody, hdeny, hbook, Bool.false_eq_true, if_false]

theorem cxpSetLinkBody_ok (hretired : firstLink .retired s (groupLinks s (linkTarget c)) linkFailed = none)
    (hup : firstLink .stateRefused s (groupLinks s (linkTarget c)) (fun x => x.state != .up) = none)
    (hbist : firstLink .busy s (groupLinks s (linkTarget c)) (fun _ => bistLinks s) = none) (hbook : s.dev.sbRo = false)
    (hrate : par c 0 1 ≤ s.cxp.links[linkTarget c].maxRate) (hctrl : linkCtrl s (groupLinks s (linkTarget c)) = none) :
    cxpSetLinkBody c s = .ok ((groupLinks s (linkTarget c)).foldl (fun t n => beginRate t n s.cmdp.nextId (par c 0 1))
      ((writeRate (startJob c s (.setLink (linkTarget c).val (par c 0 1)) []) (linkTarget c) (par c 0 1)).modLinks
        (groupLinks s (linkTarget c)) fun x => { x with prevRate := x.rate })) := by
  simp only [cxpSetLinkBody, orElse_none hretired (orElse_none hup hbist), if_neg (Nat.not_lt.mpr hrate), hctrl, hbook,
    Bool.false_eq_true, if_false]

/-- A query answers the group's settings. -/
theorem cxpGroupBody_query (hquery : queryOnly c = true)
    (hretired : firstLink .retired s (groupLinks s (linkTarget c)) linkFailed = none) : cxpGroupBody c s =
    .ok (doneWith c s (groupBytes s.cxp.links[linkTarget c].gsize s.cxp.groups[linkTarget c].set)) := by
  simp only [cxpGroupBody, hquery, hretired, if_true]

theorem cxpGroupBody_forms (hforms : queryOnly c = false) (hdeny : groupDeny c s = none) : cxpGroupBody c s =
    .ok (doneWith c (formGroup s (linkTarget c) (par c 0 1) (groupParams c)) (groupBytes (par c 0 1) (groupParams c))) := by
  simp only [cxpGroupBody, hforms, hdeny, Bool.false_eq_true, if_false]

/-! ### Control accesses (R235) -/

theorem cxpCtrlReadBody_ok (hdeny : ctrlDeny s (linkTarget c) = none) (hfits : outFits c s (par c 4 2) = none) :
    cxpCtrlReadBody c s = .ok (ctrlPush (startJob c s (.ctrl (linkTarget c).val) []) (linkTarget c)
      { job := s.cmdp.nextId, addr := BitVec.ofNat 32 (par c 0 4), len := par c 4 2 }) := by
  simp only [cxpCtrlReadBody, orElse_none hdeny hfits]

/-- The data of a write: behind its parameters, or in its host buffer. -/
theorem cxpCtrlWriteBody_ok {l : List Byte} (hdeny : ctrlDeny s (linkTarget c) = none)
    (hdata : (c.hlen.toNat = 0 ∧ l = c.params.drop 12) ∨ (c.hlen.toNat ≠ 0 ∧ inBuf c (par c 4 2) = .ok l)) :
    cxpCtrlWriteBody c s = .ok (ctrlPush (startJob c s (.ctrl (linkTarget c).val) []) (linkTarget c)
      { job := s.cmdp.nextId, write := true, addr := BitVec.ofNat 32 (par c 0 4), len := par c 4 2,
        data := l.take (par c 4 2) }) := by
  have hsource : (if c.hlen.toNat = 0 then .ok (c.params.drop 12) else inBuf c (par c 4 2)) = .ok l := by
    rcases hdata with ⟨hinline, rfl⟩ | ⟨hbuffer, hin⟩
    · exact if_pos hinline
    · exact (if_neg hbuffer).trans hin
  simp only [cxpCtrlWriteBody, hdeny, hsource]

/-! ### Streams and stores (R250, R256) -/

theorem cxpStreamEnableBody_ok
    (hretired : firstLink .retired s ((maskLinks c 0).flatMap fun n => groupLinks s n) linkFailed = none)
    (hup : firstLink .stateRefused s ((maskLinks c 0).flatMap fun n => groupLinks s n) (fun x => !linkUp x) = none) :
    cxpStreamEnableBody c s =
      .ok (doneWith c ((maskLinks c 0).foldl (fun s n => if par c 16 1 = 1 then startGroup s n else stopGroup s n) s) []) := by
  simp only [cxpStreamEnableBody, orElse_none hretired hup]

theorem cxpPixelStoreBody_ok (hretired : firstLink .retired s (groupLinks s (linkTarget c)) linkFailed = none)
    (hchanging : linkChanging s (groupLinks s (linkTarget c)) = none) : cxpPixelStoreBody c s =
    .ok (doneWith c (setStore s (linkTarget c) (if par c 0 1 % 2 = 1 then storeParams c
      else { s.cxp.groups[linkTarget c].store with on := false, pport := none })) []) := by
  simp only [cxpPixelStoreBody, orElse_none hretired hchanging]

/-! ### Encoders and generators (R260, R270, R274) -/

/-- Encoder `e` with the settings of the command; what its index has seen is forgotten. -/
def encSet (c : Cmd) (s : State) : State :=
  s.modEnc (encTarget c) fun x =>
    { x with par := encParams c, zseen := false, indexed := false,
             stamps := if encChanges x.par (encParams c) then [] else x.stamps.take (2 ^ (encParams c).win + 1) }

/-- The encoder is set, where that does not change an encoder of an ARMED generator (R290); what its generators have not
committed is given up unless its estimator still serves, and the preset that the command asks for comes last. -/
theorem encConfigBody_ok (hfailed : s.trig.enc[encTarget c].failed = false)
    (harmed : encChanges s.trig.enc[encTarget c].par (encParams c) = true → armedOf s (encTarget c) = []) :
    encConfigBody c s =
      let t := fallBack (encSet c s) (encTarget c) (insNs s.dev.yard)
      .ok (doneWith c (tickDue (if par c 9 1 = 1 then preset t (encTarget c) (encParams c).preset else t)) []) := by
  have hfree : (if encChanges s.trig.enc[encTarget c].par (encParams c) then (armedOf s (encTarget c)).head? else none) =
      none := by
    refine ite_eq_right_iff.mpr fun hchanges => ?_
    rw [harmed hchanges, List.head?_nil]
  simp only [encConfigBody, hfailed, Bool.false_eq_true, if_false, hfree]
  rfl

theorem trigGenConfigBody_ok (harmed : s.trig.gen[genTarget c].state ≠ .armed) : trigGenConfigBody c s =
    .ok (doneWith c (s.modGen (genTarget c) fun y =>
      { y with par := genParams c, state := if y.state = .unconfigured then .idle else y.state }) []) :=
  if_neg harmed

theorem trigGenArmBody_ok (hblocked : (maskGens c).find? (armBlocked s) = none) : trigGenArmBody c s =
    .ok (doneWith c ((maskGens c).zipIdx.foldl (fun s x => armGen s x.1 (par c (8 + 4 * x.2) 4)) s) []) := by
  simp only [trigGenArmBody, hblocked]

/-! ### Heads and position comparators (R282, R288) -/

theorem headOffsetsBody_ok (hbusy : (headEntries c).findSome? (headBusy s) = none) : headOffsetsBody c s =
    .ok (doneWith c ((headEntries c).foldl (fun s e =>
      { s with trig.out := vmodN s.trig.out e.out fun x => headApply x e }) s) []) := by
  simp only [headOffsetsBody, hbusy]

theorem positionCompareBody_arms (harm : par c 1 1 = 1) : positionCompareBody c s =
    .ok (doneWith c { s with trig.cmp := vmodN s.trig.cmp (par c 0 1) fun u =>
      { u with armed := true, enc := par c 2 1, dir := par c 3 1, muster := (par c 4 1).testBit 0,
               msix := (par c 4 1).testBit 1, pos := BitVec.ofNat 64 (par c 8 8) } } []) := by
  simp only [positionCompareBody, harm, Nat.one_ne_zero, if_false]

theorem positionCompareBody_stops (hstop : par c 1 1 = 0) : positionCompareBody c s =
    .ok (doneWith c { s with trig.cmp := vmodN s.trig.cmp (par c 0 1) fun u => { u with armed := false } } []) := by
  simp only [positionCompareBody, hstop, if_true]

end

/-- Settles O54: each row completes as its body does, and no body denies what the row's condition lets pass. -/
theorem linkAndTriggerCommands : Obligations.LinkAndTriggerCommands := by
  unfold Obligations.LinkAndTriggerCommands
  refine ⟨completes_of exec_cxpDiscover fun c s ⟨hdeny, hbook⟩ => cxpDiscoverBody_ok hdeny hbook,
    ⟨completes_of exec_cxpSetLink fun c s ⟨hretired, hup, hbist, hbook, hrate, hctrl⟩ =>
        cxpSetLinkBody_ok hretired hup hbist hbook hrate hctrl,
      completes_of exec_cxpGroup fun c s ⟨hquery, hretired⟩ => cxpGroupBody_query hquery hretired⟩,
    completes_of exec_cxpGroup fun c s ⟨hforms, hdeny⟩ => cxpGroupBody_forms hforms hdeny,
    completes_of exec_cxpCtrlRead fun c s ⟨hdeny, hfits⟩ => cxpCtrlReadBody_ok hdeny hfits,
    fun l => completes_of exec_cxpCtrlWrite fun c s ⟨hdeny, hdata⟩ => cxpCtrlWriteBody_ok hdeny hdata,
    completes_of exec_cxpStreamEnable fun c s ⟨hretired, hup⟩ => cxpStreamEnableBody_ok hretired hup,
    completes_of exec_cxpPixelStore fun c s ⟨hretired, hchanging⟩ => cxpPixelStoreBody_ok hretired hchanging,
    completes_of exec_encConfig fun c s ⟨hfailed, harmed⟩ => encConfigBody_ok hfailed harmed,
    completes_of exec_trigGenConfig fun c s harmed => trigGenConfigBody_ok harmed,
    completes_of exec_trigGenArm fun c s hblocked => trigGenArmBody_ok hblocked,
    completes_of exec_trigGenStop fun c s _ => rfl,
    completes_of exec_headOffsets fun c s hbusy => headOffsetsBody_ok hbusy,
    completes_of exec_positionCompare fun c s harm => positionCompareBody_arms harm,
    completes_of exec_positionCompare fun c s hstop => positionCompareBody_stops hstop⟩

end Sys2Proof.Proofs
end

section
/-! PROOFS. What leaves the encoders alone: the moves of the fabric, the firing of instants and what falls due at a tick change
neither an encoder nor whether the trigger engine runs (R276, R279, R283 to R289). -/

namespace Sys2Proof.Proofs

open Sys2Proof Machine Laws

/-- The encoders, and the state of the device, by which the trigger engine runs or rests (R289). -/
def encView (s : State) : Vector Encoder 8 × DevState := (s.trig.enc, s.dev.state)

theorem enc_of_encView {s t : State} (h : encView t = encView s) : t.trig.enc = s.trig.enc := congrArg Prod.fst h

theorem trigRuns_of_encView {s t : State} (h : encView t = encView s) : trigRuns t = trigRuns s := by
  have hstate : t.dev.state = s.dev.state := congrArg Prod.snd h
  unfold trigRuns
  rw [hstate]

/-! ### The updates of other parts of the state -/

section

variable (s : State)

@[simp] theorem modPdk_encView (k : Fin 64) (f : Paddock → Paddock) : encView (s.modPdk k f) = encView s := rfl
@[simp] theorem modBin_encView (b : Nat) (f : BinSt → BinSt) : encView (s.modBin b f) = encView s := rfl
@[simp] theorem modStall_encView (k n : Nat) (f : StallSt → StallSt) : encView (s.modStall k n f) = encView s := rfl
@[simp] theorem setChan_encView (k : Nat) (c : Chan) : encView (s.setChan k c) = encView s := rfl
@[simp] theorem modLink_encView (n : Fin 128) (f : Link → Link) : encView (s.modLink n f) = encView s := rfl
@[simp] theorem modGroup_encView (n : Fin 128) (f : Group → Group) : encView (s.modGroup n f) = encView s := rfl
@[simp] theorem modOpPort_encView (n : Fin 512) (f : OpPort → OpPort) : encView (s.modOpPort n f) = encView s := rfl
@[simp] theorem modGpio_encView (n : Fin 96) (f : Gpio → Gpio) : encView (s.modGpio n f) = encView s := rfl
@[simp] theorem modGen_encView (g : Fin 64) (f : Gen → Gen) : encView (s.modGen g f) = encView s := rfl
@[simp] theorem modTrigOut_encView (o : Fin 256) (f : TrigOut → TrigOut) : encView (s.modTrigOut o f) = encView s := rfl
@[simp] theorem emit_encView (o : Out) : encView (s.emit o) = encView s := rfl
@[simp] theorem drawNat_encView : encView s.drawNat.2 = encView s := rfl

@[simp] theorem emitPad_encView (o : Out) : encView (s.emitPad o) = encView s := by
  unfold State.emitPad
  split <;> rfl

/-! ### Events and errors -/

theorem encView_of_replies {s t : State} (h : RepliesOnly s t) : encView t = encView s := by
  rw [h]
  rfl

@[simp] theorem raiseEvent_encView (n : Nat) : encView (raiseEvent s n) = encView s :=
  encView_of_replies (raiseEvent_replies s n)

@[simp] theorem pdkCount_encView (k : Fin 64) : encView (pdkCount s k) = encView s := raiseEvent_encView _ _

@[simp] theorem musterRequest_encView (src : Nat) : encView (musterRequest s src) = encView s := by
  unfold musterRequest
  repeat' split
  all_goals rfl

/-! ### Presenting and acknowledging (R20, R29, R59) -/

@[simp] theorem present_encView (x : Src) (r : BitVec 16) : encView (present s x r) = encView s := rfl

@[simp] theorem lowerAck_encView (l : Leaf) (x : Src) : encView (lowerAck s l x).1 = encView s := by
  unfold lowerAck
  simp only
  split <;> rfl

@[simp] theorem lowerAcks_encView (x : Src) : encView (lowerAcks s x).1 = encView s :=
  foldl_keeps (fun a : State × List Src => encView a.1)
    (fun _ _ => foldl_keeps (fun a : State × List Src => encView a.1) (fun _ _ => lowerAck_encView _ _ _) _ _) _ _

@[simp] theorem ackOne_encView (l : Leaf) (x : Src) : encView (ackOne s l x).1 = encView s := by
  have fold : ∀ (ls : List Leaf) (a : State × Bool),
      encView (ls.foldl (fun a l => ((lowerAck a.1 l x).1, a.2 || (lowerAck a.1 l x).2)) a).1 = encView a.1 :=
    foldl_keeps (fun a : State × Bool => encView a.1) fun _ _ => lowerAck_encView _ _ _
  simp only [ackOne]
  split
  · rfl
  · simp [apply_ite Prod.fst, apply_ite encView, fold]

@[simp] theorem ackLeaf_encView (l : Leaf) : encView (ackLeaf s l).1 = encView s :=
  foldl_keeps (fun a : State × List Src => encView a.1) (fun _ _ => by simp) _ _

/-! ### What a freed source does -/

@[simp] theorem newRoutes_encView : encView (newRoutes s) = encView s := by
  unfold newRoutes
  split <;> rfl

@[simp] theorem paceCount_encView (x : Src) : encView (paceCount s x) = encView s := by
  unfold paceCount
  split <;> rfl

@[simp] theorem binRead_encView (k b a len : Nat) : encView (binRead s k b a len).1 = encView s := by
  unfold binRead arrayRead
  simp only
  split
  · rfl
  · rfl
  · simp

@[simp] theorem presentWord_encView (k b p : Nat) (w : Option (List Byte)) : encView (presentWord s k b p w).1 = encView s :=
  foldl_keeps encView (fun _ _ => present_encView _ _ _) _ _

@[simp] theorem headerPresent_encView (k b : Nat) : encView (headerPresent s k b).1 = encView s := by
  unfold headerPresent
  simp only
  repeat' split
  all_goals rfl

@[simp] theorem wordPresent_encView (k b : Nat) : encView (wordPresent s k b).1 = encView s := by
  unfold wordPresent
  simp only
  repeat' split
  all_goals simp

@[simp] theorem itemFinish_encView (k b : Nat) : encView (itemFinish s k b) = encView s := by
  unfold itemFinish
  simp only
  repeat' split
  all_goals rfl

@[simp] theorem binRefill_encView (k b p : Nat) : encView (binRefill s k b p).1 = encView s := by
  unfold binRefill
  split
  · simp only [itemFinish_encView]
    split <;> simp
  · rfl

@[simp] theorem tapPresent_encView (k row : Nat) : encView (tapPresent s k row).1 = encView s := by
  -- Which tokens an event has does not matter: under a name of its own the kernel does not compute them.
  obtain ⟨tokens, htokens⟩ : ∃ f, f = tapTokens := ⟨_, rfl⟩
  rw [tapPresent, ← htokens]
  simp only
  repeat' split
  all_goals rfl

@[simp] theorem adapterPresent_encView (l j : Nat) : encView (adapterPresent s l j).1 = encView s := by
  unfold adapterPresent
  simp only
  repeat' split
  all_goals rfl

@[simp] theorem delPresent_encView (n j : Nat) : encView (delPresent s n j).1 = encView s := by
  unfold delPresent
  simp only
  repeat' split
  all_goals rfl

@[simp] theorem pinPresent_encView (g : Nat) : encView (pinPresent s g).1 = encView s := by
  unfold pinPresent
  simp only
  repeat' split
  all_goals rfl

@[simp] theorem gateTake_encView (e : End) : encView (gateTake s e).1 = encView s := by
  unfold gateTake
  simp only
  generalize (if isCrossing e then farKey e else srcKey (.gate e)) = near
  split <;> simp

@[simp] theorem crossTake_encView (e : End) : encView (crossTake s e).1 = encView s := by
  unfold crossTake
  simp only
  split <;> rfl

@[simp] theorem refill_encView (x : Src) : encView (refill s x).1 = encView s := by
  cases x <;> simp [refill]

/-! ### What takes a token by itself -/

@[simp] theorem pendEdge_encView (g : Fin 96) (level : Bool) : encView (pendEdge s g level) = encView s := rfl

@[simp] theorem pinTakes_encView (g : Nat) (r : BitVec 16) : encView (pinTakes s g r).1 = encView s := by
  unfold pinTakes
  simp only
  repeat' split
  all_goals simp

@[simp] theorem opTakes_encView (n j : Nat) (r : BitVec 16) : encView (opTakes s n j r).1 = encView s := by
  unfold opTakes
  simp only
  repeat' split
  all_goals rfl

@[simp] theorem tickEvent_encView (n : Nat) : encView (tickEvent s n) = encView s := by
  unfold tickEvent
  split <;> rfl

@[simp] theorem musterEvent_encView (d : Nat) : encView (musterEvent s d) = encView s := by
  unfold musterEvent
  split <;> rfl

theorem eventTake_encView (l : Leaf) (k : Nat) {f : State → State} (h : encView (f s) = encView s) :
    encView (eventTake s l k f).1 = encView s := by
  unfold eventTake
  split
  · simp only [ackLeaf_encView]
    split
    · exact h
    · rfl
  · rfl

@[simp] theorem autoTake_encView (l : Leaf) : encView (autoTake s l).1 = encView s := by
  cases l with
  | gate e => simp [autoTake]
  | op n j =>
    simp only [autoTake]
    split <;> simp
  | pin g =>
    simp only [autoTake]
    split <;> simp
  | tick n => exact eventTake_encView s _ _ (tickEvent_encView s n)
  | muster d => exact eventTake_encView s _ _ (musterEvent_encView s d)
  | _ => rfl

/-! ### The moves together, and the edges of USER trees (R33, R80, R285) -/

@[simp] theorem autoTakes_encView (ls : List Leaf) : encView (autoTakes s ls).1 = encView s :=
  foldl_keeps (fun a : State × List Move => encView a.1) (fun _ _ => by simp) _ _

theorem pump_encView (fuel : Nat) (l : List Move) (s : State) : encView (pump fuel l s) = encView s := by
  induction fuel generalizing l s with
  | zero => rfl
  | succ fuel ih =>
    match l with
    | [] => rfl
    | .shown x :: r => rw [pump, ih, autoTakes_encView]
    | .freed x :: r => rw [pump, ih, refill_encView]

@[simp] theorem settle_encView (l : List Move) : encView (settle s l) = encView s := pump_encView _ _ _

@[simp] theorem settleShown_encView (r : State × List Src) : encView (settleShown r) = encView r.1 := settle_encView _ _

@[simp] theorem padEdges_encView (old : State) : encView (padEdges old s) = encView s :=
  foldl_keeps encView (fun _ _ => by simp) _ _

@[simp] theorem treeEvent_encView (src : Nat) (e : TapEv) : encView (treeEvent s src e) = encView s := by
  unfold treeEvent
  simp only
  split <;> rfl

@[simp] theorem treeEdge_encView (tree : Nat) (rise : Bool) : encView (treeEdge s tree rise) = encView s := by
  have hcounted : ∀ (k : Fin 64) (l : List Nat) (t : State), encView (l.foldl (fun t _ => pdkCount t k) t) = encView t :=
    fun k => foldl_keeps encView fun _ _ => pdkCount_encView _ _
  have hsettled : ∀ (l : List (Fin 64 × Nat × Nat)) (t : State),
      encView (l.foldl (fun s x => settle s [.shown (.out x.1 x.2.1 x.2.2)]) t) = encView t :=
    foldl_keeps encView fun _ _ => settle_encView _ _
  unfold treeEdge
  simp only [apply_ite encView, treeEvent_encView, ite_self]
  refine (padEdges_encView _ _).trans ((hsettled _ _).trans (foldl_keeps encView ?_ _ _))
  intro t ⟨k, n, o⟩
  exact (hcounted k _ _).trans (modStall_encView t k n _)

@[simp] theorem treeMove_encView (n : Fin 3) (rise : Bool) : encView (treeMove s n rise) = encView s := by
  unfold treeMove
  simp only
  split
  · rfl
  · exact treeEdge_encView _ _ _

end

end Sys2Proof.Proofs
end

section
/-! PROOFS. The firing of instants and what falls due at a tick leave the encoders alone (R214, R276, R279, R283 to R287). -/

namespace Sys2Proof.Proofs

open Sys2Proof Machine Laws

section

variable (s : State)

/-! ### Pulses, link triggers and LINE events (R236, R283 to R285) -/

@[simp] theorem lineEvent_encView (e : TapEv) (cycle : Nat) : encView (lineEvent s e cycle) = encView s := by
  unfold lineEvent
  simp only
  split <;> rfl

@[simp] theorem genPulse_encView (g : Nat) : encView (genPulse s g) = encView s := by
  refine foldl_keeps encView (fun t n => ?_) _ _
  split
  · rw [treeMove_encView]
    split
    · rfl
    · exact treeMove_encView t n false
  · rfl

@[simp] theorem suppress_encView (o : Fin 256) : encView (suppress s o) = encView s := rfl

@[simp] theorem countLate_encView : encView (countLate s) = encView s := rfl

@[simp] theorem startPulse_encView (o : Fin 256) (t : Nat) : encView (startPulse s o t) = encView s := by
  unfold startPulse
  simp only
  split <;> simp

@[simp] theorem enterLog_encView (m : Fin 128) (e : LogEntry) : encView (enterLog s m e) = encView s := by
  unfold enterLog
  simp only
  split <;> rfl

@[simp] theorem logTrigger_encView (m : Fin 128) (e : LogEntry) : encView (logTrigger s m e) = encView s := by
  unfold logTrigger
  simp only
  split
  · rfl
  · exact enterLog_encView s m e

@[simp] theorem trigPacket_encView (n : Fin 128) (e : LogEntry) (t : Nat) : encView (trigPacket s n e t) = encView s := by
  unfold trigPacket
  simp only
  split <;> rfl

@[simp] theorem linkTrigger_encView (n : Fin 128) (e : LogEntry) (t : Nat) : encView (linkTrigger s n e t) = encView s := by
  unfold linkTrigger
  simp only
  split <;> simp

@[simp] theorem gpioTrigger_encView (o : Fin 256) (t : Nat) : encView (gpioTrigger s o t) = encView s := by
  unfold gpioTrigger
  simp only
  repeat' split
  all_goals simp

/-! ### Instants (R276, R278, R287) -/

@[simp] theorem fireOutput_encView (g : Fin 64) (o : Fin 256) (x : Sched1) : encView (fireOutput s g o x) = encView s := by
  unfold fireOutput
  simp only
  repeat' split
  all_goals simp

@[simp] theorem fireNominal_encView (g : Fin 64) (x : Sched1) : encView (fireNominal s g x) = encView s := by
  unfold fireNominal
  simp only [apply_ite encView, lineEvent_encView, countLate_encView, genPulse_encView, ite_self]
  repeat' split
  all_goals rfl

@[simp] theorem fireOne_encView (g : Fin 64) (x : Sched1) : encView (fireOne s g x) = encView s := by
  unfold fireOne
  simp only
  repeat' split
  all_goals simp

theorem fireWhile_encView (p : Sched1 → Bool) (k : Nat) (s : State) : encView (fireWhile p k s) = encView s := by
  induction k generalizing s with
  | zero => rfl
  | succ k ih =>
    rw [fireWhile]
    split
    · rfl
    · rw [ih, fireOne_encView]

@[simp] theorem fireAll_encView (p : Sched1 → Bool) : encView (fireAll s p) = encView s := fireWhile_encView _ _ _

/-! ### What falls due (R214) -/

@[simp] theorem tickDue_encView : encView (tickDue s) = encView s := by
  have hdomain : ∀ (t : State) (d : Nat), encView (evalDomain t d) = encView t := by
    intro t d
    unfold evalDomain
    simp only
    split <;> rfl
  unfold tickDue
  split
  · exact foldl_keeps encView hdomain _ _
  · rfl

theorem fireCycles_encView (t k : Nat) (s : State) : encView (fireCycles t k s) = encView s := by
  induction k generalizing s with
  | zero => rfl
  | succ k ih =>
    rw [fireCycles]
    split
    · rfl
    · rw [ih, tickDue_encView, fireAll_encView]

@[simp] theorem fireBefore_encView (t : Nat) : encView (fireBefore s t) = encView s := fireCycles_encView _ _ _

end

end Sys2Proof.Proofs
end

section
/-! PROOFS. Edges, instants and pulses (R260 to R283): the cases of an edge and of an index, and how far a count moves the
position word. -/

namespace Sys2Proof.Proofs

open Sys2Proof Machine Laws

/-! ### What a count changes of its encoder (R266, R269, R272 to R278, R288) -/

/-- The encoder that an update names. -/
@[simp] theorem modEnc_get (s : State) (e : Fin 8) (f : Encoder → Encoder) :
    (s.modEnc e f).trig.enc[e.val] = f s.trig.enc[e.val] := vmod_get _ _ _

section

variable (s : State) (e : Fin 8)

@[simp] theorem crossOutput_encView (g : Fin 64) (o : Nat) (ks : List Nat) (now l : Nat) (late fwd : Bool) :
    encView (crossOutput s g o ks now l late fwd) = encView s := by
  refine foldl_keeps encView (fun t k => ?_) _ _
  simp only
  repeat' split
  all_goals rfl

@[simp] theorem countGen_encView (g : Fin 64) (x : Encoder) (new : Int) (now : Nat) :
    encView (countGen s g x new now) = encView s :=
  foldl_keeps encView (fun _ _ => crossOutput_encView _ _ _ _ _ _ _ _) _ _

@[simp] theorem scheduleOutput_encView (g : Fin 64) (o : Nat) (ks : List Nat) (b new : Int) (now diff win : Nat) :
    encView (scheduleOutput s g o ks b new now diff win) = encView s := rfl

@[simp] theorem aheadGen_encView (g : Fin 64) (x : Encoder) (new : Int) (now diff : Nat) :
    encView (aheadGen s g x new now diff) = encView s := by
  unfold aheadGen
  simp only
  split
  · rfl
  · exact foldl_keeps encView (fun _ _ => scheduleOutput_encView _ _ _ _ _ _ _ _ _) _ _

@[simp] theorem genDone_encView (g : Fin 64) : encView (genDone s g) = encView s := by
  unfold genDone
  simp only
  split <;> rfl

@[simp] theorem raiseHigh_encView (g : Fin 64) (x : Encoder) (new : Int) : encView (raiseHigh s g x new) = encView s := by
  unfold raiseHigh
  simp only
  split <;> simp

@[simp] theorem compareUnit_encView (x : Encoder) (new : Int) (u : Fin 8) : encView (compareUnit s e x new u) = encView s := by
  unfold compareUnit
  simp only
  split
  · simp only [apply_ite encView, raiseEvent_encView, musterRequest_encView, ite_self]
    rfl
  · rfl

/-- The encoder once it has taken a count of `d` from an edge at `t` (R266, R269). -/
def takesCount (x : Encoder) (d : Int) (t : Nat) : Encoder :=
  { x with stamps := takeStamp x (stampOf x t) (d < 0), dir := decide (d < 0), lastCnt := some t,
           pos := x.pos + BitVec.ofInt 64 (1024 * d) }

/-- Whatever triggers a count reaches, of the encoders it changes its own alone. -/
theorem countBy_encView (d : Int) (t : Nat) : encView (countBy s e d t) = encView (s.modEnc e fun x => takesCount x d t) := by
  unfold countBy
  simp only
  refine (foldl_keeps encView (fun _ _ => compareUnit_encView _ _ _ _ _) _ _).trans ?_
  refine (foldl_keeps encView (fun _ _ => raiseHigh_encView _ _ _ _) _ _).trans ?_
  split
  · refine (foldl_keeps encView (fun _ _ => aheadGen_encView _ _ _ _ _ _) _ _).trans ?_
    exact foldl_keeps encView (fun _ _ => countGen_encView _ _ _ _ _) _ _
  · exact foldl_keeps encView (fun _ _ => countGen_encView _ _ _ _ _) _ _

theorem countBy_enc (d : Int) (t : Nat) : (countBy s e d t).trig.enc[e] = takesCount s.trig.enc[e] d t := by
  rw [enc_of_encView (countBy_encView s e d t)]
  exact modEnc_get s e _

end

/-! ### An edge in quadrature ×4 (R260 to R262) -/

/-- The encoder once its decoder has seen an edge: the level, and when it came. -/
def seesEdge (onB : Bool) (t : Nat) (x : Encoder) : Encoder :=
  if onB then { x with b := !x.b, lastB := some t } else { x with a := !x.a, lastA := some t }

/-- What an edge counts that leads from the levels of `x` to those of `y`, negated with `INV` (R260). -/
def edgeCount (x y : Encoder) (onB : Bool) : Int :=
  let d := edgeDelta x.par.mode onB y.a y.b
  if x.par.inv then -d else d

/-- The edge goes forward in the Gray sequence of the levels (Table 10-2). -/
def goesForward (x : Encoder) (onB : Bool) : Bool :=
  decide ((gray x.a x.b + 1) % 4 = gray (if onB then x.a else !x.a) (if onB then !x.b else x.b))

/-- What an edge counts in quadrature ×4: one count in the direction of the Gray sequence, negated with `INV` (R260). -/
def quadratureCount (x : Encoder) (onB : Bool) : Int := if goesForward x onB = x.par.inv then -1 else 1

theorem add_quadratureCount (p : BitVec 64) (x : Encoder) (onB : Bool) :
    p + BitVec.ofInt 64 (1024 * quadratureCount x onB) =
      if (goesForward x onB = true ∧ x.par.inv = false) ∨ (¬goesForward x onB = true ∧ x.par.inv = true) then p + 1024
      else p - 1024 := by
  have hback : p + BitVec.ofInt 64 (1024 * -1) = p - 1024 := (BitVec.sub_eq_add_neg p 1024).symm
  unfold quadratureCount
  cases goesForward x onB <;> cases x.par.inv
  · exact hback
  · rfl
  · rfl
  · exact hback

theorem quadratureCount_ne_zero (x : Encoder) (onB : Bool) : quadratureCount x onB ≠ 0 := by
  unfold quadratureCount
  split <;> decide

theorem edgeCount_quadrature {x : Encoder} (onB : Bool) (t : Nat) (hmode : x.par.mode = 3) :
    edgeCount x (seesEdge onB t x) onB = quadratureCount x onB := by
  have hdelta : edgeDelta 3 onB (seesEdge onB t x).a (seesEdge onB t x).b = if goesForward x onB then 1 else -1 := by
    cases onB <;> simp [edgeDelta, seesEdge, goesForward]
  rw [edgeCount, quadratureCount, hmode, hdelta]
  cases goesForward x onB <;> cases x.par.inv <;> rfl

/-- The time `t` lies less than `n` after the last one, where there is one (R261, R262). -/
def tooSoon (last : Option Nat) (n t : Nat) : Bool :=
  match last with
  | some l => decide (t < l + n)
  | none => false

theorem tooSoon_eq_false {last : Option Nat} {n t : Nat} (h : ∀ l, last = some l → l + n ≤ t) : tooSoon last n t = false := by
  cases last with
  | none => rfl
  | some l => exact decide_eq_false (Nat.not_lt.mpr (h l rfl))

/-- What becomes of a counted edge, by the state that has settled what it counts: where that is 0, it is the last counted edge
all the same (R262). -/
def countsAs (e : Fin 8) (t : Nat) (r : State × Int) : State :=
  if r.2 = 0 then r.1.modEnc e fun x => { x with lastCnt := some t } else countBy r.1 e r.2 t

/-- An edge counts that the encoder decodes, that comes too soon neither after an edge of the other phase nor after the last
counted edge, and that is a count in its mode (R261, R262). -/
theorem encoderEdge_counts {s : State} {e : Fin 8} {onB : Bool} {t : Nat} (hrun : trigRuns s = true)
    (hfailed : s.trig.enc[e].failed = false) (hmode : s.trig.enc[e].par.mode ≠ 0)
    (hother : tooSoon (if onB then s.trig.enc[e].lastA else s.trig.enc[e].lastB) (stampNs 20) t = false)
    (hlast : tooSoon s.trig.enc[e].lastCnt (stampNs (countLimit s.trig.enc[e].par)) t = false)
    (hcounts : edgeCount s.trig.enc[e] (seesEdge onB t s.trig.enc[e]) onB ≠ 0) :
    encoderEdge s e onB t =
      countBy (s.modEnc e (seesEdge onB t)) e (edgeCount s.trig.enc[e] (seesEdge onB t s.trig.enc[e]) onB) t := by
  have hsees : (s.modEnc e (seesEdge onB t)).trig.enc[e] = seesEdge onB t s.trig.enc[e] := modEnc_get s e _
  have hruns : trigRuns (s.modEnc e (seesEdge onB t)) = true := hrun
  have hdecodes : (!trigRuns (s.modEnc e (seesEdge onB t)) || s.trig.enc[e].failed || decide (s.trig.enc[e].par.mode = 0)) =
      false := by
    rw [hruns, hfailed, decide_eq_false hmode]
    rfl
  have hlegal : (decide (s.trig.enc[e].par.mode ≤ 3) &&
      tooSoon (if onB then s.trig.enc[e].lastA else s.trig.enc[e].lastB) (stampNs 20) t) = false := by
    rw [hother, Bool.and_false]
  rw [← hsees] at hcounts ⊢
  refine (if_neg (Bool.eq_false_iff.mp hdecodes)).trans ?_
  refine (if_neg (Bool.eq_false_iff.mp hlegal)).trans ((if_neg hcounts).trans ?_)
  exact (congrArg (countsAs e t) (if_neg (Bool.eq_false_iff.mp hlast))).trans (if_neg hcounts)

/-- In quadrature ×4 such an edge moves the position word by one count (R260, R266). -/
theorem encoderEdge_quadrature_pos {s : State} {e : Fin 8} {onB : Bool} {t : Nat} {x : Encoder} (hx : s.trig.enc[e] = x)
    (hrun : trigRuns s = true) (hfailed : x.failed = false) (hmode : x.par.mode = 3)
    (hother : ∀ l, (if onB then x.lastA else x.lastB) = some l → l + stampNs 20 ≤ t)
    (hlast : ∀ l, x.lastCnt = some l → l + stampNs (countLimit x.par) ≤ t) :
    (encoderEdge s e onB t).trig.enc[e].pos = x.pos + BitVec.ofInt 64 (1024 * quadratureCount x onB) := by
  subst hx
  have hcount := edgeCount_quadrature onB t hmode
  have hcounts : edgeCount s.trig.enc[e] (seesEdge onB t s.trig.enc[e]) onB ≠ 0 := by
    rw [hcount]
    exact quadratureCount_ne_zero _ _
  have hdecodes : s.trig.enc[e].par.mode ≠ 0 := by
    rw [hmode]
    decide
  have hsees : (s.modEnc e (seesEdge onB t)).trig.enc[e] = seesEdge onB t s.trig.enc[e] := modEnc_get s e _
  rw [encoderEdge_counts hrun hfailed hdecodes (tooSoon_eq_false hother) (tooSoon_eq_false hlast)
    hcounts, hcount, countBy_enc, hsees]
  cases onB <;> rfl

/-! ### A transition of an input (R263, R435) -/

/-- The encoder once the level of an input has changed at its pin. -/
def seesPin (onB : Bool) (x : Encoder) : Encoder := if onB then { x with pinB := !x.pinB } else { x with pinA := !x.pinA }

/-- The level at the pin is the one that the decoder has seen last. -/
def pinSeen (onB : Bool) (x : Encoder) : Bool := if onB then x.pinB == x.b else x.pinA == x.a

theorem pinSeen_seesPin (onB : Bool) (x : Encoder) :
    pinSeen onB (seesPin onB x) = true ↔ if onB then x.pinB = !x.b else x.pinA = !x.a := by
  cases onB <;> simp [pinSeen, seesPin]

theorem pinSeen_seesPin_new {onB : Bool} {x : Encoder} (hnew : if onB then x.pinB = x.b else x.pinA = x.a) :
    pinSeen onB (seesPin onB x) = false := by
  cases onB <;> simpa [pinSeen, seesPin] using hnew

section

variable {s : State} {e : Fin 8} {onB : Bool} {t held : Nat}

theorem execCount_open (hpin : encPinOpen s e (if onB then 1 else 0) = true) :
    exec (.count e onB ⟨t, held⟩) s = .next (tickDue (encoderInput (fireBefore s t) e onB t held)) :=
  congrArg Host.Outcome.next (if_pos hpin)

theorem execCount_closed (hpin : encPinOpen s e (if onB then 1 else 0) = false) : exec (.count e onB ⟨t, held⟩) s = .next s :=
  congrArg Host.Outcome.next (if_neg (Bool.eq_false_iff.mp hpin))

/-- The filter's time does not hang on the level at a pin. -/
theorem filterTime_seesPin (x : Encoder) : filterTime (seesPin onB x) = x.par.filt * 160 := by
  cases onB <;> exact Nat.mul_comm _ _

/-- What a transition of A or B does: a glitch, a level seen already, or an edge. -/
theorem encoderInput_eq : encoderInput s e onB t held =
    if held < s.trig.enc[e].par.filt * 160 then glitchSeen (s.modEnc e (seesPin onB)) e
    else if pinSeen onB (seesPin onB s.trig.enc[e]) then s.modEnc e (seesPin onB)
    else encoderEdge (s.modEnc e (seesPin onB)) e onB t := by
  have hsees : (s.modEnc e (seesPin onB)).trig.enc[e] = seesPin onB s.trig.enc[e] := modEnc_get s e _
  rw [← filterTime_seesPin (onB := onB), ← hsees]
  rfl

/-- A level that stands at the pin and that the decoder has not seen is an edge. -/
theorem encoderInput_edge (hheld : s.trig.enc[e].par.filt * 160 ≤ held)
    (hnew : pinSeen onB (seesPin onB s.trig.enc[e]) = false) :
    encoderInput s e onB t held = encoderEdge (s.modEnc e (seesPin onB)) e onB t := by
  rw [encoderInput_eq, if_neg (Nat.not_lt.mpr hheld), hnew]
  rfl

/-- A level in quadrature ×4 that stands, is new and comes too soon after no other moves the position word by one count. -/
theorem encoderInput_quadrature_pos {x : Encoder} (hx : s.trig.enc[e] = x) (hrun : trigRuns s = true)
    (hfailed : x.failed = false) (hmode : x.par.mode = 3) (hheld : x.par.filt * 160 ≤ held)
    (hnew : if onB then x.pinB = x.b else x.pinA = x.a)
    (hother : ∀ l, (if onB then x.lastA else x.lastB) = some l → l + stampNs 20 ≤ t)
    (hlast : ∀ l, x.lastCnt = some l → l + stampNs (countLimit x.par) ≤ t) :
    (encoderInput s e onB t held).trig.enc[e].pos = x.pos + BitVec.ofInt 64 (1024 * quadratureCount x onB) := by
  subst hx
  rw [encoderInput_edge hheld (pinSeen_seesPin_new hnew)]
  have hpin : (s.modEnc e (seesPin onB)).trig.enc[e] = seesPin onB s.trig.enc[e] := modEnc_get s e _
  cases onB <;> exact (encoderEdge_quadrature_pos hpin hrun hfailed hmode hother hlast :)

end

/-! ### The index (R264) -/

theorem ite_bnot {α : Type} (b : Bool) (u v : α) : (if !b then u else v) = if b then v else u := by cases b <;> rfl

section

variable {s : State} {e : Fin 8} {t held : Nat}

theorem execIndex_open (hpin : encPinOpen s e 2 = true) :
    exec (.index e ⟨t, held⟩) s = .next (tickDue (indexInput (fireBefore s t) e held)) :=
  congrArg Host.Outcome.next (if_pos hpin)

theorem execIndex_closed (hpin : encPinOpen s e 2 = false) : exec (.index e ⟨t, held⟩) s = .next s :=
  congrArg Host.Outcome.next (if_neg (Bool.eq_false_iff.mp hpin))

/-- The encoder once the level of Z has changed at its pin. -/
def seesPinZ (x : Encoder) : Encoder := { x with pinZ := !x.pinZ }

/-- The decoder has taken level `z` of Z. -/
def takesZ (z : Bool) (x : Encoder) : Encoder := { x with z := z }

/-- What a transition of Z does: a glitch, a level seen already, the index, or a fall. -/
theorem indexInput_eq (s : State) (e : Fin 8) (held : Nat) : indexInput s e held =
    if held < 160 * s.trig.enc[e].par.filt then glitchSeen (s.modEnc e seesPinZ) e
    else if (!s.trig.enc[e].pinZ) == s.trig.enc[e].z then s.modEnc e seesPinZ
    else
      let u := (s.modEnc e seesPinZ).modEnc e (takesZ !s.trig.enc[e].pinZ)
      if !s.trig.enc[e].pinZ then indexEdge u e else u := by
  have hpin : (s.modEnc e seesPinZ).trig.enc[e] = seesPinZ s.trig.enc[e] := modEnc_get s e _
  have hlevel : (!s.trig.enc[e].pinZ) = (s.modEnc e seesPinZ).trig.enc[e].pinZ := (congrArg Encoder.pinZ hpin).symm
  have hseen : s.trig.enc[e].z = (s.modEnc e seesPinZ).trig.enc[e].z := (congrArg Encoder.z hpin).symm
  have hfilter : 160 * s.trig.enc[e].par.filt = filterTime (s.modEnc e seesPinZ).trig.enc[e] :=
    (congrArg filterTime hpin).symm
  rw [hlevel, hseen, hfilter]
  rfl

/-- A rise of Z with A and B low latches the position word, and under `ZMODE` 1 does no more. -/
theorem indexEdge_latches (hrun : trigRuns s = true) (hfailed : s.trig.enc[e].failed = false)
    (hmode : s.trig.enc[e].par.mode ∈ [1, 2, 3]) (hzmode : s.trig.enc[e].par.zmode = 1) (ha : s.trig.enc[e].a = false)
    (hb : s.trig.enc[e].b = false) :
    indexEdge s e = s.modEnc e fun x => { x with zpos := x.pos, zseen := true, indexed := true } := by
  simp only [List.mem_cons, List.not_mem_nil, or_false] at hmode
  have hmode0 : s.trig.enc[e].par.mode ≠ 0 := by omega
  have hmode4 : ¬4 ≤ s.trig.enc[e].par.mode := by omega
  have htakes : (!trigRuns s || s.trig.enc[e].failed || decide (s.trig.enc[e].par.mode = 0) ||
      decide (4 ≤ s.trig.enc[e].par.mode) || decide (s.trig.enc[e].par.zmode = 0) || s.trig.enc[e].a || s.trig.enc[e].b) =
      false := by
    rw [hrun, hfailed, decide_eq_false hmode0, decide_eq_false hmode4, hzmode, ha, hb]
    rfl
  have hkeeps : (decide (s.trig.enc[e].par.zmode = 3) || decide (s.trig.enc[e].par.zmode = 2) && !s.trig.enc[e].indexed) =
      false := by
    rw [hzmode]
    rfl
  exact (if_neg (Bool.eq_false_iff.mp htakes)).trans (if_neg (Bool.eq_false_iff.mp hkeeps))

end

/-! ### Instants and pulses (R279, R283) -/

theorem execInstantFire_fires {s : State} {g : Fin 64} {x : Sched1} (hrun : trigRuns s = true)
    (hnext : nextInstant s (fun _ => true) = some (g, x)) :
    exec .instantFire s = .next (tickDue (fireAll s fun i => i.t == x.t)) := by
  rw [exec_instantFire, execInstantFire, hrun, if_pos rfl, hnext]

/-- The pulse of an output that is no GPIO copy ends. -/
theorem execPulseEnd_active {s : State} {o : Fin 256} (ho : o.val < 160) (hactive : s.trig.out[o].active = true) :
    exec (.pulseEnd o) s = .next ((s.modTrigOut o fun x => { x with active := false }).emitPad (.pulseEnd o.val)) :=
  congrArg Host.Outcome.next ((if_pos hactive).trans (dif_pos ho))

/-- Settles O34: the instants before the edge and what falls due after it leave the encoder alone, and the count moves the
position word by one count. -/
theorem countMovesPosition : Obligations.CountMovesPosition := by
  unfold Obligations.CountMovesPosition
  intro s e onB t held x hrun hfailed hmode hpin hheld hnew hother hlast a b fwd u hu
  have hfires := fireBefore_encView s t
  have henc : (fireBefore s t).trig.enc[e] = x := congrArg (·[e]) (enc_of_encView hfires)
  have hpos := encoderInput_quadrature_pos henc ((trigRuns_of_encView hfires).trans hrun) hfailed hmode hheld hnew hother hlast
  rw [execCount_open hpin] at hu
  cases hu
  have hfwd : goesForward x onB = true ↔ fwd := decide_eq_true_iff
  rw [enc_of_encView (tickDue_encView _), hpos, add_quadratureCount]
  simp only [hfwd]

/-- Settles O33: each clause is the branch of its row that the clause's condition takes. -/
theorem triggerSteps : Obligations.TriggerSteps := by
  unfold Obligations.TriggerSteps
  intro s e
  refine ⟨fun onB t held => ⟨execCount_open, execCount_closed, ?_⟩, fun t held => ⟨execIndex_open, execIndex_closed⟩,
    fun held => ?_, indexEdge_latches, rfl, fun g x hrun hnext => execInstantFire_fires hrun hnext,
    fun o ho hactive => execPulseEnd_active ho hactive⟩
  · intro s1 seen
    refine ⟨fun hshort => ?_, fun hheld hseen => ?_, fun hheld hseen => ?_⟩
    · rw [encoderInput_eq, if_pos hshort]
      rfl
    · rw [encoderInput_eq, if_neg (Nat.not_lt.mpr hheld), if_pos ((pinSeen_seesPin _ _).mpr hseen)]
      rfl
    · exact encoderInput_edge hheld (Bool.eq_false_iff.mpr fun h => hseen ((pinSeen_seesPin _ _).mp h))
  · intro x s1 s2
    rw [indexInput_eq, Nat.mul_comm 160]
    refine ⟨fun hshort => if_pos hshort, fun hheld hseen => ?_, fun hheld hnew => ?_⟩
    · rw [if_neg (Nat.not_lt.mpr hheld)]
      exact if_pos (beq_iff_eq.mpr hseen.symm)
    · have hnew' : ((!x.pinZ) == x.z) = false := by
        rw [hnew]
        cases x.pinZ <;> rfl
      rw [if_neg (Nat.not_lt.mpr hheld)]
      exact (if_neg (Bool.eq_false_iff.mp hnew')).trans (ite_bnot x.pinZ _ _)

end Sys2Proof.Proofs
end

section
/-! PROOFS. The steps of a DDR5 channel (R297, R301 to R309): which request a channel serves and what serving it does, the rows of
a channel that serves, and how a training or a recalibration ends. -/

namespace Sys2Proof.Proofs

open Sys2Proof Machine Laws

/-! ### Which request is served (R302) -/

section

variable {s : State} {ch : Fin 8}

theorem execMemoryAccess_serves {r : MemReq} (hactive : s.ddr.chan[ch].state = .active)
    (hfirst : s.ddr.chan[ch].reqs.find? (fun r => r.cls == lowestClass s.ddr.chan[ch].reqs) = some r) :
    execMemoryAccess ch s =
      .next (serveReq (s.modChan ch fun h => { h with reqs := h.reqs.erase r, powerDown := false }) r) := by
  simp only [execMemoryAccess, hactive, hfirst]

theorem execMemoryAccess_nothing (hidle : s.ddr.chan[ch].state ≠ .active ∨ s.ddr.chan[ch].reqs = []) :
    execMemoryAccess ch s = .next s := by
  refine congrArg Host.Outcome.next ?_
  split
  next r hstate hfirst =>
    rcases hidle with hother | hempty
    · exact absurd hstate hother
    · rw [hempty] at hfirst; cases hfirst
  next => rfl

end

/-! ### What serving a request does (R299, R307) -/

section

variable {s : State} {r : MemReq}

/-- The first piece of a request's access that its user may not make. -/
def deniedPiece (s : State) (r : MemReq) : Option Nat :=
  firstDenied s r.user r.write r.addr (if r.write then r.data.length else r.len)

theorem deniedPiece_read (hread : r.write = false) : deniedPiece s r = firstDenied s r.user false r.addr r.len := by
  rw [deniedPiece, hread, if_neg Bool.false_ne_true]

theorem deniedPiece_write (hwrite : r.write = true) : deniedPiece s r = firstDenied s r.user true r.addr r.data.length := by
  rw [deniedPiece, hwrite, if_pos rfl]

theorem serveReq_deniedRead {x : Nat} {p : Fin 2} (hjob : r.job = none) (hdenied : deniedPiece s r = some x)
    (hread : r.write = false) (huser : r.user = .host p) :
    serveReq s r = (recordDeny s r.user x).emit (.apertureData p r.addr (List.replicate r.len 0xFF) false) := by
  rw [deniedPiece_read hread, huser] at hdenied
  simp only [serveReq, hjob, hread, huser, hdenied, Bool.false_eq_true, if_false]

theorem serveReq_deniedWrite {x : Nat} (hjob : r.job = none) (hdenied : deniedPiece s r = some x) (hwrite : r.write = true) :
    serveReq s r = recordDeny s r.user x := by
  rw [deniedPiece_write hwrite] at hdenied
  simp only [serveReq, hjob, hwrite, hdenied, if_true]

theorem serveReq_write (hjob : r.job = none) (hallowed : deniedPiece s r = none) (hwrite : r.write = true) :
    serveReq s r = writePiece s r.addr r.data := by
  rw [deniedPiece_write hwrite] at hallowed
  simp only [serveReq, hjob, hwrite, hallowed, if_true]

theorem serveReq_hostRead {t : State} {l : List Byte} {bad : Bool} {p : Fin 2} (hjob : r.job = none)
    (hallowed : deniedPiece s r = none) (hread : r.write = false) (huser : r.user = .host p)
    (hpieces : readPieces s (blocksOf r.addr r.len) = (t, l, bad)) :
    serveReq s r = t.emit (.apertureData p r.addr l bad) := by
  rw [deniedPiece_read hread, huser] at hallowed
  simp only [serveReq, hjob, hread, huser, hallowed, hpieces, Bool.false_eq_true, if_false]

theorem serveReq_job {id : Nat} (hjob : r.job = some id) : serveReq s r = serveJob s id := by
  simp only [serveReq, hjob]

/-! ### The request of a command that waits (R307) -/

variable {id : Nat} {j : Job} {c : Cmd}

theorem serveJob_more (hmore : jobWaits s id = true) : serveJob s id = s := by
  rw [serveJob, if_pos hmore]

/-- With its last request served, a `MEM_READ` or `MEM_WRITE` is carried out, or joins the queues of the channels that do not
serve now. -/
theorem serveJob_last (hlast : jobWaits s id = false) (hfound : findJob s id = some j) (hkind : j.kind = .memWait c)
    (hop : c.opcode = 0x0601 ∨ c.opcode = 0x0602) :
    serveJob s id = if memReady s (par c 0 8) (par c 8 4) = true then
        finishJob (memWaited s c).1 id (memWaited s c).2.1 (memWaited s c).2.2.1 (memWaited s c).2.2.2
      else placeJob s id (par c 0 8) (par c 8 4) fun n => (vget ({} : Channel) s.ddr.chan n).state != .active := by
  have hopcode : c.opcode.toNat = 0x0601 ∨ c.opcode.toNat = 0x0602 :=
    hop.imp (congrArg BitVec.toNat) (congrArg BitVec.toNat)
  simp only [serveJob, hlast, hfound, Option.map_some, hkind, if_pos hopcode, Bool.false_eq_true, if_false]

end

/-! ### The rows of a channel that serves (R297, R302, R306, R309) -/

section

variable {s : State} {ch : Fin 8}

theorem execRequestAging_ages {r : MemReq} (hmem : r ∈ s.ddr.chan[ch].reqs) (hclass : 2 < r.cls) :
    execRequestAging ch s =
      .next (s.modChan ch fun h => { h with reqs := ageFirst h.reqs, cntAged := h.cntAged + 1 }) :=
  congrArg Host.Outcome.next (if_pos (List.any_eq_true.mpr ⟨r, hmem, decide_eq_true hclass⟩))

theorem execScrubBlock_scrubs (hactive : s.ddr.chan[ch].state = .active) (hscrub : s.ddr.chan[ch].scrubEn = true) :
    execScrubBlock ch s = .next (scrubBlock s ch) :=
  congrArg Host.Outcome.next (if_pos (by rw [hactive, hscrub]; rfl))

theorem execRecalibration_counts (hactive : s.ddr.chan[ch].state = .active) :
    execRecalibration ch none s = .next (s.modChan ch fun h => { h with cntRecal := h.cntRecal + 1 }) :=
  congrArg Host.Outcome.next (if_pos (beq_iff_eq.mpr hactive))

theorem execRecalibration_reads (hactive : s.ddr.chan[ch].state = .active) (r : Fin 3) :
    execRecalibration ch (some r) s = .next (s.modChan ch fun h =>
      { h with cntRecal := h.cntRecal + 1, therm := BitVec.ofNat 2 r.val,
               err := if r.val = 0 then h.err else h.err ||| BitVec.twoPow 32 27 }) :=
  congrArg Host.Outcome.next (if_pos (beq_iff_eq.mpr hactive))

theorem execPowerDown_idle (hdoze : s.dev.state = .doze) (hactive : s.ddr.chan[ch].state = .active)
    (hup : s.ddr.chan[ch].powerDown = false) (hempty : s.ddr.chan[ch].reqs = []) :
    execPowerDown ch s = .next (s.modChan ch fun h => { h with powerDown := true, cntPd := h.cntPd + 1 }) :=
  congrArg Host.Outcome.next (if_pos (by rw [hdoze, hactive, hup, hempty]; rfl))

theorem execReleaseIndexRead_full {k : Fin 64} {r : Region} (hregion : regionOf s .result k.val = some r)
    (hfull : resultFree s r = false) : execReleaseIndexRead k s = .next (readRelease s k.val) := by
  simp only [execReleaseIndexRead, hregion, hfull, Bool.false_eq_true, if_false]

/-! ### The end of a training or a recalibration (R304, R305, R307) -/

theorem execTrainingComplete_recal (hrecal : s.ddr.chan[ch].state = .recal) (ok : Bool) :
    execTrainingComplete ch ok s = .next (trainJobDone
      (s.modChan ch fun h => { h with state := .active, training := none, cntRecal := h.cntRecal + 1 })
      s.ddr.chan[ch].training) := by
  simp only [execTrainingComplete, hrecal]

theorem execTrainingComplete_ok (htraining : s.ddr.chan[ch].state = .training) :
    execTrainingComplete ch true s = .next (trainJobDone (trainOk s ch) s.ddr.chan[ch].training) := by
  simp only [execTrainingComplete, htraining, if_true]

/-- A failed quick restore becomes a full training; a full training that fails is the channel's end (R304, R305). -/
theorem execTrainingComplete_fails (htraining : s.ddr.chan[ch].state = .training) :
    execTrainingComplete ch false s = .next (if s.ddr.chan[ch].quick = true then fullTraining s ch
      else trainJobDone (trainFail s ch) s.ddr.chan[ch].training) := by
  simp only [execTrainingComplete, htraining, Bool.false_eq_true, if_false]

end

/-- Settles O36: row by row, and for a request by whether it is a command's, a read or a write, and permitted. -/
theorem memoryChannels : Obligations.MemoryChannels := by
  unfold Obligations.MemoryChannels
  intro s ch h
  refine ⟨fun r hactive hfirst => execMemoryAccess_serves hactive hfirst, fun r hjob => ⟨?_, ?_, ?_, ?_⟩, ?_,
    fun r id hjob hmore => (serveReq_job hjob).trans (serveJob_more hmore), fun hidle => execMemoryAccess_nothing hidle,
    fun r hmem hclass => execRequestAging_ages hmem hclass, fun hactive => ⟨?_, ?_, ?_, ?_⟩,
    fun k r hregion hfull => execReleaseIndexRead_full hregion hfull, fun ok hrecal => execTrainingComplete_recal hrecal ok,
    fun htraining => ⟨execTrainingComplete_ok htraining, fun hquick => ?_, fun hfull => ?_⟩⟩
  · exact fun x p hdenied hread huser => serveReq_deniedRead hjob hdenied hread huser
  · exact fun x hdenied hwrite => serveReq_deniedWrite hjob hdenied hwrite
  · exact fun hallowed hwrite => serveReq_write hjob hallowed hwrite
  · exact fun p t l bad hallowed hread huser hpieces => serveReq_hostRead hjob hallowed hread huser hpieces
  · intro r id j c hjob hlast hfound hkind hop
    have hserve := (serveReq_job hjob).trans (serveJob_last hlast hfound hkind hop)
    exact ⟨fun hready => hserve.trans (if_pos hready),
      fun hwaits => hserve.trans (if_neg (Bool.eq_false_iff.mp hwaits))⟩
  · exact fun hscrub => execScrubBlock_scrubs hactive hscrub
  · exact execRecalibration_counts hactive
  · exact fun r => execRecalibration_reads hactive r
  · exact fun hdoze hup hempty => execPowerDown_idle hdoze hactive hup hempty
  · exact (execTrainingComplete_fails htraining).trans (congrArg Host.Outcome.next (if_pos hquick))
  · exact (execTrainingComplete_fails htraining).trans
      (congrArg Host.Outcome.next (if_neg (Bool.eq_false_iff.mp hfull)))

end Sys2Proof.Proofs
end

section
/-! PROOFS. The commands of the memory (R300, R307): what the bodies of MEM_MAP, MEM_WRITE and MEM_TRAIN do once nothing denies
them, and how a command's image is read. -/

namespace Sys2Proof.Proofs

open Sys2Proof Machine Laws

/-- A flag that forbids nothing unless the command asks for it. -/
theorem beq_and_eq_false {m k : Nat} {b : Bool} (h : m = k → b = false) : (m == k && b) = false := by
  by_cases hasks : m = k
  · rw [h hasks, Bool.and_false]
  · rw [beq_false_of_ne hasks, Bool.false_and]

section

variable {c : Cmd} {s : State}

/-! ### The map (R300) -/

theorem memMapBody_ok {m : List Region} (hnew : newMap s c = some m)
    (hfree : s.ddr.map.find? (fun r => regionInUse s r && regionDisturbed m r) = none)
    (hbook : par c 2 1 % 2 = 1 → s.dev.sbRo = false) :
    memMapBody c s = .ok (doneWith c (settleTails
      (if par c 2 1 % 2 = 1 then bookWrite { applyMap s m with book.map := some m } .memoryMap else applyMap s m)) []) := by
  simp only [memMapBody, hnew, hfree, beq_and_eq_false hbook, Bool.false_eq_true, if_false, beq_iff_eq]

/-! ### Writes (R299, R307) -/

/-- The bytes that a MEM_WRITE writes: behind its parameters, or in its host buffer. -/
def GivesData (c : Cmd) (l : List Byte) : Prop :=
  (c.hlen.toNat = 0 ∧ l = (c.params.drop 16).take (par c 8 4)) ∨
    (c.hlen.toNat ≠ 0 ∧ ∃ b, inBuf c (par c 8 4) = .ok b ∧ l = b.take (par c 8 4))

theorem memWriteData_ok {l : List Byte} (hdata : GivesData c l) : memWriteData c = .ok l := by
  rcases hdata with ⟨hinline, rfl⟩ | ⟨hbuffer, b, hin, rfl⟩
  · rw [memWriteData, if_pos hinline]; rfl
  · rw [memWriteData, if_neg hbuffer, hin]; rfl

theorem memWriteBody_serves {l : List Byte} (hdata : GivesData c l) (hready : memReady s (par c 0 8) (par c 8 4) = true) :
    memWriteBody c s = .ok (if (memWrite s .memCmd (par c 0 8) l).2 = true then
      doneWith c (memWrite s .memCmd (par c 0 8) l).1 []
      else replyTo c (memWrite s .memCmd (par c 0 8) l).1 .badParam 4 []) := by
  simp only [memWriteBody, memWriteData_ok hdata, hready, if_true, memWriteNow]
  rcases memWrite s .memCmd (par c 0 8) l with ⟨t, denied | written⟩ <;> rfl

theorem memWriteBody_waits {l : List Byte} (hdata : GivesData c l) (hwaits : memReady s (par c 0 8) (par c 8 4) = false) :
    memWriteBody c s = .ok (memHold c s (par c 0 8) (par c 8 4)) := by
  simp only [memWriteBody, memWriteData_ok hdata, hwaits, Bool.false_eq_true, if_false]

/-! ### Training (R307, Table 11-6) -/

/-- The channel that a MEM_TRAIN names. -/
def trainChan (c : Cmd) : Fin 8 := Fin.ofNat 8 (par c 1 1)

/-- A MEM_TRAIN begun as a long command. -/
def trainBegun (c : Cmd) (s : State) : State :=
  startJob c s (.memTrain (par c 0 1) (par c 1 1) (par c 2 1 / 2 % 2 == 1)) []

/-- The same with its die made quiet where the command forces it. -/
def trainForced (c : Cmd) (s : State) : State :=
  if par c 2 1 % 2 = 1 then forceQuiet (trainBegun c s) (dieOfChan (trainChan c)) else trainBegun c s

theorem memTrainBody_describes {m : MemDesc} (hop : par c 0 1 = 0) (hdesc : trainDesc c = some m)
    (htaken : chanTaken s (Fin.ofNat 2 (par c 1 1)) false 0 = none)
    (hnone : s.ddr.active[(Fin.ofNat 2 (par c 1 1) : Fin 2)] = []) (hbook : s.dev.sbRo = false) :
    memTrainBody c s = .ok (memDescribe (trainBegun c s) s.cmdp.nextId (Fin.ofNat 2 (par c 1 1)) m) := by
  simp only [memTrainBody, if_pos hop, hdesc, htaken, hnone, List.head?_nil, hbook, Bool.false_eq_true, if_false]
  rfl

theorem memTrainBody_channel (hop : par c 0 1 ≠ 0) (hdeny : memTrainDeny c s (trainChan c) = none)
    (hbook : (par c 0 1 == 2 || par c 0 1 == 4 || (par c 0 1 == 3 && par c 2 1 / 2 % 2 == 1)) = true → s.dev.sbRo = false) :
    memTrainBody c s = .ok (memTrainDo c (trainBegun c s) s.cmdp.nextId (trainChan c)) := by
  rw [trainChan] at hdeny
  simp only [memTrainBody, if_neg hop, hdeny, Bool.and_eq_true]
  exact if_neg fun ⟨hwrites, hro⟩ => Bool.false_ne_true ((hbook hwrites).symm.trans hro)

/-- Every operation but a recalibration forces its die quiet first, where the command says so. -/
theorem forcesQuiet_eq (hop : par c 0 1 ≠ 1) :
    (if (par c 2 1 % 2 == 1 && par c 0 1 != 1) = true then forceQuiet (trainBegun c s) (dieOfChan (trainChan c))
      else trainBegun c s) = trainForced c s := by
  simp only [bne_iff_ne.mpr hop, Bool.and_true, beq_iff_eq, trainForced]

section

variable (htaken : chanTaken s (dieOfChan (trainChan c)) (par c 0 1 == 1) (trainChan c) = none)

include htaken

theorem memTrainBody_recal (hop : par c 0 1 = 1) (hactive : s.ddr.chan[trainChan c].state = .active)
    (hring : par c 2 1 % 2 = 1 ∨ ringOnDie s (dieOfChan (trainChan c)) = false) :
    memTrainBody c s = .ok ((trainBegun c s).modChan (trainChan c) fun h =>
      { h with state := .recal, training := some s.cmdp.nextId }) := by
  have hrings : (!(par c 2 1 % 2 == 1) && ringOnDie s (dieOfChan (trainChan c))) = false := by
    rcases hring with hforce | hnone
    · rw [hforce]; rfl
    · rw [hnone, Bool.and_false]
  have hdeny : memTrainDeny c s (trainChan c) = none := by
    simp only [memTrainDeny, htaken]
    simp only [hop, hactive, bne_self_eq_false, hrings, Bool.false_eq_true, if_false]
  rw [memTrainBody_channel (by omega) hdeny (by rw [hop]; exact nofun)]
  simp only [memTrainDo, hop, bne_self_eq_false, Bool.and_false, Bool.false_eq_true, if_false]

variable (hquiet : notQuiet s (dieOfChan (trainChan c)) (par c 2 1 % 2 == 1) = none)

include hquiet

theorem memTrainBody_retrain (hop : par c 0 1 = 2) (hstate : s.ddr.chan[trainChan c].state ∈ [ChState.active, .failedTrain])
    (hbook : s.dev.sbRo = false) :
    memTrainBody c s = .ok (beginTraining
      ((dieChans (dieOfChan (trainChan c))).foldl (fun s x => wipeChannel s x.val) (trainForced c s))
      (trainChan c) (some s.cmdp.nextId) false) := by
  have hdeny : memTrainDeny c s (trainChan c) = none := by
    simp only [memTrainDeny, htaken]
    simp only [hop, hquiet, Option.map_none]
    rcases List.mem_cons.mp hstate with hactive | hfailed
    · rw [hactive]; rfl
    · rw [List.mem_singleton.mp hfailed]; rfl
  rw [memTrainBody_channel (by omega) hdeny fun _ => hbook]
  simp only [memTrainDo, forcesQuiet_eq (show par c 0 1 ≠ 1 by omega)]
  simp only [hop]

theorem memTrainBody_retire (hop : par c 0 1 = 3) (hactive : s.ddr.chan[trainChan c].state = .active)
    (hbook : par c 2 1 / 2 % 2 = 1 → s.dev.sbRo = false) :
    memTrainBody c s =
      let lasting := par c 2 1 / 2 % 2 == 1
      let t := (trainForced c s).modChan (trainChan c) fun h =>
        { h with state := .retired, persist := lasting, byCommand := !lasting }
      let u := if lasting then bookEnter t [{ block := .channel (trainChan c).val, byCommand := true }] else t
      .ok (finishJob (leaveActive u (trainChan c)) s.cmdp.nextId .done 0 []) := by
  have hdeny : memTrainDeny c s (trainChan c) = none := by
    simp only [memTrainDeny, htaken]
    simp only [hop, hquiet, hactive, Option.map_none, bne_self_eq_false, Bool.false_eq_true, if_false]
  rw [memTrainBody_channel (by omega) hdeny (by rw [hop]; exact fun hlasting => hbook (beq_iff_eq.mp hlasting))]
  simp only [memTrainDo, forcesQuiet_eq (show par c 0 1 ≠ 1 by omega)]
  simp only [hop]

theorem memTrainBody_restore (hop : par c 0 1 = 4) (hretired : s.ddr.chan[trainChan c].state = .retired)
    (hcommand : s.ddr.chan[trainChan c].persist = false) (hbook : s.dev.sbRo = false) :
    memTrainBody c s = .ok (beginTraining (trainForced c s) (trainChan c) (some s.cmdp.nextId) false) := by
  have hdeny : memTrainDeny c s (trainChan c) = none := by
    simp only [memTrainDeny, htaken]
    simp only [hop, hquiet, hretired, hcommand, Option.map_none]
    rfl
  rw [memTrainBody_channel (by omega) hdeny fun _ => hbook]
  simp only [memTrainDo, forcesQuiet_eq (show par c 0 1 ≠ 1 by omega)]
  simp only [hop]

end

/-! ### Images (R165, R175, R307) -/

variable {a len : Nat}

theorem imageBytes_buffer {l : List Byte} (hin : inBuf c len = .ok l) :
    imageBytes c s false a len = .ok (s, l.take len) := by
  simp only [imageBytes, Bool.false_eq_true, if_false, hin]

theorem imageBytes_memory {t : State} {l : List Byte} {e : Bool} (hregion : imageRegion s a len = true)
    (hfetch : ddrFetch s .memCmd a len = (t, l, e)) : imageBytes c s true a len = .ok (t, l) := by
  simp only [imageBytes, if_true, hregion, hfetch]

theorem imageHeld_ready (hready : memReady s a len = true) (ddr : Bool) : imageHeld s ddr a len = false := by
  rw [imageHeld, hready, Bool.not_true, Bool.and_false]

theorem imageHeld_waits (hregion : imageRegion s a len = true) (hwaits : memReady s a len = false) :
    imageHeld s true a len = true := by
  rw [imageHeld, hregion, hwaits]; rfl

end

end Sys2Proof.Proofs
end

section
/-! PROOFS. The commands of the flow scheduler (R175, R180, R183, R187, R203, R213, R221): what the body of each does once nothing
denies it. -/

namespace Sys2Proof.Proofs

open Sys2Proof Machine Laws

section

variable {c : Cmd} {s : State}

/-! ### GRAPH_LOAD (R175) -/

/-- The graph may replace the loaded one: every profile that it names is configured, an operation of class 1 has a caster left,
and no flow holds anything or is open to a collector that the graph does not use. -/
def Loadable (s : State) (g : Graph) : Prop :=
  g.ops.any (badProfile s) = false ∧ deadOp s g = none ∧
    ∀ e ∈ s.sch.flows, flowHolds s e.1 = false ∧ (e.2.state ≠ .closed → collectorUsed g e.2.coll = true)

theorem graphLoadFrom_ok {t : State} {l : List Byte} {g : Graph}
    (himage : imageBytes c s (par c 0 1 == 1) (par c 4 8) (par c 12 4) = .ok (t, l)) (hgraph : graphOf l = some g)
    (hgood : Loadable t g) :
    graphLoadFrom c s = .ok (finishJob (setGraph (startJob c t .graphLoad []) g) t.cmdp.nextId .done 0 []) := by
  obtain ⟨hprofiles, hdead, hflows⟩ := hgood
  have hholds : (t.sch.flows.map Prod.fst).find? (flowHolds t) = none := by
    simp only [List.find?_eq_none, List.mem_map]
    rintro f ⟨e, he, rfl⟩
    exact Bool.eq_false_iff.mp (hflows e he).1
  have hcollectors : t.sch.flows.find? (fun e => e.2.state != .closed && !collectorUsed g e.2.coll) = none := by
    simp only [List.find?_eq_none, Bool.and_eq_true, bne_iff_ne, Bool.not_eq_true']
    rintro e he ⟨hopen, hunused⟩
    exact Bool.false_ne_true (hunused.symm.trans ((hflows e he).2 hopen))
  simp only [graphLoadFrom, himage, bind, Except.bind, hgraph, hprofiles, hdead, hholds, hcollectors, Option.map_none,
    Bool.false_eq_true, if_false]

theorem graphLoadBody_from (hserves : imageHeld s (par c 0 1 == 1) (par c 4 8) (par c 12 4) = false) :
    graphLoadBody c s = graphLoadFrom c s :=
  if_neg (Bool.eq_false_iff.mp hserves)

theorem graphLoadBody_buffer {l : List Byte} {g : Graph} (hbuffer : par c 0 1 = 0) (hin : inBuf c (par c 12 4) = .ok l)
    (hgraph : graphOf (l.take (par c 12 4)) = some g) (hgood : Loadable s g) :
    graphLoadBody c s = .ok (finishJob (setGraph (startJob c s .graphLoad []) g) s.cmdp.nextId .done 0 []) := by
  have hplace : (par c 0 1 == 1) = false := by rw [hbuffer]; rfl
  rw [graphLoadBody_from (by rw [hplace]; rfl)]
  exact graphLoadFrom_ok (by rw [hplace]; exact imageBytes_buffer hin) hgraph hgood

theorem graphLoadBody_memory {t : State} {l : List Byte} {e : Bool} {g : Graph} (hmemory : par c 0 1 = 1)
    (hregion : imageRegion s (par c 4 8) (par c 12 4) = true) (hready : memReady s (par c 4 8) (par c 12 4) = true)
    (hfetch : ddrFetch s .memCmd (par c 4 8) (par c 12 4) = (t, l, e)) (hgraph : graphOf l = some g) (hgood : Loadable t g) :
    graphLoadBody c s = .ok (finishJob (setGraph (startJob c t .graphLoad []) g) t.cmdp.nextId .done 0 []) := by
  rw [graphLoadBody_from (imageHeld_ready hready _)]
  exact graphLoadFrom_ok (by rw [hmemory]; exact imageBytes_memory hregion hfetch) hgraph hgood

theorem graphLoadBody_waits (hmemory : par c 0 1 = 1) (hregion : imageRegion s (par c 4 8) (par c 12 4) = true)
    (hwaits : memReady s (par c 4 8) (par c 12 4) = false) :
    graphLoadBody c s = .ok (memHold c s (par c 4 8) (par c 12 4)) :=
  if_pos (by rw [hmemory]; exact imageHeld_waits hregion hwaits)

/-! ### The flows of a range (R180, R203) -/

theorem firstFlow_eq_none {lo hi : Nat} {p : Nat → Bool} (hnone : ∀ i, i < hi + 1 - lo → p (lo + i) = false) :
    firstFlow lo hi p = none := by
  simp only [firstFlow, List.find?_eq_none, List.mem_map, List.mem_range]
  rintro f ⟨i, hi, rfl⟩
  exact Bool.eq_false_iff.mp (hnone i hi)

theorem firstFlow_other_none {lo hi : Nat} {st : FlowState} (hall : ∀ i, i < hi + 1 - lo → (s.flow (lo + i)).state = st) :
    firstFlow lo hi (fun f => (s.flow f).state != st) = none :=
  firstFlow_eq_none fun i hi => by rw [hall i hi, bne_self_eq_false]

theorem flowConfigBody_opens (hop : par c 0 1 = 0)
    (hclosed : ∀ i, i < par c 8 4 + 1 - par c 4 4 → (s.flow (par c 4 4 + i)).state = .closed) :
    flowConfigBody c s = .ok (doneWith c (modRange s (par c 4 4) (par c 8 4) fun _ =>
      { state := .open, keep := par c 2 1 == 1, prio := par c 1 1, coll := par c 12 2,
        last := BitVec.ofNat 32 (par c 16 4) }) []) := by
  simp only [flowConfigBody, hop, firstFlow_other_none hclosed]

theorem flowConfigBody_reconfigures (hop : par c 0 1 = 1)
    (hopen : ∀ i, i < par c 8 4 + 1 - par c 4 4 → (s.flow (par c 4 4 + i)).state = .open) :
    flowConfigBody c s =
      .ok (doneWith c (modRange s (par c 4 4) (par c 8 4) fun x => { x with prio := par c 1 1 }) []) := by
  simp only [flowConfigBody, hop, firstFlow_other_none hopen]

theorem flowConfigBody_closes (hop : 2 ≤ par c 0 1)
    (hall : ∀ i, i < par c 8 4 + 1 - par c 4 4 →
      (s.flow (par c 4 4 + i)).state = .open ∧ flowHolds s (par c 4 4 + i) = false) :
    flowConfigBody c s = .ok (doneWith c
      (dropClosed (modRange s (par c 4 4) (par c 8 4) fun _ => {}) (par c 4 4) (par c 8 4)) []) := by
  have hopen := firstFlow_other_none fun i hi => (hall i hi).1
  have hempty := firstFlow_eq_none fun i hi => (hall i hi).2
  obtain ⟨n, hn⟩ := Nat.exists_eq_add_of_le' hop
  simp only [flowConfigBody, hn, hopen, hempty]

/-! ### FLOW_SUBMIT (R183) -/

section

variable (hbuffer : c.hlen.toNat = 0 ∨ ∃ b, inBuf c (64 * par c 0 2) = .ok b)

include hbuffer

theorem submitBuf_ok : ∃ b, submitBuf c = .ok b := by
  by_cases hinline : c.hlen.toNat = 0
  · exact ⟨[], if_pos hinline⟩
  · obtain ⟨b, hin⟩ := hbuffer.resolve_left hinline
    exact ⟨b, (if_neg hinline).trans hin⟩

variable {t : State} {i : Item} {r : List Item} {d : Nat} (hdeny : itemsDeny s (submitItems c) = none)

include hdeny

theorem flowSubmitBody_admitted (hadmit : admitItems s (srcOf c.src) 0 (submitItems c) = (t, [], d)) :
    flowSubmitBody c s = .ok (doneWith c t []) := by
  obtain ⟨b, hbytes⟩ := submitBuf_ok hbuffer
  simp only [flowSubmitBody, hbytes, bind, Except.bind, hdeny, hadmit]

variable (hadmit : admitItems s (srcOf c.src) 0 (submitItems c) = (t, i :: r, d))

include hadmit

/-- With LONG the command goes on with the items that wait; one that admits none of them begins a hold. -/
theorem flowSubmitBody_goesOn {j : Job} (hlong : c.long = true)
    (hjob : findJob (startJob c s (.flowSubmit (submitItems c) 0) []) s.cmdp.nextId = some j) :
    flowSubmitBody c s =
      let u := resumeSubmit (startJob c s (.flowSubmit (submitItems c) 0) []) j (submitItems c) 0
      .ok (if (i :: r).length = (submitItems c).length then holdBegins u (srcOf c.src) 1 i else u) := by
  obtain ⟨b, hbytes⟩ := submitBuf_ok hbuffer
  simp only [flowSubmitBody, hbytes, bind, Except.bind, hdeny, hadmit, hlong, if_true, hjob]

theorem flowSubmitBody_blocked (hshort : c.long = false) :
    flowSubmitBody c s = .error (submitBlocked t i) := by
  obtain ⟨b, hbytes⟩ := submitBuf_ok hbuffer
  simp only [flowSubmitBody, hbytes, bind, Except.bind, hdeny, hadmit, hshort, Bool.false_eq_true, if_false]

end

/-! ### FLOW_DRAIN (R203) -/

/-- The flows of a drain begun: they take nothing new. -/
def drainBegun (c : Cmd) (s : State) (discard : Bool) : State :=
  modRange (startJob c s (.flowDrain (par c 4 4) (par c 8 4)) []) (par c 4 4) (par c 8 4) fun x =>
    { x with state := .draining, discard := discard }

/-- A change made for each flow of a command's range. -/
def eachFlow (c : Cmd) (g : State → Nat → State) (s : State) : State :=
  (List.range (par c 8 4 + 1 - par c 4 4)).foldl (fun s i => g s (par c 4 4 + i)) s

section

variable (hopen : ∀ i, i < par c 8 4 + 1 - par c 4 4 → (s.flow (par c 4 4 + i)).state = .open)

include hopen

theorem flowDrainBody_keeps (hop : par c 0 1 ≠ 1) : flowDrainBody c s =
    .ok (dropClosed (eachFlow c closeIfEmpty (drainBegun c s false)) (par c 4 4) (par c 8 4)) := by
  simp only [flowDrainBody, firstFlow_other_none hopen, beq_false_of_ne hop, Bool.false_eq_true, if_false]
  rfl

theorem flowDrainBody_discards (hop : par c 0 1 = 1) : flowDrainBody c s =
    .ok (dropClosed (eachFlow c closeIfEmpty (eachFlow c dropQueued (drainBegun c s true))) (par c 4 4) (par c 8 4)) := by
  simp only [flowDrainBody, firstFlow_other_none hopen, beq_iff_eq.mpr hop, if_true]
  rfl

end

/-! ### COOL_CONFIG (R213) -/

/-- What a profile in use keeps under new settings: its domain and base, and that it is valid. -/
def ProfileKept (a b : Profile) : Prop := b.domain = a.domain ∧ b.base = a.base ∧ (a.valid = true → b.valid = true)

theorem profileChanges_eq_false {a b : Profile} (hkept : ProfileKept a b) :
    (a.domain != b.domain || a.base != b.base || (a.valid && !b.valid)) = false := by
  obtain ⟨hdomain, hbase, hvalid⟩ := hkept
  rw [hdomain, hbase, bne_self_eq_false, bne_self_eq_false, Bool.or_self, Bool.false_or, Bool.and_eq_false_imp]
  exact fun hold => by rw [hvalid hold]; rfl

theorem coolConfigBody_ok (hperiod : (coolAfter c s).period ≠ s.cool.period → domainHolds s 0 = false)
    (hdomains : ∀ d, d < 16 → domainSource (vget ({} : Domain) (coolAfter c s).domains d) ≠
      domainSource (vget ({} : Domain) s.cool.domains d) → domainHolds s d = false)
    (hprofiles : ∀ p, p < 16 → profileNamed s p = true →
      ProfileKept (vget ({} : Profile) s.cool.profiles p) (vget ({} : Profile) (coolAfter c s).profiles p)) :
    coolConfigBody c s = .ok (doneWith c { s with cool := coolAfter c s } []) := by
  have hidle : ¬((coolAfter c s).period ≠ s.cool.period ∧ domainHolds s 0 = true) := fun ⟨hchanges, hholds⟩ =>
    Bool.false_ne_true ((hperiod hchanges).symm.trans hholds)
  have hsources : ((List.range 16).any fun d => domainSource (vget ({} : Domain) (coolAfter c s).domains d) !=
      domainSource (vget ({} : Domain) s.cool.domains d) && domainHolds s d) = false := by
    simp only [List.any_eq_false, List.mem_range, Bool.and_eq_true, bne_iff_ne]
    exact fun d hd ⟨hchanges, hholds⟩ => Bool.false_ne_true ((hdomains d hd hchanges).symm.trans hholds)
  have hnamed : ((List.range 16).find? fun p =>
      let a := vget ({} : Profile) s.cool.profiles p
      let b := vget ({} : Profile) (coolAfter c s).profiles p
      profileNamed s p && (a.domain != b.domain || a.base != b.base || (a.valid && !b.valid))) = none := by
    simp only [List.find?_eq_none, List.mem_range, Bool.and_eq_true]
    exact fun p hp ⟨hname, hchanges⟩ =>
      Bool.false_ne_true ((profileChanges_eq_false (hprofiles p hp hname)).symm.trans hchanges)
  simp only [coolConfigBody, if_neg hidle, hsources, hnamed, Bool.false_eq_true, if_false]

/-! ### SCHED_TRACE (R221) -/

theorem schedTraceBody_off (hop : par c 0 1 = 0) : schedTraceBody c s = .ok (doneWith c (traceOff s) []) := by
  simp only [schedTraceBody, hop]

theorem schedTraceBody_on (hop : par c 0 1 = 1) (hring : par c 1 1 = 0 → ∃ r, traceRegion s = some r) :
    schedTraceBody c s = .ok (doneWith c (traceOn c (traceOff s)) []) := by
  have hplace : ¬(par c 1 1 = 0 ∧ (traceRegion s).isNone = true) := fun ⟨hmemory, hnone⟩ => by
    obtain ⟨r, hregion⟩ := hring hmemory
    rw [hregion] at hnone
    cases hnone
  simp only [schedTraceBody, hop, if_neg hplace]

theorem schedTraceBody_arms (hop : 2 ≤ par c 0 1) :
    schedTraceBody c s = .ok (doneWith c { s with trc.armed := s.trc.en && s.trc.matchOn } []) := by
  obtain ⟨n, hn⟩ := Nat.exists_eq_add_of_le' hop
  simp only [schedTraceBody, hn]

end

end Sys2Proof.Proofs
end

section
/-! PROOFS. The commands of the casters (R165 to R167): what the bodies of KERNEL_LOAD and CASTER_RETIRE do once nothing denies
them; and the settlement of the commands of the memory, the scheduler and the casters. -/

namespace Sys2Proof.Proofs

open Sys2Proof Machine Laws Safety

section

variable {c : Cmd} {s : State}

/-- The casters of a command's mask that are neither retired nor excluded. -/
def castTargets (c : Cmd) (s : State) : List Nat := (castMask c).filter fun x => !casterGone s x

/-- No unfinished command drains or tests a caster of the list (R351). -/
def Drainable (s : State) (l : List Nat) : Prop :=
  bistChanges s 8 = false ∧ ∀ x ∈ l, (vget ({} : Caster) s.cast x).drain = none

theorem drainBusy_eq_none {l : List Nat} (hfree : Drainable s l) : drainBusy s l = none := by
  obtain ⟨hbist, hdrain⟩ := hfree
  rw [drainBusy, List.find?_eq_none]
  intro x hx
  rw [hbist, hdrain x hx]
  exact Bool.false_ne_true

/-! ### KERNEL_LOAD (R165, R166) -/

/-- The state in which the targets of a load drain for it. -/
def loadBegun (c : Cmd) (s : State) (k : Kernel) : State :=
  startDrain (startJob c s (.kernelLoad (BitVec.ofNat 256 (maskOf (castTargets c s))) (par c 32 1 % 2 == 1) k.id k.prog k.segs 0
    ((castMask c).length - (castTargets c s).length) 0) []) (castTargets c s) (.kernel s.cmdp.nextId)

theorem kernelLoadFrom_ok {t : State} {l : List Byte} {k : Kernel} {len : Nat}
    (himage : imageBytes c s (kernelInDdr c) (par c 40 8) len = .ok (t, l)) (hkernel : kernelOf l = some k)
    (htargets : castTargets c t ≠ []) (hfree : Drainable t (castTargets c t)) :
    kernelLoadFrom c s len = .ok (loadBegun c t k) := by
  have hnone := drainBusy_eq_none hfree
  simp only [kernelLoadFrom, himage, bind, Except.bind, hkernel]
  split
  next hempty => exact absurd hempty htargets
  next x hbusy _ => exact absurd (hnone.symm.trans hbusy) nofun
  next => rfl

/-- The header gives the length of the image; both are read where they may be. -/
theorem kernelLoadBody_from {t : State} {head : List Byte} (hheader : imageHeld s (kernelInDdr c) (par c 40 8) 32 = false)
    (hbytes : imageBytes c s (kernelInDdr c) (par c 40 8) 32 = .ok (t, head))
    (hserves : imageHeld s (kernelInDdr c) (par c 40 8) (max 32 (leAt head 8 4)) = false) :
    kernelLoadBody c s = kernelLoadFrom c s (max 32 (leAt head 8 4)) := by
  simp only [kernelLoadBody, hheader, hbytes, hserves, Bool.false_eq_true, if_false]

theorem kernelLoadBody_buffer {h l : List Byte} {k : Kernel} (hbuffer : kernelInDdr c = false) (hhead : inBuf c 32 = .ok h)
    (hin : inBuf c (max 32 (leAt (h.take 32) 8 4)) = .ok l)
    (hkernel : kernelOf (l.take (max 32 (leAt (h.take 32) 8 4))) = some k)
    (htargets : castTargets c s ≠ []) (hfree : Drainable s (castTargets c s)) :
    kernelLoadBody c s = .ok (loadBegun c s k) := by
  have hbytes {len : Nat} {b : List Byte} (hlen : inBuf c len = .ok b) :
      imageBytes c s (kernelInDdr c) (par c 40 8) len = .ok (s, b.take len) := by rw [hbuffer]; exact imageBytes_buffer hlen
  have hserves (len : Nat) : imageHeld s (kernelInDdr c) (par c 40 8) len = false := by rw [hbuffer]; rfl
  rw [kernelLoadBody_from (hserves _) (hbytes hhead) (hserves _)]
  exact kernelLoadFrom_ok (hbytes hin) hkernel htargets hfree

theorem kernelLoadBody_memory {h l : List Byte} {u t : State} {v e : Bool} {k : Kernel} (hmemory : kernelInDdr c = true)
    (hheadRegion : imageRegion s (par c 40 8) 32 = true) (hheadReady : memReady s (par c 40 8) 32 = true)
    (hhead : ddrFetch s .memCmd (par c 40 8) 32 = (u, h, v))
    (hregion : imageRegion s (par c 40 8) (max 32 (leAt h 8 4)) = true)
    (hready : memReady s (par c 40 8) (max 32 (leAt h 8 4)) = true)
    (hfetch : ddrFetch s .memCmd (par c 40 8) (max 32 (leAt h 8 4)) = (t, l, e)) (hkernel : kernelOf l = some k)
    (htargets : castTargets c t ≠ []) (hfree : Drainable t (castTargets c t)) :
    kernelLoadBody c s = .ok (loadBegun c t k) := by
  rw [kernelLoadBody_from (imageHeld_ready hheadReady _) (by rw [hmemory]; exact imageBytes_memory hheadRegion hhead)
    (imageHeld_ready hready _)]
  exact kernelLoadFrom_ok (by rw [hmemory]; exact imageBytes_memory hregion hfetch) hkernel htargets hfree

theorem kernelLoadBody_waits (hmemory : kernelInDdr c = true) (hregion : imageRegion s (par c 40 8) 32 = true)
    (hwaits : memReady s (par c 40 8) 32 = false) : kernelLoadBody c s = .ok (memHold c s (par c 40 8) 32) :=
  if_pos (by rw [hmemory]; exact imageHeld_waits hregion hwaits)

/-! ### CASTER_RETIRE (R167) -/

/-- The state in which the targets of a retirement drain for it; a lasting one enters the studbook also for the casters of its
mask that are retired already. -/
def retireBegun (c : Cmd) (s : State) : State :=
  let lasting := par c 33 1 / 2 % 2 == 1
  let t := startJob c s (.casterRetire (BitVec.ofNat 256 (maskOf (castTargets c s))) (par c 33 1 % 2 == 1) lasting) []
  let again := (castMask c).filter fun x => (vget ({} : Caster) t.cast x).mode == .retired
  startDrain (if lasting then again.foldl bookRetired t else t) (castTargets c s) (.retire s.cmdp.nextId lasting)

theorem casterRetireBody_retires (hop : par c 32 1 ≠ 1) (htargets : castTargets c s ≠ [])
    (hfree : Drainable s (castTargets c s)) (hbook : par c 33 1 / 2 % 2 = 1 → s.dev.sbRo = false) :
    casterRetireBody c s = .ok (if par c 33 1 % 2 = 1 then forceOut (retireBegun c s) (castTargets c s)
      else retireBegun c s) := by
  have hnone := drainBusy_eq_none hfree
  simp only [casterRetireBody, if_neg hop, beq_and_eq_false hbook, Bool.false_eq_true, if_false]
  split
  next hempty => exact absurd hempty htargets
  next x hbusy _ => exact absurd (hnone.symm.trans hbusy) nofun
  next => exact congrArg Except.ok (ite_congr (propext beq_iff_eq) (fun _ => rfl) fun _ => rfl)

theorem casterRetireBody_restores (hop : par c 32 1 = 1) (hfree : Drainable s (castMask c))
    (hkept : ∀ x ∈ castMask c,
      (vget ({} : Caster) s.cast x).mode ≠ .excluded ∧ (vget ({} : Caster) s.cast x).persist = false) :
    casterRetireBody c s = .ok (finishJob (unretire (startJob c s (.casterRetire 0 false false) []) (castMask c))
      s.cmdp.nextId .done 0 []) := by
  have hnone : (castMask c).find? (keptRetired s) = none := by
    rw [List.find?_eq_none]
    intro x hx
    obtain ⟨hmode, hpersist⟩ := hkept x hx
    rw [keptRetired, hpersist, beq_false_of_ne hmode]
    exact Bool.false_ne_true
  simp only [casterRetireBody, if_pos hop, restoreCasters, hnone, drainBusy_eq_none hfree]

end

/-! ### The rows -/

/-- A row is refused as its body denies it. -/
theorem completes_of_denied {sp : CmdSpec} {body : Cmd → State → Except Deny State} {row : Cmd → Instr}
    {cond : Cmd → State → Prop} {den : Cmd → State → Deny} (he : ∀ c s, exec (row c) s = .next (runCmd sp body c s))
    (hb : ∀ c s, cond c s → body c s = .error (den c s)) :
    Completes sp row cond fun c s => refuse c s (den c s) := by
  intro c s hbegins hcond
  rw [he, runCmd_begins hbegins, hb _ _ hcond]

/-- Settles O55: each row completes or is refused as its body does, and no body denies what the row's condition lets pass. -/
theorem schedulerCommands : Obligations.SchedulerCommands := by
  unfold Obligations.SchedulerCommands
  refine ⟨fun m => completes_of exec_memMap fun c s ⟨hnew, hfree, hbook⟩ => memMapBody_ok hnew hfree hbook,
    ⟨fun l => completes_of exec_memWrite fun c s ⟨hdata, hready, hmay⟩ =>
        (memWriteBody_serves hdata hready).trans (congrArg Except.ok (if_pos hmay)),
      fun l => completes_of exec_memWrite fun c s ⟨hdata, hready, hdenied⟩ =>
        (memWriteBody_serves hdata hready).trans (congrArg Except.ok (if_neg (Bool.eq_false_iff.mp hdenied))),
      fun l => completes_of exec_memWrite fun c s ⟨hdata, hwaits⟩ => memWriteBody_waits hdata hwaits⟩,
    ⟨fun m => completes_of exec_memTrain fun c s ⟨hop, hdesc, htaken, hnone, hbook⟩ =>
        memTrainBody_describes hop hdesc htaken hnone hbook,
      completes_of exec_memTrain fun c s ⟨hop, htaken, hactive, hring⟩ => memTrainBody_recal htaken hop hactive hring,
      completes_of exec_memTrain fun c s ⟨hop, htaken, hstate, hquiet, hbook⟩ =>
        memTrainBody_retrain htaken hquiet hop hstate hbook,
      completes_of exec_memTrain fun c s ⟨hop, htaken, hactive, hquiet, hbook⟩ =>
        memTrainBody_retire htaken hquiet hop hactive hbook,
      completes_of exec_memTrain fun c s ⟨hop, htaken, hretired, hcommand, hquiet, hbook⟩ =>
        memTrainBody_restore htaken hquiet hop hretired hcommand hbook⟩,
    ⟨fun l g => completes_of exec_graphLoad fun c s ⟨hbuffer, hin, hgraph, hgood⟩ =>
        graphLoadBody_buffer hbuffer hin hgraph hgood,
      fun t l e g => completes_of exec_graphLoad fun c s ⟨hmemory, hregion, hready, hfetch, hgraph, hgood⟩ =>
        graphLoadBody_memory hmemory hregion hready hfetch hgraph hgood,
      completes_of exec_graphLoad fun c s ⟨hmemory, hregion, hwaits⟩ => graphLoadBody_waits hmemory hregion hwaits⟩,
    ⟨completes_of exec_flowConfig fun c s ⟨hop, hclosed⟩ => flowConfigBody_opens hop hclosed,
      completes_of exec_flowConfig fun c s ⟨hop, hopen⟩ => flowConfigBody_reconfigures hop hopen,
      completes_of exec_flowConfig fun c s ⟨hop, hall⟩ => flowConfigBody_closes hop hall,
      ⟨fun t d => completes_of exec_flowSubmit fun c s ⟨hbuffer, hdeny, hadmit⟩ =>
          flowSubmitBody_admitted hbuffer hdeny hadmit,
        fun t i r d j => completes_of exec_flowSubmit fun c s ⟨hbuffer, hdeny, hlong, hadmit, hjob⟩ =>
          flowSubmitBody_goesOn hbuffer hdeny hadmit hlong hjob,
        fun t i r d => completes_of_denied exec_flowSubmit fun c s ⟨hbuffer, hdeny, hshort, hadmit⟩ =>
          flowSubmitBody_blocked hbuffer hdeny hadmit hshort⟩,
      completes_of exec_flowDrain fun c s ⟨hop, hopen⟩ => flowDrainBody_keeps hopen hop,
      completes_of exec_flowDrain fun c s ⟨hop, hopen⟩ => flowDrainBody_discards hopen hop⟩,
    completes_of exec_coolConfig fun c s ⟨hperiod, hdomains, hprofiles⟩ => coolConfigBody_ok hperiod hdomains hprofiles,
    completes_of exec_spillConfig fun c s _ => rfl,
    completes_of exec_schedTrace fun c s hop => schedTraceBody_off hop,
    completes_of exec_schedTrace fun c s ⟨hop, hring⟩ => schedTraceBody_on hop hring,
    completes_of exec_schedTrace fun c s hop => schedTraceBody_arms hop,
    ⟨fun h l k => completes_of exec_kernelLoad fun c s ⟨hbuffer, hhead, hin, hkernel, htargets, hfree⟩ =>
        kernelLoadBody_buffer hbuffer hhead hin hkernel htargets hfree,
      fun h u v t l e k => completes_of exec_kernelLoad fun c s
          ⟨hmemory, hheadRegion, hheadReady, hhead, hregion, hready, hfetch, hkernel, htargets, hfree⟩ =>
        kernelLoadBody_memory hmemory hheadRegion hheadReady hhead hregion hready hfetch hkernel htargets hfree,
      completes_of exec_kernelLoad fun c s ⟨hmemory, hregion, hwaits⟩ => kernelLoadBody_waits hmemory hregion hwaits,
      completes_of exec_casterRetire fun c s ⟨hop, htargets, hfree, hbook⟩ =>
        casterRetireBody_retires hop htargets hfree hbook,
      completes_of exec_casterRetire fun c s ⟨hop, hfree, hkept⟩ => casterRetireBody_restores hop hfree hkept⟩⟩

end Sys2Proof.Proofs
end

section
/-! PROOFS. Host ports: a step (log entry 1), a port's writes to its own block (R316, R452), and its rings: fetch, replies,
moderation, enable (R319, R327 to R330). -/

namespace Sys2Proof.Proofs

open Sys2Proof Machine Laws

/-- Settles O1: the queue's front is the command that a step runs. -/
theorem stepRunsFront : Obligations.StepRunsFront := by
  unfold Obligations.StepRunsFront
  exact fun _ _ => rfl

section

variable {s : State} {p : Fin 2}

/-- A port's write to its own block takes effect where registers are served. -/
theorem ownWrite_served (hreach : reaches s p = true) (hholds : holdsWrites s = false) (hserved : served s = true)
    (off : Nat) (v : BitVec 32) (buf : Option (List Byte)) (f : State → State) : ownWrite s p p off v buf f = f s := by
  simp only [ownWrite, hreach, hholds, hserved, Bool.not_true, Bool.false_eq_true, if_false, ne_eq, not_true, if_true]

/-! ### Fetch and replies (R329, R330) -/

theorem execCommandFetch_fetches {n : Fin 4} {whole : BitVec 4} {slots : List Byte}
    (hmay : mayFetch s p n whole (cmdSlots slots) = true) (buf : Option (List Byte)) :
    execCommandFetch p n whole slots buf s =
      .next (arrive (readCmd (.ring p n) slots buf) (advanceFetch s p n (cmdSlots slots))) := by
  rw [execCommandFetch, if_pos hmay]

theorem execReplyWrite_writes {n : Fin 4} {w : Reply} {rest : List Reply} (hwaits : (s.ring p (rqOf n)).waiting = w :: rest)
    (hfits : replyFits (s.ring p (rqOf n)) w.bytes.length = true) :
    execReplyWrite p n s = .next (writeReply (s.modRing p (rqOf n) fun r => { r with waiting := rest }) p n w.bytes) := by
  simp only [execReplyWrite, hwaits, hfits, if_true]

/-! ### Moderation (R319) -/

section

variable {r : Fin 24} (hruns : (s.ring p r).imodOn = true)
include hruns

theorem execImodExpiry_updated (hpend : (s.ring p r).imodPend = true) : execImodExpiry p r s =
    .next (ringMessage (s.modRing p r fun h => { h with imodOn := false, imodPend := false }) p r) := by
  simp only [execImodExpiry, hruns, hpend, Bool.not_true, Bool.false_eq_true, if_false, if_true]

theorem execImodExpiry_quiet (hpend : (s.ring p r).imodPend = false) : execImodExpiry p r s =
    .next (s.modRing p r fun h => { h with imodOn := false, imodPend := false }) := by
  simp only [execImodExpiry, hruns, hpend, Bool.not_true, Bool.false_eq_true, if_false]

end

/-! ### A ring becomes ACTIVE (R327) -/

theorem execRingActive_sent {r : Fin 24} (henabling : (s.ring p r).state = .enabling) (hsent : s.hosts.port[p].dmaHeld = []) :
    execRingActive p r s = .next (s.modRing p r fun r => { r with state := .active }) := by
  rw [execRingActive, if_pos ⟨henabling, hsent⟩]

theorem execRingActive_waits (r : Fin 24) (hwait : s.hosts.port[p].dmaHeld ≠ []) : execRingActive p r s = .next s := by
  rw [execRingActive, if_neg fun h => hwait h.2]

end

/-- Settles O41: the cases of the rows of a ring. -/
theorem ringSteps : Obligations.RingSteps := by
  unfold Obligations.RingSteps
  intro s p
  refine ⟨fun n whole slots buf hmay => execCommandFetch_fetches hmay buf,
    fun n w rest hwaits hfits => execReplyWrite_writes hwaits hfits,
    fun r hruns => ⟨execImodExpiry_updated hruns, execImodExpiry_quiet hruns⟩,
    fun v hreach hholds hserved => ⟨?_, ?_⟩,
    fun r henabling => ⟨execRingActive_sent henabling, execRingActive_waits r⟩⟩
  · rw [exec_ringEnable, execRingEnable, ownWrite_served hreach hholds hserved]
  · rw [exec_ringDisable, execRingDisable, ownWrite_served hreach hholds hserved]

end Sys2Proof.Proofs
end

section
/-! PROOFS. The host indices (R328): which writes of a tail, a head and a release index are accepted, and what the control page
of a ring in window placement shows after an accepted release. -/

namespace Sys2Proof.Proofs

open Sys2Proof Machine Laws

/-! ### Rings after an update -/

theorem modRing_ring (s : State) (p : Fin 2) (i : Fin 24) (f : Ring → Ring) :
    (s.modRing p i f).ring p i = f (s.ring p i) := by
  simp [State.ring, State.modRing]

/-- An update of a port that leaves its rings alone. -/
theorem modPort_ring (s : State) {p : Fin 2} {f : Port → Port} (hf : ∀ h, (f h).rings = h.rings) (q : Fin 2) (i : Fin 24) :
    (s.modPort p f).ring q i = s.ring q i := by
  by_cases hpq : p = q
  · subst hpq
    simp [State.ring, hf]
  · simp [State.ring, vmod_get_ne _ _ _ _ hpq]

theorem hostOut_ring (s : State) (p : Fin 2) (l : List (Nat × List Byte)) (q : Fin 2) (i : Fin 24) :
    (hostOut s p l).ring q i = s.ring q i := by
  unfold hostOut
  split
  · rfl
  · exact modPort_ring s (by intro; rfl) q i

theorem ringWrite_ring (s : State) (p : Fin 2) (r : Fin 16) (off : Nat) (l : List Byte) (q : Fin 2) (i : Fin 24) :
    (ringWrite s p r off l).ring q i = s.ring q i := by
  unfold ringWrite
  simp only
  split
  · exact modPort_ring s (by intro; rfl) q i
  · exact hostOut_ring s p _ q i

theorem freeSlots_ring (s : State) (p : Fin 2) (r : Fin 16) (i k : Nat) (q : Fin 2) (j : Fin 24) :
    (freeSlots s p r i k).ring q j = s.ring q j := by
  induction k generalizing s i with
  | zero => rfl
  | succ k ih => rw [freeSlots, ih, ringWrite_ring]

/-! ### The result windows stay in canonical form -/

theorem ringWrite_windows {s : State} {p : Fin 2} {r : Fin 16} (hplace : (s.ring p (rrOf r)).place = true) (off : Nat)
    (l : List Byte) : (ringWrite s p r off l).hosts.port[p].windows =
      writeBytes s.hosts.port[p].windows (windowKey r off) l := by
  simp [ringWrite, hplace]

theorem freeSlots_windows_wf {s : State} {p : Fin 2} {r : Fin 16} (hplace : (s.ring p (rrOf r)).place = true) (i k : Nat)
    (hwf : Memory.wf s.hosts.port[p].windows) : Memory.wf (freeSlots s p r i k).hosts.port[p].windows := by
  induction k generalizing s i with
  | zero => exact hwf
  | succ k ih =>
    refine ih (by rw [ringWrite_ring]; exact hplace) _ ?_
    rw [ringWrite_windows hplace]
    exact writeBytes_wf _ _ hwf

/-- Bytes written to a memory in canonical form are read back. -/
theorem readBytes_writeBytes {m : Memory} (a : Nat) (l : List Byte) (hwf : Memory.wf m) :
    readBytes (writeBytes m a l) a l.length = l := by
  refine readBytes_eq fun i hi => ?_
  rw [tget_writeBytes a l hwf, if_pos ⟨Nat.le_add_right a i, Nat.add_lt_add_left hi a⟩, Nat.add_sub_cancel_left]

/-! ### The writes -/

section

variable {s : State} {p : Fin 2} {v : BitVec 32}

theorem sqTailWrite_accepted {n : Fin 4} (hroom : (v - (s.ring p (sqOf n)).dev).toNat ≤ ringN (s.ring p (sqOf n))) :
    sqTailWrite s p n v = s.modRing p (sqOf n) fun r => { r with host := v } := if_pos hroom

theorem sqTailWrite_refused {n : Fin 4} (hfar : ringN (s.ring p (sqOf n)) < (v - (s.ring p (sqOf n)).dev).toNat) :
    sqTailWrite s p n v = hpErr s p hpDb := if_neg (Nat.not_le.mpr hfar)

theorem rqHeadWrite_accepted {n : Fin 4} (hforward : (v - (s.ring p (rqOf n)).host).toNat ≤
    ((s.ring p (rqOf n)).dev - (s.ring p (rqOf n)).host).toNat) :
    rqHeadWrite s p n v = s.modRing p (rqOf n) fun r => { r with host := v } := if_pos hforward

theorem rqHeadWrite_refused {n : Fin 4} (hfar : ((s.ring p (rqOf n)).dev - (s.ring p (rqOf n)).host).toNat <
    (v - (s.ring p (rqOf n)).host).toNat) : rqHeadWrite s p n v = hpErr s p hpDb := if_neg (Nat.not_le.mpr hfar)

theorem rrRelWrite_refused {r : Fin 16} (hfar : ((s.ring p (rrOf r)).dev - (s.ring p (rrOf r)).host).toNat <
    (v - (s.ring p (rrOf r)).host).toNat) : rrRelWrite s p r v = hpErr s p hpRel := if_neg (Nat.not_le.mpr hfar)

/-- The slots that an accepted release gives back, with their lap words rewritten. -/
def released (s : State) (p : Fin 2) (r : Fin 16) (v : BitVec 32) : State :=
  freeSlots s p r (s.ring p (rrOf r)).host.toNat (v - (s.ring p (rrOf r)).host).toNat

theorem rrRelWrite_accepted {r : Fin 16} (hforward : (v - (s.ring p (rrOf r)).host).toNat ≤
    ((s.ring p (rrOf r)).dev - (s.ring p (rrOf r)).host).toNat) :
    rrRelWrite s p r v = State.modRing (if (s.ring p (rrOf r)).place = true then
      ringWrite (released s p r v) p r 4 (leBytes 4 v.toNat) else released s p r v) p (rrOf r) fun h => { h with host := v } :=
  if_pos hforward

/-- The release index after an accepted release. -/
theorem rrRelWrite_host {r : Fin 16} (hforward : (v - (s.ring p (rrOf r)).host).toNat ≤
    ((s.ring p (rrOf r)).dev - (s.ring p (rrOf r)).host).toNat) : ((rrRelWrite s p r v).ring p (rrOf r)).host = v := by
  rw [rrRelWrite_accepted hforward, modRing_ring]

/-- The control page of a ring in window placement after an accepted release. -/
theorem windowRead_rrRelWrite {r : Fin 16} (hforward : (v - (s.ring p (rrOf r)).host).toNat ≤
    ((s.ring p (rrOf r)).dev - (s.ring p (rrOf r)).host).toNat) (hplace : (s.ring p (rrOf r)).place = true)
    (hwf : Memory.wf s.hosts.port[p].windows) :
    windowRead (rrRelWrite s p r v) p (r.val * 2 ^ 23 + 4) 4 = leBytes 4 v.toNat := by
  have hplaced : ((released s p r v).ring p (rrOf r)).place = true := by rw [released, freeSlots_ring]; exact hplace
  have hwindows : (rrRelWrite s p r v).hosts.port[p].windows =
      writeBytes (released s p r v).hosts.port[p].windows (windowKey r 4) (leBytes 4 v.toNat) := by
    rw [rrRelWrite_accepted hforward, if_pos hplace, ← ringWrite_windows hplaced]
    simp [State.modRing]
  have hstill :
      (vget ({} : Ring) (rrRelWrite s p r v).hosts.port[p].rings (8 + (r.val * 2 ^ 23 + 4) / 2 ^ 23)).place = true := by
    have hring : (r.val * 2 ^ 23 + 4) / 2 ^ 23 = r.val := by omega
    rw [hring, show 8 + r.val = (rrOf r).val from rfl, vget_fin]
    change ((rrRelWrite s p r v).ring p (rrOf r)).place = true
    rw [rrRelWrite_accepted hforward, if_pos hplace, modRing_ring, ringWrite_ring]
    exact hplaced
  have hread := readBytes_writeBytes (windowKey r 4) (leBytes 4 v.toNat) (freeSlots_windows_wf hplace
    (s.ring p (rrOf r)).host.toNat (v - (s.ring p (rrOf r)).host).toNat hwf)
  rw [length_leBytes] at hread
  rw [windowRead, if_pos hstill, hwindows]
  exact hread

/-! ### The rows -/

section

variable (hreach : reaches s p = true) (hholds : holdsWrites s = false) (hserved : served s = true)
include hreach hholds hserved

theorem execHpSqTail_served (n : Fin 4) (v : BitVec 32) : exec (.hpSqTail p p n v) s = .next (sqTailWrite s p n v) := by
  rw [exec_hpSqTail, execHpSqTail, ownWrite_served hreach hholds hserved]

theorem execHpRqHead_served (n : Fin 4) (v : BitVec 32) : exec (.hpRqHead p p n v) s = .next (rqHeadWrite s p n v) := by
  rw [exec_hpRqHead, execHpRqHead, ownWrite_served hreach hholds hserved]

theorem execHpRrRel_served (r : Fin 16) (v : BitVec 32) : exec (.hpRrRel p p r v) s = .next (rrRelWrite s p r v) := by
  rw [exec_hpRrRel, execHpRrRel, ownWrite_served hreach hholds hserved]

/-- What O42 says holds of every state in which the port's table of window bytes is in the canonical form of `Tab`. -/
theorem hostIndexWrites_of_wf (v : BitVec 32) (hwf : Memory.wf s.hosts.port[p].windows) :
    (∀ n : Fin 4,
      ((v - (s.ring p (sqOf n)).dev).toNat ≤ ringN (s.ring p (sqOf n)) →
        exec (.hpSqTail p p n v) s = .next (s.modRing p (sqOf n) fun r => { r with host := v })) ∧
      (ringN (s.ring p (sqOf n)) < (v - (s.ring p (sqOf n)).dev).toNat →
        exec (.hpSqTail p p n v) s = .next (hpErr s p hpDb))) ∧
    (∀ n : Fin 4,
      ((v - (s.ring p (rqOf n)).host).toNat ≤ ((s.ring p (rqOf n)).dev - (s.ring p (rqOf n)).host).toNat →
        exec (.hpRqHead p p n v) s = .next (s.modRing p (rqOf n) fun r => { r with host := v })) ∧
      (((s.ring p (rqOf n)).dev - (s.ring p (rqOf n)).host).toNat < (v - (s.ring p (rqOf n)).host).toNat →
        exec (.hpRqHead p p n v) s = .next (hpErr s p hpDb))) ∧
    (∀ r : Fin 16,
      ((v - (s.ring p (rrOf r)).host).toNat ≤ ((s.ring p (rrOf r)).dev - (s.ring p (rrOf r)).host).toNat →
        ∃ t, exec (.hpRrRel p p r v) s = .next t ∧ (t.ring p (rrOf r)).host = v ∧
          ((s.ring p (rrOf r)).place = true → windowRead t p (r.val * 2 ^ 23 + 4) 4 = leBytes 4 v.toNat)) ∧
      (((s.ring p (rrOf r)).dev - (s.ring p (rrOf r)).host).toNat < (v - (s.ring p (rrOf r)).host).toNat →
        exec (.hpRrRel p p r v) s = .next (hpErr s p hpRel))) := by
  simp only [execHpSqTail_served hreach hholds hserved, execHpRqHead_served hreach hholds hserved,
    execHpRrRel_served hreach hholds hserved, Host.Outcome.next.injEq]
  exact ⟨fun n => ⟨sqTailWrite_accepted, sqTailWrite_refused⟩, fun n => ⟨rqHeadWrite_accepted, rqHeadWrite_refused⟩,
    fun r => ⟨fun hforward => ⟨_, rfl, rrRelWrite_host hforward, fun hplace => windowRead_rrRelWrite hforward hplace hwf⟩,
      rrRelWrite_refused⟩⟩

end

end

/-- Port 0 reachable in SERVICE, its result ring 0 in window placement, and its table of window bytes lists byte 4 twice. -/
def twiceListed : State :=
  (State.modPort { State.reset with dev.state := .service } 0 fun h =>
    { h with linkUp := true, mse := true, windows := [(4, 1), (4, 1)] }).modRing 0 (rrOf 0) fun r => { r with place := true }

/-- Writing its release index 0 again removes one of the two entries, and the control page goes on to read 1. -/
theorem windowRead_twiceListed :
    reaches twiceListed 0 = true ∧ holdsWrites twiceListed = false ∧ served twiceListed = true ∧
    (0 - (twiceListed.ring 0 (rrOf 0)).host : BitVec 32).toNat ≤
      ((twiceListed.ring 0 (rrOf 0)).dev - (twiceListed.ring 0 (rrOf 0)).host).toNat ∧
    (twiceListed.ring 0 (rrOf 0)).place = true ∧
    windowRead (rrRelWrite twiceListed 0 0 0) 0 4 4 = [1, 0, 0, 0] := by decide +kernel

/-- Refutes O42: it speaks of every state, also of one whose table of window bytes is not in the canonical form of `Tab`. Where
the table lists byte 4 twice, an accepted write of 0 to the release index leaves one entry, and bytes 4 to 7 do not read the
index. With the table in canonical form all of it holds (`hostIndexWrites_of_wf`). -/
theorem not_hostIndexWrites : ¬ Obligations.HostIndexWrites := by
  unfold Obligations.HostIndexWrites
  intro h
  obtain ⟨hreach, hholds, hserved, hforward, hplace, hreads⟩ := windowRead_twiceListed
  obtain ⟨-, -, hrel⟩ := h twiceListed 0 0 hreach hholds hserved
  obtain ⟨t, ht, -, hwindow⟩ := (hrel 0).1 hforward
  rw [execHpRrRel_served hreach hholds hserved, Host.Outcome.next.injEq] at ht
  subst ht
  exact absurd (hreads.symm.trans (hwindow hplace)) (by decide)

end Sys2Proof.Proofs
end

section
/-! PROOFS. Semaphores (R322, R323): reads and releases by one port, and the reads of both ports in one hub cycle. -/

namespace Sys2Proof.Proofs

open Sys2Proof Machine Laws

/-! ### The word of a semaphore (Table 12-3) -/

/-- `OWNER` of a semaphore. -/
def ownerField (x : Sem) : Nat := match x.owner with
  | none => 0
  | some q => q.val + 1

theorem ownerField_lt (x : Sem) : ownerField x < 4 := by
  unfold ownerField
  split <;> omega

theorem b2n_le (b : Bool) : b2n b ≤ 1 := by cases b <;> decide

theorem semWord_eq (x : Sem) :
    semWord x = b2n x.free * 2 ^ 31 + b2n x.tie * 2 ^ 29 + b2n x.lost * 2 ^ 28 + ownerField x * 2 ^ 26 + x.takes.toNat := rfl

theorem semWord_free (x : Sem) : (semWord x).testBit 31 = x.free := by
  have hlow : b2n x.tie * 2 ^ 29 + b2n x.lost * 2 ^ 28 + ownerField x * 2 ^ 26 + x.takes.toNat < 2 ^ 31 := by
    have := b2n_le x.tie
    have := b2n_le x.lost
    have := ownerField_lt x
    omega
  have hbit : semWord x / 2 ^ 31 = b2n x.free := by rw [semWord_eq]; omega
  rw [Nat.testBit_eq_decide_div_mod_eq, hbit]
  cases x.free <;> rfl

theorem semWord_owner (x : Sem) : semWord x / 2 ^ 26 % 4 = ownerField x := by
  have := ownerField_lt x
  rw [semWord_eq]
  omega

/-! ### Reads and writes of one port (R322) -/

/-- A semaphore that port `p` has taken. -/
def takenBy (p : Fin 2) (x : Sem) : Sem := { x with free := false, owner := some p, takes := x.takes + 1, lost := false }

section

variable {s : State} {p : Fin 2} {n : Fin 64}

theorem modSem_get (f : Sem → Sem) : (s.modSem n f).hosts.sem[n] = f s.hosts.sem[n] := vmod_get _ _ _

theorem modSem_get_ne {m : Fin 64} (hm : n ≠ m) (f : Sem → Sem) : (s.modSem n f).hosts.sem[m] = s.hosts.sem[m] :=
  vmod_get_ne _ _ _ _ hm

theorem semRead_free (hserved : served s = true) (hfree : (s.hosts.sem[n]).free = true) :
    semRead s p n = (readReply s p (semWord s.hosts.sem[n])).modSem n (takenBy p) := by
  simp only [semRead, hserved, Bool.not_true, Bool.false_eq_true, if_false]
  exact if_pos hfree

theorem semRead_taken (hserved : served s = true) (htaken : (s.hosts.sem[n]).free = false) :
    semRead s p n = readReply s p (semWord s.hosts.sem[n]) := by
  simp only [semRead, hserved, Bool.not_true, Bool.false_eq_true, if_false]
  exact if_neg (by rw [htaken]; decide)

/-- The row is a read of one port where the other has none in the cycle, or does not reach the device. -/
theorem execSemTake_one {both : Bool} (hreach : reaches s p = true) (halone : both = true → reaches s (1 - p) = false) :
    execSemTake p both n s = .next (semRead s p n) := by
  have hnot : (both && reaches s 0 && reaches s 1) = false := by
    cases both with
    | false => rfl
    | true =>
      have hother := halone rfl
      match p with
      | 0 => rw [show reaches s 1 = false from hother, Bool.and_false]
      | 1 => rw [show reaches s 0 = false from hother, Bool.and_false, Bool.false_and]
  rw [execSemTake, hnot, hreach]
  rfl

theorem execSemRelease_served (hreach : reaches s p = true) (hserved : served s = true) (v : BitVec 32) :
    execSemRelease p n v s = .next (semWrite s p n v) := by rw [execSemRelease, hreach, hserved]; rfl

section

variable {v : BitVec 32}

theorem semWrite_owner (hrelease : v.getLsbD 30 = true) (howner : (s.hosts.sem[n]).owner = some p) :
    semWrite s p n v = s.modSem n fun x => { x with free := true, owner := none } := by
  rw [semWrite, hrelease]
  exact if_pos howner

theorem semWrite_other (hrelease : v.getLsbD 30 = true) (howner : (s.hosts.sem[n]).owner ≠ some p) :
    semWrite s p n v = s.modPort p fun h => { h with cntSemign := h.cntSemign + 1 } := by
  rw [semWrite, hrelease]
  exact if_neg howner

theorem semWrite_zero (hzero : v.getLsbD 30 = false) : semWrite s p n v = s := by rw [semWrite, hzero]; rfl

end

/-! ### Reads of both ports in one cycle (R323) -/

/-- A read finds a semaphore that has been taken, and leaves it so. -/
theorem semRead_takenBy (hserved : served s = true) (w q : Fin 2) : semRead (s.modSem n (takenBy w)) q n =
    readReply (s.modSem n (takenBy w)) q (semWord (takenBy w s.hosts.sem[n])) := by
  have hsem := modSem_get (s := s) (n := n) (takenBy w)
  rw [semRead_taken (s := s.modSem n (takenBy w)) hserved (by rw [hsem]; rfl), hsem]

/-- The first reader finds the semaphore free and takes it, the second finds it taken. -/
theorem semReadBoth_free (hserved : served s = true) (hfree : (s.hosts.sem[n]).free = true) {w : Fin 2}
    (hw : w = if (s.hosts.sem[n]).tie then 1 else 0) :
    semReadBoth s n = (readReply ((readReply s w (semWord s.hosts.sem[n])).modSem n (takenBy w)) (1 - w)
      (semWord (takenBy w s.hosts.sem[n]))).modSem n fun x => { x with tie := !x.tie } := by
  have hsecond := (congrArg (semRead · (1 - w) n) (semRead_free (p := w) hserved hfree)).trans
    (semRead_takenBy (s := readReply s w (semWord s.hosts.sem[n])) hserved w (1 - w))
  rw [semReadBoth, hserved, ← hw]
  exact congrArg (State.modSem · n fun x => { x with tie := !x.tie }) hsecond

end

/-- Settles O43: the reads and releases of one port. -/
theorem semaphores : Obligations.Semaphores := by
  unfold Obligations.Semaphores
  intro s p n hreach hserved x
  refine ⟨fun both halone => ?_, fun v => ?_⟩
  · rw [exec_semTake, execSemTake_one hreach halone]
    exact ⟨fun hfree => congrArg _ (semRead_free hserved hfree), fun htaken => congrArg _ (semRead_taken hserved htaken)⟩
  · rw [exec_semRelease, execSemRelease_served hreach hserved]
    exact ⟨fun hrelease howner => congrArg _ (semWrite_owner hrelease howner),
      fun hrelease howner => congrArg _ (semWrite_other hrelease howner), fun hzero => congrArg _ (semWrite_zero hzero)⟩

/-- Settles O44: the tie bit orders the two reads, and only the first finds the semaphore free. -/
theorem semaphoreTie : Obligations.SemaphoreTie := by
  unfold Obligations.SemaphoreTie
  intro s p n hreach0 hreach1 hserved hfree w
  have hexec : exec (.semTake p true n) s = .next (semReadBoth s n) := by
    rw [exec_semTake, execSemTake, hreach0, hreach1]
    rfl
  rw [semReadBoth_free hserved hfree (w := w) rfl] at hexec
  refine ⟨_, semWord s.hosts.sem[n], semWord (takenBy w s.hosts.sem[n]), hexec, ?_, (semWord_free _).trans hfree,
    semWord_free _, semWord_owner _, ?_⟩
  · exact List.append_assoc s.out _ _
  · have hsem := (modSem_get (s := readReply ((readReply s w (semWord s.hosts.sem[n])).modSem n (takenBy w)) (1 - w)
      (semWord (takenBy w s.hosts.sem[n]))) (n := n) fun x => { x with tie := !x.tie }).trans
      (congrArg (fun x : Sem => { x with tie := !x.tie }) (modSem_get _))
    rw [hsem]
    exact ⟨rfl, rfl, rfl, rfl, fun m hm => (modSem_get_ne (Ne.symm hm) _).trans (modSem_get_ne (Ne.symm hm) _)⟩

end Sys2Proof.Proofs
end

section
/-! PROOFS. The mailbox, the claim and the grace timer (R324, R332, R336). -/

namespace Sys2Proof.Proofs

open Sys2Proof Machine Laws

section

variable {s : State} {p : Fin 2}

/-! ### The mailbox and the claim (R324, R332) -/

section

variable {v : BitVec 32} (hset : v.getLsbD 0 = true)
include hset

/-- The command in the window of a mailbox that is not BUSY arrives. -/
theorem goWrite_starts (hidle : s.hosts.port[p].mbxState ≠ 1) (buf : Option (List Byte)) : goWrite s p v buf =
    arrive (readCmd (.mailbox p) (readBytes s.hosts.port[p].mbx 0 4096) buf)
      (s.modPort p fun h => { h with mbxState := 1, mbxAcc := false }) := by
  rw [goWrite, hset]
  exact if_neg hidle

theorem goWrite_busy (hbusy : s.hosts.port[p].mbxState = 1) (buf : Option (List Byte)) :
    goWrite s p v buf = hpErr s p hpMbx := by
  rw [goWrite, hset]
  exact if_pos hbusy

theorem hpCtlWrite_claims : hpCtlWrite s p v = s.modPort p fun h => { h with grace := false, graceEnd := 0 } := if_pos hset

end

/-! ### The grace timer (R324, R336) -/

/-- The grace timer of a port has run out. -/
theorem execGraceExpiry_expires (hruns : s.hosts.port[p].grace = true) (hend : s.hosts.port[p].graceEnd ≤ s.dev.yard) :
    execGraceExpiry p s = .next (expireGrace s p) := by
  rw [execGraceExpiry, hruns, decide_eq_true hend]
  rfl

end

/-- Settles O45: the writes of `GO` and `CLAIM`, and the expiry with and without a semaphore freed. -/
theorem mailboxAndGrace : Obligations.MailboxAndGrace := by
  unfold Obligations.MailboxAndGrace
  intro s p
  refine ⟨fun v hreach hholds hserved hset => ?_, ?_⟩
  · simp only [exec_go, execGo, exec_claim, execClaim, ownWrite_served hreach hholds hserved, hpCtlWrite_claims hset,
      Host.Outcome.next.injEq, and_true]
    exact ⟨fun buf hidle => goWrite_starts hset hidle buf, fun buf hbusy => goWrite_busy hset hbusy buf⟩
  · intro hruns hend freed s1 s2
    rw [exec_graceExpiry, execGraceExpiry_expires hruns hend]
    exact ⟨fun hfreed => congrArg _ (if_pos hfreed), fun hnone => congrArg _ (if_neg (Bool.eq_false_iff.mp hnone))⟩

end Sys2Proof.Proofs
end

section
/-! PROOFS. Accesses of a port to BAR0 and BAR4 (R4, R5, R316, R451 to R455). -/

namespace Sys2Proof.Proofs

open Sys2Proof Machine Laws

section

variable {s : State} {p : Fin 2} {a : Nat}

/-- The state in which the link of a port has left ASPM L1. -/
def awake (s : State) (p : Fin 2) : State := if s.hosts.port[p].l1 then s.modPort p fun h => { h with l1 := false } else s

theorem awake_dev : (awake s p).dev = s.dev := by
  unfold awake
  split <;> rfl

/-! ### One access (R4, R316) -/

theorem not_misaligned (halign : a % 4 = 0) : ¬(a % 4 ≠ 0 ∧ (!inMailbox a) = true) := fun h => h.1 halign

theorem hostAccess_alone (x : HostAccess) : hostAccess s p a x none = bar0Access s p a x := rfl

section

variable (hreach : reaches s p = true)
include hreach

theorem bar0Access_read (halign : a % 4 = 0) : bar0Access s p a .read = readReg (awake s p) p a := by
  rw [bar0Access, hreach]
  exact if_neg (not_misaligned halign)

theorem bar0Access_write (halign : a % 4 = 0) (v : BitVec 32) :
    bar0Access s p a (.write v) = bar0Write (awake s p) p a v none := by
  rw [bar0Access, hreach]
  exact if_neg (not_misaligned halign)

/-- Accesses of both ports in one cycle. -/
theorem hostAccess_tied (hother : reaches s (1 - p) = true) (x y : HostAccess) :
    hostAccess s p a x (some y) = tiedAccess s p a x y := by
  rw [hostAccess, hreach, hother]
  rfl

end

/-- The block or window at `a` is not the other port's. -/
def MayWrite (p : Fin 2) (a : Nat) : Prop := ∀ q, ownerOf a = some q → q = p

theorem otherOwner_false (hmay : MayWrite p a) : (ownerOf a).any (· != p) = false := by
  cases howner : ownerOf a with
  | none => rfl
  | some q => rw [hmay q howner]; exact bne_self_eq_false p

theorem otherOwner_true {q : Fin 2} (howner : ownerOf a = some q) (hq : q ≠ p) : (ownerOf a).any (· != p) = true := by
  rw [howner]
  exact bne_iff_ne.mpr hq

/-- A write to a register that the port may write, while registers are served. -/
theorem bar0Write_served (hmay : MayWrite p a) (hholds : holdsWrites s = false) (hserved : served s = true) (v : BitVec 32)
    (buf : Option (List Byte)) : bar0Write s p a v buf = writeReg s p a v buf := by
  rw [bar0Write, otherOwner_false hmay, hholds, hserved, Bool.and_false]
  rfl

/-! ### Accesses that R4 and R316 do not allow -/

section

variable (hreach : reaches s p = true) {addr : BitVec 24} {size : BitVec 13}
include hreach

theorem execBar0BadAccess_other {q : Fin 2} (howner : ownerOf addr.toNat = some q) (hq : q ≠ p) :
    execBar0BadAccess p addr size true s = .next (hpErr s p hpAcc) := by
  rw [execBar0BadAccess, hreach, otherOwner_true howner hq]
  rfl

theorem execBar0BadAccess_bad {write : Bool} (hbad : size ≠ 4 ∨ addr.toNat % 4 ≠ 0)
    (houtside : inMailbox addr.toNat = false) (hmay : write = true → MayWrite p addr.toNat) :
    execBar0BadAccess p addr size write s = .next (badAccess s p size.toNat write) := by
  have hown : (write && (ownerOf addr.toNat).any (· != p)) = false := by
    cases write with
    | false => rfl
    | true => exact otherOwner_false (hmay rfl)
  have hbreaks : (size ≠ 4 ∨ addr.toNat % 4 ≠ 0) ∧ (!inMailbox addr.toNat) = true := ⟨hbad, by rw [houtside]; rfl⟩
  rw [execBar0BadAccess, hreach, hown]
  exact congrArg _ (if_pos hbreaks)

end

end

/-- Settles O46: the cases of the access rows. -/
theorem registerAccesses : Obligations.RegisterAccesses := by
  unfold Obligations.RegisterAccesses
  intro s p addr hreach a s0
  refine ⟨fun halign => ?_, fun y hother => ?_, ?_, fun v => ?_, fun size hbad houtside => ⟨?_, fun hmay => ?_⟩,
    fun size q howner hq => execBar0BadAccess_other hreach howner hq⟩
  · have hread := bar0Access_read hreach halign
    simp only [exec_viewCaptureRead, execViewCaptureRead, exec_lowWordCaptureRead, execLowWordCaptureRead, exec_rcRead,
      execRcRead, exec_registerWrite, execRegisterWrite, hostAccess_alone, Host.Outcome.next.injEq]
    refine ⟨hread, hread, hread, fun v hmay hholds hserved => ?_⟩
    refine (bar0Access_write hreach halign v).trans (bar0Write_served hmay ?_ ?_ v none)
    · rw [holdsWrites, awake_dev]; exact hholds
    · rw [served, awake_dev]; exact hserved
  · simp only [exec_viewCaptureRead, execViewCaptureRead, exec_lowWordCaptureRead, execLowWordCaptureRead, exec_rcRead,
      execRcRead, exec_registerWrite, execRegisterWrite, hostAccess_tied hreach hother]
    exact ⟨rfl, rfl, rfl, fun _ => rfl⟩
  · rw [exec_rcRead, execRcRead, hreach]; rfl
  · rw [exec_registerWrite, execRegisterWrite, hreach]; rfl
  · exact execBar0BadAccess_bad hreach hbad houtside nofun
  · exact execBar0BadAccess_bad hreach hbad houtside fun _ => hmay

end Sys2Proof.Proofs
end

section
/-! PROOFS. BAR2, configuration requests, and the link of a port (R314, R317, R318, R324, R335, R337). -/

namespace Sys2Proof.Proofs

open Sys2Proof Machine Laws

section

variable {s : State} {p : Fin 2}

/-! ### BAR2 (R317, R335) -/

section

variable (hreach : reaches s p = true) {off : BitVec 28}
include hreach

theorem execApertureAccess_serves (data : List (Option Byte)) (haper : off.getLsbD 27 = false) (hserved : served s = true)
    (w : Bool) : execApertureAccess p off w data s =
      .next (aperPieces s p w (blocksOf (s.hosts.port[p].aper.toNat * 0x8000000 + off.toNat) data.length) data) := by
  rw [execApertureAccess, hreach, haper, hserved]
  rfl

/-- Before HALTER no memory is mapped. -/
theorem execApertureAccess_unserved (data : List (Option Byte)) (haper : off.getLsbD 27 = false)
    (hserved : served s = false) (w : Bool) : execApertureAccess p off w data s =
      .next (if w then s else s.emit (.readData p (List.replicate data.length 0xFF))) := by
  rw [execApertureAccess, hreach, haper, hserved]
  rfl

theorem execApertureAccess_window (data : List (Option Byte)) (hwindow : off.getLsbD 27 = true) (w : Bool) :
    execApertureAccess p off w data s =
      .next (if w then hpErr s p hpAcc else s.emit (.readData p (windowRead s p (off.toNat % 2 ^ 27) data.length))) := by
  rw [execApertureAccess, hreach, hwindow]
  rfl

theorem execResultWindowRead_reads (len : Nat) : execResultWindowRead p off len s =
    .next (s.emit (.readData p (windowRead s p (off.toNat % 2 ^ 27) len))) := by rw [execResultWindowRead, if_pos hreach]

end

/-! ### Configuration requests (R314) -/

/-- A device whose start has stuck answers none. -/
theorem execConfigurationRequest_stuck (hstuck : s.dev.stuck = true) (off : BitVec 12) (w : Bool) (v : BitVec 32) :
    execConfigurationRequest p off w v s = .next s := by
  rw [execConfigurationRequest]
  exact congrArg _ (if_pos (Or.inr hstuck))

section

variable (hup : s.hosts.port[p].linkUp = true) (hstuck : s.dev.stuck = false) (off : BitVec 12) (v : BitVec 32)
include hup hstuck

/-- The request is answered. -/
theorem execConfigurationRequest_answers (w : Bool) : execConfigurationRequest p off w v s =
    .next (if !s.hosts.port[p].ready then s.emit (.crs p)
      else if w then cfgWrite s p (off.toNat / 4 * 4) v
      else readReply (cfgRead s p (off.toNat / 4 * 4)).2 p (cfgRead s p (off.toNat / 4 * 4)).1) := by
  rw [execConfigurationRequest, hup, hstuck]
  rfl

theorem execConfigurationRequest_retries (hready : s.hosts.port[p].ready = false) (w : Bool) :
    execConfigurationRequest p off w v s = .next (s.emit (.crs p)) := by
  rw [execConfigurationRequest_answers hup hstuck, hready]
  rfl

theorem execConfigurationRequest_ready (hready : s.hosts.port[p].ready = true) (w : Bool) :
    execConfigurationRequest p off w v s = .next (if w then cfgWrite s p (off.toNat / 4 * 4) v
      else readReply (cfgRead s p (off.toNat / 4 * 4)).2 p (cfgRead s p (off.toNat / 4 * 4)).1) := by
  rw [execConfigurationRequest_answers hup hstuck, hready]
  rfl

end

/-! ### The link (R314, R337) -/

/-- The device is OFF, in STABLED or held in reset. -/
def Down (s : State) : Prop := s.dev.state = .off ∨ s.dev.state = .stabled ∨ s.dev.heldInReset = true

theorem not_down (hoff : s.dev.state ≠ .off) (hstabled : s.dev.state ≠ .stabled) (hreset : s.dev.heldInReset = false) :
    ¬Down s := by
  rintro (h | h | h)
  · exact hoff h
  · exact hstabled h
  · exact Bool.false_ne_true (hreset.symm.trans h)

theorem execPortLoss_loses (hnot : ¬Down s) (why : LossKind) : execPortLoss p why s = .next (losePortBy s p why) :=
  congrArg _ (if_neg hnot)

theorem execPortLoss_down (hdown : Down s) :
    execPortLoss p .perst s = .next (s.modPort p fun h => { h with perst := true, ready := false }) :=
  congrArg _ (if_pos hdown)

theorem perstRise_linkUp (h : Port) : (perstRise h).linkUp = h.linkUp := by
  unfold perstRise
  split <;> rfl

theorem execDataLinkUp_comesUp (hnot : ¬Down s) (hdown : s.hosts.port[p].linkUp = false) {speed width : Nat}
    (hlow : 1 ≤ speed) (hhigh : speed ≤ 5) (hwidth : width ∈ [1, 2, 4]) : execDataLinkUp p speed width s =
      .next ((s.modPort p perstRise).modPort p fun h => { h with linkUp := true, speed := speed, width := width }) := by
  refine congrArg _ (if_neg ?_)
  rintro (h | h | h | h | h)
  · exact hnot (.inl h)
  · exact hnot (.inr (.inl h))
  · exact hnot (.inr (.inr h))
  · rw [Fin.getElem_fin, modPort_get, perstRise_linkUp] at h
    exact Bool.false_ne_true (hdown.symm.trans h)
  · rw [decide_eq_true hlow, decide_eq_true hhigh, List.contains_iff_mem.mpr hwidth] at h
    exact absurd h (by decide)

/-- While the device is down a data link that comes up only ends `PERST_x_L`. -/
theorem execDataLinkUp_down (hdown : Down s) (speed width : Nat) :
    execDataLinkUp p speed width s = .next (s.modPort p perstRise) := by
  refine congrArg _ (if_pos ?_)
  rcases hdown with h | h | h
  · exact .inl h
  · exact .inr (.inl h)
  · exact .inr (.inr (.inl h))

/-! ### Reads of host memory (R318) -/

theorem execHostReadCompletion_fetchFails {n : Fin 4} (hactive : (s.ring p (sqOf n)).state = .active) :
    execHostReadCompletion p (.fetch n) false s =
      .next (hpErr (disableRing (readError s p) p (sqOf n)) p hpFetch) := congrArg _ (if_pos hactive)

end

/-- Settles O47: the cases of the rows of BAR2, of configuration space and of the link. -/
theorem portAccesses : Obligations.PortAccesses := by
  unfold Obligations.PortAccesses
  intro s p
  refine ⟨fun hreach off data => ⟨fun haper hserved => execApertureAccess_serves hreach data haper hserved,
      fun haper hserved => ⟨execApertureAccess_unserved hreach data haper hserved true,
        execApertureAccess_unserved hreach data haper hserved false⟩,
      fun hwindow => ⟨execApertureAccess_window hreach data hwindow true,
        execApertureAccess_window hreach data hwindow false⟩,
      execResultWindowRead_reads hreach⟩,
    fun hup hstuck off v => ⟨execConfigurationRequest_retries hup hstuck off v, fun hready =>
      ⟨execConfigurationRequest_ready hup hstuck off v hready true,
        execConfigurationRequest_ready hup hstuck off v hready false⟩⟩,
    fun hoff hstabled hreset => ⟨execPortLoss_loses (not_down hoff hstabled hreset), fun hdown speed width =>
      execDataLinkUp_comesUp (not_down hoff hstabled hreset) hdown⟩,
    fun _ => execConfigurationRequest_stuck,
    fun hdown => ⟨execPortLoss_down hdown, execDataLinkUp_down hdown⟩, fun what => rfl,
    fun n => execHostReadCompletion_fetchFails⟩

end Sys2Proof.Proofs
end

section
/-! PROOFS. The SMBus sideband (R338, R339). -/

namespace Sys2Proof.Proofs

open Sys2Proof Machine Laws

section

variable {s : State}

/-! ### Whether it answers -/

theorem smbus_answers (hon : s.dev.state ≠ .off) (htrip : s.dev.thermtripL = true) (f : State → State) :
    smbus s f = f s := by
  refine if_neg fun h => ?_
  rcases h with h | h
  · exact hon h
  · rw [htrip] at h
    exact Bool.false_ne_true h

theorem smbus_silent (hoff : s.dev.state = .off ∨ s.dev.thermtripL = false) (f : State → State) : smbus s f = s := by
  refine if_pos (hoff.imp_right fun h => ?_)
  rw [h]
  rfl

/-! ### Writes -/

section

variable (hon : s.dev.state ≠ .off) (htrip : s.dev.thermtripL = true) {code b0 b1 : Byte} {ok low : Bool}
include hon htrip

/-- A command code outside Table 12-8. -/
theorem execSidebandShutdown_unlisted (hcode : code = 0 ∨ 5 < code.toNat) :
    execSidebandShutdown b0 b1 ⟨code, ok, low⟩ s = .next (s.emit .nack) := by
  have hunlisted : sideCode code = false := by
    rcases hcode with rfl | hcode
    · rfl
    · rw [sideCode, decide_eq_false (Nat.not_le.mpr hcode), Bool.and_false]
  rw [execSidebandShutdown, smbus_answers hon htrip, hunlisted]
  rfl

theorem execSidebandShutdown_badKey (hkey : b0 ≠ 0x5D) :
    execSidebandShutdown b0 b1 ⟨0x05, ok, low⟩ s = .next (s.emit .nack) := by
  rw [execSidebandShutdown, smbus_answers hon htrip]
  exact congrArg _ ((if_neg Bool.false_ne_true).trans (if_pos ⟨rfl, hkey⟩))

/-- A write to the code of a read has no effect beside the count of a wrong PEC. -/
theorem execSidebandShutdown_read (hlow : 1 ≤ code.toNat) (hhigh : code.toNat ≤ 4) :
    execSidebandShutdown b0 b1 ⟨code, ok, low⟩ s =
      .next (if ok then s else { s with pins.pec := satAdd s.pins.pec 1 }) := by
  have hread : code ≠ 0x05 := by
    rintro rfl
    exact absurd hhigh (by decide)
  have hlisted : sideCode code = true := by
    rw [sideCode, decide_eq_true hlow, decide_eq_true (Nat.le_succ_of_le hhigh), Bool.and_self]
  have hnot : ¬(code = 0x05 ∧ b0 ≠ 0x5D) := fun h => hread h.1
  rw [execSidebandShutdown, smbus_answers hon htrip, hlisted]
  simp only [Bool.not_true, Bool.false_eq_true, if_false, if_neg hnot, if_pos hread]
  cases ok <;> rfl

/-- A SHUTDOWN with its key. -/
theorem execSidebandShutdown_key : execSidebandShutdown 0x5D b1 ⟨0x05, ok, low⟩ s = .next (
    if !ok then { s with pins.pec := satAdd s.pins.pec 1 }
    else if s.dev.state = .stabled then (if s.dev.wakeSb then wakeEvent s 2 low else s)
    else runCmd shutdownSpec shutdownBody (sidebandCmd b1) s) := by
  rw [execSidebandShutdown, smbus_answers hon htrip]
  rfl

theorem execSidebandShutdown_runs (hstate : s.dev.state ≠ .stabled) : execSidebandShutdown 0x5D b1 ⟨0x05, true, low⟩ s =
    .next (runCmd shutdownSpec shutdownBody (sidebandCmd b1) s) :=
  (execSidebandShutdown_key hon htrip).trans (congrArg _ (if_neg hstate))

/-- In STABLED the write is a wake event of cause 2, where the wake configuration lets it. -/
theorem execSidebandShutdown_stabled (hstate : s.dev.state = .stabled) :
    execSidebandShutdown 0x5D b1 ⟨0x05, true, low⟩ s = .next (if s.dev.wakeSb then wakeEvent s 2 low else s) :=
  (execSidebandShutdown_key hon htrip).trans (congrArg _ (if_pos hstate))

end

/-! ### The alert and the values -/

theorem execAlertResponse_answers (hon : s.dev.state ≠ .off) (htrip : s.dev.thermtripL = true) : execAlertResponse s =
    .next (if s.dev.alert then { s with dev.alert := false }.emit (.sideband [0xB4] (smbusPec [0x19, 0xB4]))
      else s.emit .nack) := congrArg _ (smbus_answers hon htrip _)

theorem execSidebandRefresh_serves (hserved : served s = true) : execSidebandRefresh s =
    .next { (tempBytes s).2 with pins.health := healthBytes (tempBytes s).2, pins.temps := (tempBytes s).1 } := by
  rw [execSidebandRefresh, hserved]
  rcases tempBytes s with ⟨t, u⟩
  rfl

theorem execSidebandRefresh_unserved (hserved : served s = false) : execSidebandRefresh s = .next s := by
  rw [execSidebandRefresh, hserved]
  rfl

end

/-- Settles O50: the reads, writes and alert of a sideband that answers, the silence of one that does not, and the refresh. -/
theorem sideband : Obligations.Sideband := by
  unfold Obligations.Sideband
  intro s answer block
  refine ⟨fun hon htrip => ?_, fun hoff => ⟨?_, fun code b0 b1 ok low => congrArg _ (smbus_silent hoff _)⟩,
    execSidebandRefresh_serves, execSidebandRefresh_unserved⟩
  · refine ⟨?_, ?_, ?_, ?_, fun code b0 b1 ok low => execSidebandShutdown_unlisted hon htrip,
      fun b0 b1 ok low => execSidebandShutdown_badKey hon htrip,
      fun b1 low => execSidebandShutdown_key hon htrip, fun code b0 b1 low hlow hhigh =>
        ⟨execSidebandShutdown_read hon htrip hlow hhigh, execSidebandShutdown_read hon htrip hlow hhigh⟩,
      fun b1 low => execSidebandShutdown_runs hon htrip, fun b1 low hstate => ⟨fun hwake => ?_, fun hwake => ?_⟩,
      fun halert => ?_, fun hnone => ?_⟩
    · rw [exec_ident, execIdent, smbus_answers hon htrip]; rfl
    · rw [exec_state, execState, smbus_answers hon htrip]; rfl
    · rw [exec_health, execHealth, smbus_answers hon htrip]; rfl
    · rw [exec_temps, execTemps, smbus_answers hon htrip]; rfl
    · rw [exec_sidebandShutdown, execSidebandShutdown_stabled hon htrip hstate, hwake]; rfl
    · rw [exec_sidebandShutdown, execSidebandShutdown_stabled hon htrip hstate, hwake]; rfl
    · rw [exec_alertResponse, execAlertResponse_answers hon htrip, if_pos halert]
    · rw [exec_alertResponse, execAlertResponse_answers hon htrip, hnone]; rfl
  · simp only [List.forall_mem_cons, exec_ident, exec_state, exec_health, exec_temps, exec_alertResponse]
    exact ⟨congrArg _ (smbus_silent hoff _), congrArg _ (smbus_silent hoff _), congrArg _ (smbus_silent hoff _),
      congrArg _ (smbus_silent hoff _), congrArg _ (smbus_silent hoff _), fun _ hnone => absurd hnone List.not_mem_nil⟩

end Sys2Proof.Proofs
end

section
/-! PROOFS. The commands of the device, its life cycle and its power (R127, R325, R358 to R361, R386, R402 to R404, R413,
R425 to R427): what the body of each does once nothing denies it. -/

namespace Sys2Proof.Proofs

open Sys2Proof Machine Laws Safety

section

variable {c : Cmd} {s : State}

/-! ### Bindings and keys (R325, R426) -/

theorem semBindBody_ok {t : State}
    (hbind : semBind s (par c 0 1 == 1) (par c 1 1) (par c 2 1) (par c 4 4) (par c 8 4) = .ok t) :
    semBindBody c s = .ok (doneWith c t []) := by
  simp only [semBindBody, hbind]

section

variable {k : List Byte} (hunwrap : keyUnwrap (keyBytes s.fuse.provKey) ((c.params.drop 8).take 40) = some k)
include hunwrap

theorem keyProvisionBody_fuse (hfuse : par c 1 1 = 0) (hfree : vget none s.fuse.keys (par c 0 1) = none) :
    keyProvisionBody c s =
      .ok (doneWith c { s with fuse.keys := vmodN s.fuse.keys (par c 0 1) fun _ => some (keyOf k) } []) := by
  simp only [keyProvisionBody, hfuse, hfree, hunwrap, beq_self_eq_true, Option.isSome_none, Bool.and_false, Bool.not_true,
    Bool.false_and, Bool.false_eq_true, if_false, if_true]

theorem keyProvisionBody_book (hbook : par c 1 1 ≠ 0) (hwritable : s.dev.sbRo = false) : keyProvisionBody c s =
    .ok (doneWith c (bookWrite { s with book.wrapped := tput none s.book.wrapped (par c 0 1) (some (keyOf k)) }
      .wrappedKeys) []) := by
  simp only [keyProvisionBody, beq_false_of_ne hbook, hwritable, hunwrap, Bool.and_false, Bool.false_and, Bool.false_eq_true,
    if_false]

end

/-! ### Signed commands (R360, R425, R427, R428) -/

theorem withTail_passes (htail : tailCheck c s = none) (f : State → State) :
    withTail c s f = f (countSigned (advanceNonce s)) := by simp only [withTail, htail]

/-- A bad tail is refused, and the nonce has advanced. -/
theorem withTail_fails {d : Deny} (htail : tailCheck c s = some d) (f : State → State) :
    withTail c s f = refuse c (advanceNonce s) d := by simp only [withTail, htail]

section

variable (hzeroise : zeroiseBusy s = none)
include hzeroise

theorem lcAdvanceBody_signed {t : LcState} (hcode : lcOfCode (par c 0 1) = some t) (hbook : s.dev.sbRo = false) :
    lcAdvanceBody c s = .ok (withTail c s fun s => doneWith c (lcEnter s t) []) := by
  simp only [lcAdvanceBody, hcode, hzeroise, hbook, Bool.false_eq_true, if_false]

theorem scanEnableBody_signed (hbook : s.dev.sbRo = false) : scanEnableBody c s = .ok (withTail c s (scanEnableDo c)) := by
  simp only [scanEnableBody, hzeroise, hbook, Bool.false_eq_true, if_false]

variable (hnone : jobWhere s isBist = none) (hidle : bistBusy s (testsOf (par c 0 4)) = none)
include hnone hidle

/-- In FIELD a self-test asks for a tail. -/
theorem bistRunBody_begins (hbook : bistPersists c s = true → s.dev.sbRo = false) : bistRunBody c s =
    .ok (if s.fuse.lcs = .field then withTail c s (bistStart c) else bistStart c s) := by
  have hmay : (s.dev.sbRo && bistPersists c s) = false := by
    cases hpersists : bistPersists c s with
    | false => exact Bool.and_false _
    | true => rw [hbook hpersists, Bool.false_and]
  simp only [bistRunBody, hnone, hzeroise, hidle, hmay, Option.isSome_none, Bool.false_eq_true, if_false, beq_iff_eq]

theorem bistRunBody_unsigned (hbook : bistPersists c s = true → s.dev.sbRo = false) (hlcs : s.fuse.lcs ≠ .field) :
    bistRunBody c s = .ok (bistStart c s) := by rw [bistRunBody_begins hzeroise hnone hidle hbook, if_neg hlcs]

theorem bistRunBody_signed (hbook : s.dev.sbRo = false) (hlcs : s.fuse.lcs = .field) :
    bistRunBody c s = .ok (withTail c s (bistStart c)) := by
  rw [bistRunBody_begins hzeroise hnone hidle fun _ => hbook, if_pos hlcs]

end

/-! ### SET_STATE (R358, R402, R403) -/

theorem setStateBody_doze (hstate : s.dev.state = .service) (hto : devOfCode (par c 0 1) = some .doze) :
    setStateBody c s = .ok (dozeReply c (toDoze s)) := by simp only [setStateBody, hstate, hto]

theorem dozeReply_written (hwritten : floorWritten s 0 = true ∧ floorWritten s 1 = true) : dozeReply c s = doneWith c s [] :=
  if_pos (Bool.and_eq_true_iff.mpr hwritten)

theorem dozeReply_waits (hwaits : ¬(floorWritten s 0 = true ∧ floorWritten s 1 = true)) : dozeReply c s =
    { s with cmdp.jobs := s.cmdp.jobs ++ [waitJobOf c s], cmdp.nextId := s.cmdp.nextId + 1,
             dev.dozeEntry := some s.cmdp.nextId } := if_neg fun h => hwaits (Bool.and_eq_true_iff.mp h)

/-- The state in which a SET_STATE waits for its reply. -/
def awaiting (c : Cmd) (s : State) : State :=
  { s with cmdp.jobs := s.cmdp.jobs ++ [waitJobOf c s], cmdp.nextId := s.cmdp.nextId + 1 }

section

variable (hstate : s.dev.state = .doze) (hto : devOfCode (par c 0 1) = some .service)
include hstate hto

theorem setStateBody_leaves (hfirst : s.dev.dozeExit = none) :
    setStateBody c s = .ok (leaveDoze (awaiting c s) [s.cmdp.nextId]) := by
  simp only [setStateBody, hstate, hto, hfirst]
  rfl

theorem setStateBody_joins {l : List Nat} (hunderWay : s.dev.dozeExit = some l) :
    setStateBody c s = .ok { awaiting c s with dev.dozeExit := some (l ++ [s.cmdp.nextId]) } := by
  simp only [setStateBody, hstate, hto, hunderWay]
  rw [← hstate]
  rfl

end

theorem setStateBody_stabled (hstate : s.dev.state ∈ [.halter, .service, .doze, .recovery])
    (hto : devOfCode (par c 0 1) = some .stabled) : setStateBody c s = .ok (enterStabled (doneWith c s [])) := by
  simp only [List.mem_cons, List.not_mem_nil, or_false] at hstate
  rcases hstate with h | h | h | h <;> simp only [setStateBody, h, hto]

/-! ### Musters and the governor (R127, R413, R415) -/

theorem musterFireBody_fires (hsource : s.mus.src.getLsbD 0 = true) (hfree : musterMissed s = false) : musterFireBody c s =
    .ok (musterRequest (startJob c s (.musterFire (nextSeqNo s.mus.seq)) (leBytes 4 (nextSeqNo s.mus.seq).toNat)) 0) := by
  simp only [musterFireBody, hsource, hfree, Bool.not_true, Bool.false_eq_true, if_false]

theorem governorConfigBody_ok {p : GovParams} (hparams : govParams c = some p) : governorConfigBody c s =
    let t := { s with gov.pending := some p, gov.heldConfig := s.gov.heldConfig || frozen s }
    .ok (doneWith c (raiseTo (raiseTo t 0 (floorWith t p 0) 6) 1 (floorWith t p 1) 6) []) := by
  simp only [governorConfigBody, hparams]

end

/-- Settles O52: each row completes as its body does, and no body denies what the row's condition lets pass. -/
theorem deviceCommands : Obligations.DeviceCommands := by
  unfold Obligations.DeviceCommands
  refine ⟨fun t => completes_of exec_semBind fun c s hbind => semBindBody_ok hbind,
    fun t => completes_of exec_lcAdvance fun c s ⟨hcode, hzeroise, hbook, htail⟩ =>
      (lcAdvanceBody_signed hzeroise hcode hbook).trans (congrArg Except.ok (withTail_passes htail _)),
    fun k => completes_of exec_keyProvision fun c s ⟨hfuse, hfree, hunwrap⟩ => keyProvisionBody_fuse hunwrap hfuse hfree,
    fun k => completes_of exec_keyProvision fun c s ⟨hbook, hwritable, hunwrap⟩ =>
      keyProvisionBody_book hunwrap hbook hwritable,
    completes_of exec_scanEnable fun c s ⟨hzeroise, hbook, htail⟩ =>
      (scanEnableBody_signed hzeroise hbook).trans (congrArg Except.ok (withTail_passes htail _)),
    completes_of exec_bistRun fun c s ⟨hnone, hzeroise, hidle, hbook, hlcs⟩ =>
      bistRunBody_unsigned hzeroise hnone hidle hbook hlcs,
    completes_of exec_bistRun fun c s ⟨hnone, hzeroise, hidle, hbook, hlcs, htail⟩ =>
      (bistRunBody_signed hzeroise hnone hidle hbook hlcs).trans (congrArg Except.ok (withTail_passes htail _)),
    ⟨fun d => completes_of exec_lcAdvance fun c s ⟨hcode, hzeroise, hbook, htail⟩ => ?_,
      fun d => completes_of exec_scanEnable fun c s ⟨_, hzeroise, hbook, htail⟩ =>
        (scanEnableBody_signed hzeroise hbook).trans (congrArg Except.ok (withTail_fails htail _)),
      fun d => completes_of exec_bistRun fun c s ⟨⟨hnone, hidle, hlcs⟩, hzeroise, hbook, htail⟩ =>
        (bistRunBody_signed hzeroise hnone hidle hbook hlcs).trans (congrArg Except.ok (withTail_fails htail _))⟩,
    ⟨completes_of exec_setState fun c s ⟨hstate, hto, hwritten⟩ =>
        (setStateBody_doze hstate hto).trans (congrArg Except.ok (dozeReply_written hwritten)),
      completes_of exec_setState fun c s ⟨hstate, hto, hwaits⟩ =>
        (setStateBody_doze hstate hto).trans (congrArg Except.ok (dozeReply_waits hwaits))⟩,
    ⟨completes_of exec_setState fun c s ⟨hstate, hto, hfirst⟩ => setStateBody_leaves hstate hto hfirst,
      fun l => completes_of exec_setState fun c s ⟨hstate, hto, hunderWay⟩ => setStateBody_joins hstate hto hunderWay⟩,
    completes_of exec_setState fun c s ⟨hstate, hto⟩ => setStateBody_stabled hstate hto,
    completes_of exec_shutdown fun c s _ => rfl,
    completes_of exec_wakeConfig fun c s _ => rfl,
    completes_of exec_musterArm fun c s _ => rfl,
    completes_of exec_musterFire fun c s ⟨hsource, hfree⟩ => musterFireBody_fires hsource hfree,
    fun p => completes_of exec_governorConfig fun c s hparams => governorConfigBody_ok hparams,
    completes_of exec_fettlerConfig fun c s _ => rfl⟩
  obtain ⟨t, ht⟩ := Option.isSome_iff_exists.mp hcode
  exact (lcAdvanceBody_signed hzeroise ht hbook).trans (congrArg Except.ok (withTail_fails htail _))

end Sys2Proof.Proofs
end

section
/-! PROOFS. The fettler (R133, R386, R387), upsets (R103, R143, R295, R373), the PPS input (R424) and the state after reset. -/

namespace Sys2Proof.Proofs

open Sys2Proof Machine Laws

section

variable {s : State} {d : Fin 2}

/-! ### The fettler -/

theorem execFettlerFrame_runs (hruns : fettlerRuns s = true) : execFettlerFrame d s =
    let a := sweepAddr d.val s.cfg.ftlPos[d]
    let p := (pdkAt s (a / 8192)).state
    .next (nextFrame (if p = .loading ∨ p = .torn then s else fettleFrame s a) d) := by
  rw [execFettlerFrame, hruns]
  rfl

/-- A held correction is written once the rail of its die stands at 0.70 V; with the last, the lift goes. -/
theorem execFettlerWrite_writes {a : Nat} {r : List Nat} (hheld : s.cfg.ftlHeld[d] = a :: r) (hruns : fettlerRuns s = true)
    (hstate : s.dev.state ≠ .doze) (hrail : 700 ≤ railOf s.gov.die[d]) : execFettlerWrite d s =
    let t := { s with cfg.ftlHeld := vset s.cfg.ftlHeld d r }
    .next (writeCorrection (if r.isEmpty then t.modGov d fun g => { g with fettlerLift := false } else t) a) := by
  have hmay : ¬(decide (s.dev.state = .doze) || !fettlerRuns s) = true := by
    rw [hruns, decide_eq_false hstate]
    decide
  unfold execFettlerWrite
  rw [hheld]
  simp only [if_neg hmay, if_neg (Nat.not_lt.mpr hrail)]

end

/-- Settles O23: a running engine passes over the frames of LOADING and TORN paddocks, and a correction waits for the rail alone. -/
theorem fettlerSteps : Obligations.FettlerSteps := by
  unfold Obligations.FettlerSteps
  refine fun s d => ⟨fun hruns => ⟨fun hloading htorn => ?_, fun hskipped => ?_⟩,
    fun a r hheld hruns hstate hrail => ⟨fun hmore => ?_, fun hlast => ?_⟩⟩
  · rw [exec_fettlerFrame, execFettlerFrame_runs hruns]
    exact congrArg (fun t => Host.Outcome.next (nextFrame t d)) (if_neg fun h => h.elim hloading htorn)
  · rw [exec_fettlerFrame, execFettlerFrame_runs hruns]
    exact congrArg (fun t => Host.Outcome.next (nextFrame t d)) (if_pos hskipped)
  · rw [exec_fettlerWrite, execFettlerWrite_writes hheld hruns hstate hrail, List.isEmpty_eq_false_iff.mpr hmore]
    rfl
  · rw [exec_fettlerWrite, execFettlerWrite_writes hheld hruns hstate hrail, hlast]
    rfl

/-! ### Upsets -/

section

variable {s : State} {b : Nat} (hbit : b < 72)

theorem execUpset_frame {a : Nat} (haddr : a < 2 ^ 19) (hindex : a % 8192 < 5120 ∨ (5152 ≤ a % 8192 ∧ a % 8192 < 5216))
    (hbit : b < 4144) : execUpset (.frame a b) s =
      .next (refit { s with cfg.frames := tmod {} s.cfg.frames a fun f => { f with flips := toggle b f.flips } } (a / 8192)) := by
  rw [execUpset, if_pos ⟨haddr, hindex, hbit⟩]

theorem execUpset_ddr {k : Nat} (hbeat : k < 2 ^ 34) (hbit : b < 40) :
    execUpset (.ddr k b) s = .next { s with ddr.bad := flipBit s.ddr.bad k b } := by
  rw [execUpset, if_pos ⟨hbeat, hbit⟩]

include hbit

theorem execUpset_bin {n w : Nat} (hbin : n < 4096) (hword : w < 2048) : execUpset (.bin n w b) s =
    .next { s with fab.binBad := flipBit s.fab.binBad (2048 * n + w) b } := by
  rw [execUpset, if_pos ⟨hbin, hword, hbit⟩]

theorem execUpset_casterMem {c : Fin 256} {w : Nat} (hword : w < 16384) : execUpset (.casterMem c w b) s =
    .next (s.modCast c fun h => { h with memBad := flipBit h.memBad w b }) := by
  rw [execUpset, if_pos ⟨hword, hbit⟩]

theorem execUpset_casterStore {c : Fin 256} {w : Nat} (hword : w < 2048) : execUpset (.casterStore c w b) s =
    .next (s.modCast c fun h => { h with storeBad := flipBit h.storeBad w b }) := by
  rw [execUpset, if_pos ⟨hword, hbit⟩]

end

/-- Settles O24: a bit within the bounds of its store is one that exists, and its row turns it. -/
theorem upsets : Obligations.Upsets := by
  unfold Obligations.Upsets
  exact fun s b => ⟨fun a => execUpset_frame, fun n w hbin hword hbit => execUpset_bin hbit hbin hword,
    fun c w hword hbit => execUpset_casterMem hbit hword, fun c w hword hbit => execUpset_casterStore hbit hword,
    fun k => execUpset_ddr⟩

/-! ### The PPS input -/

section

variable {s : State} (hon : ppsOn s = true)
include hon

theorem execPpsEdge_on (t : Nat) : execPpsEdge t s = .next (
    let u := { s with pps.last := some t, pps.lost := false }
    if ppsSpaced s t then ppsTake u t else u) := by
  rw [execPpsEdge, hon]
  rfl

theorem execPpsLost_late {l : Nat} (hlast : s.pps.last = some l) (hlate : l + 1500000000 ≤ s.dev.yard) :
    execPpsLost s = .next { s with pps.lost := true } := by
  simp only [execPpsLost, hon, hlast, decide_eq_true hlate, Bool.true_and, if_true]

end

/-- Settles O35: an edge stamps, and disciplines yard time exactly where its spacing lets it. -/
theorem ppsSteps : Obligations.PpsSteps := by
  unfold Obligations.PpsSteps
  refine fun s t hon => ⟨fun hspaced => ?_, fun hignored => ?_, fun l => execPpsLost_late hon⟩
  · rw [exec_ppsEdge, execPpsEdge_on hon, if_pos hspaced]
  · rw [exec_ppsEdge, execPpsEdge_on hon, hignored]
    rfl

/-! ### Reset -/

theorem replicate_get {α : Type} {n : Nat} (x : α) (i : Fin n) : (Vector.replicate n x)[i] = x := Vector.getElem_replicate i.isLt

theorem fusesGrow_refl (f : Fuses) : Safety.FusesGrow f f :=
  ⟨rfl, rfl, rfl, rfl, Nat.le_refl _, id, fun _ _ h => h⟩

/-- Settles O60: every array of the reset state holds one value at all its places. -/
theorem resetState : Obligations.ResetState := by
  unfold Obligations.ResetState
  intro s
  have hcast : ∀ c : Fin 256, s.cast[c] = {} := replicate_get _
  have hpdk : ∀ k : Fin 64, s.pdk[k] = {} := replicate_get _
  have hlink : ∀ n : Fin 128, s.cxp.links[n] = {} := replicate_get _
  have hsem : ∀ n : Fin 64, s.hosts.sem[n] = {} := replicate_get _
  have hport : ∀ p : Fin 2, s.hosts.port[p] = {} := replicate_get _
  refine ⟨rfl, rfl, rfl, fun k => ?_, fun n => ?_, fun c => ?_, rfl, rfl, rfl, rfl, fun n => ?_, rfl, fun c => ?_,
    fun p => ?_, fusesGrow_refl _⟩
  · rw [hpdk]
  · rw [hlink]
  · rw [hcast]
    exact ⟨replicate_get _, replicate_get _, replicate_get _, replicate_get _⟩
  · rw [hsem]
  · rw [hcast]
  · rw [hport]

end Sys2Proof.Proofs
end

section
/-! PROOFS. Musters (R413 to R419) and pins (R80, R431, R435, R438). -/

namespace Sys2Proof.Proofs

open Sys2Proof Machine Laws

section

variable {s : State}

/-! ### Musters -/

theorem execMusterRequest_strobes (hpend : s.mus.pend ≠ 0) (hfree : s.mus.busy = false)
    (hstate : musterState s.dev.state = true) : execMusterRequest s = .next (strobe s) := by
  have hidle : (!s.mus.busy) = true := by rw [hfree]; rfl
  rw [execMusterRequest, if_pos ⟨hpend, hidle, hstate⟩]

/-- A muster input that has been high for 20 ns requests a muster, once for its rise. -/
theorem execMusterPin_requests {n : Fin 96} {t : Nat} (hrose : (s.pins.gpio[n]).highAt = some t)
    (hfunc : (s.pins.gpio[n]).actFunc = 7) (hrole : (s.pins.gpio[n]).actRole = 0) (hhigh : (s.pins.gpio[n]).pad = true)
    (hsettled : (s.pins.gpio[n]).switching = false) (hlong : t + 20 ≤ s.dev.yard) : execMusterPin n s =
    .next (let u := s.modGpio n fun p => { p with highAt := none }
      musterRequest (if sourceOn u 1 then { u with mus.cntPin := u.mus.cntPin + 1 } else u) 1) := by
  have hstill : (!(s.pins.gpio[n]).switching) = true := by rw [hsettled]; rfl
  simp only [execMusterPin, hrose]
  rw [if_pos ⟨hfunc, hrole, hhigh, hstill, hlong⟩]

section

variable (hhold : s.mus.hold = true)
include hhold

theorem execCutLatch_ends (hquiet : ∀ k ∈ heldPdks s, quiet s k.val = true) : execCutLatch s = .next (endCut s false) := by
  have hall : (s.mus.hold && (heldPdks s).all fun k => quiet s k.val) = true := by
    rw [hhold, List.all_eq_true.mpr hquiet]
    rfl
  rw [execCutLatch, if_pos hall]

theorem execCutTimeout_ends {k : Fin 64} (hheld : k ∈ heldPdks s) (hunquiet : quiet s k.val = false) :
    execCutTimeout s = .next (endCut s true) := by
  have hany : (s.mus.hold && (heldPdks s).any fun k => !quiet s k.val) = true := by
    rw [hhold, List.any_eq_true.mpr ⟨k, hheld, by rw [hunquiet]; rfl⟩]
    rfl
  rw [execCutTimeout, if_pos hany]

end

end

/-- Settles O37: each row acts where its own condition holds, which the hypotheses spell out. -/
theorem musterSteps : Obligations.MusterSteps := by
  unfold Obligations.MusterSteps
  exact fun s => ⟨execMusterRequest_strobes, fun n t => execMusterPin_requests, fun d hpend => congrArg _ (if_neg hpend),
    fun hhold => ⟨execCutLatch_ends hhold, fun k => execCutTimeout_ends hhold⟩, fun v hopen => congrArg _ (if_pos hopen)⟩

/-! ### Pins -/

section

variable {s : State} {n : Fin 96}

/-- A change of the level at a pad, by whether the pad is switching and by the pin's function and role. -/
theorem execPinEdge_changes {level : Bool} (hpad : (s.pins.gpio[n]).pad ≠ level) : execPinEdge n level s =
    let t := s.modGpio n fun p => { p with pad := level }
    let p := s.pins.gpio[n]
    .next (if p.switching || !served s then t
      else if p.actFunc = 7 ∧ p.actRole = 0 then t.modGpio n fun p => { p with highAt := if level then some s.dev.yard else none }
      else if p.actFunc = 8 ∧ p.actRole = 1 ∧ level = false then senseFault t (Fin.ofNat 128 p.sel.toNat)
      else padEdges s t) := by
  have hget : (s.modGpio n fun p => { p with pad := level }).pins.gpio[n] = { s.pins.gpio[n] with pad := level } :=
    modGpio_get s n _
  unfold execPinEdge
  rw [if_neg fun h => hpad (beq_iff_eq.mp h)]
  simp only [hget]
  rfl

theorem execSwitchIntervalEnd_ends (hswitching : (s.pins.gpio[n]).switching = true) : execSwitchIntervalEnd n s =
    let t := takePad (s.modGpio n fun p =>
      { p with actFunc := p.func, actRole := p.role, switching := false, cmd := none, highAt := none }) n
    .next (pinChanged s t n) := by
  unfold execSwitchIntervalEnd
  rw [hswitching]
  rfl

end

/-- Settles O38: the cases of a level's change are those of the pin's function and role. -/
theorem pinSteps : Obligations.PinSteps := by
  unfold Obligations.PinSteps
  refine fun s n => ⟨fun level hpad => ?_, fun v hserved => congrArg _ (if_pos hserved), execSwitchIntervalEnd_ends,
    fun k v hserved => congrArg _ (if_pos hserved)⟩
  have hsettled : (s.pins.gpio[n]).switching = false → served s = true →
      ¬((s.pins.gpio[n]).switching || !served s) = true := by
    intro hswitching hserved
    rw [hswitching, hserved]
    decide
  simp only [exec_pinEdge, execPinEdge_changes hpad]
  refine ⟨fun hswitching => ?_, fun hswitching hserved hfunc hrole => ?_,
    fun hswitching hserved hfunc hrole hlevel => ?_, fun hswitching hserved hmuster hsense => ?_⟩
  · rw [hswitching]
    rfl
  · rw [if_neg (hsettled hswitching hserved), if_pos ⟨hfunc, hrole⟩]
  · have hother : ¬((s.pins.gpio[n]).actFunc = 7 ∧ (s.pins.gpio[n]).actRole = 0) := by
      rw [hfunc]
      exact fun h => absurd h.1 (by decide)
    rw [if_neg (hsettled hswitching hserved), if_neg hother, if_pos ⟨hfunc, hrole, hlevel⟩]
  · rw [if_neg (hsettled hswitching hserved), if_neg fun h => hmuster.elim (· h.1) (· h.2), if_neg]
    rintro ⟨hfunc, hrole, hlevel⟩
    rcases hsense with h | h | h
    · exact h hfunc
    · exact h hrole
    · exact Bool.false_ne_true (hlevel.symm.trans h)

end Sys2Proof.Proofs
end

section
/-! PROOFS. Serial cells (R434), crossings that time out (R448), clock loops (R443) and the JTAG port (R427). -/

namespace Sys2Proof.Proofs

open Sys2Proof Machine Laws

section

variable {s : State} {n : Fin 96}

/-! ### Serial cells -/

theorem execUartReceive_dropped (hserves : serves s n 4 1 = true) (v : Byte) :
    execUartReceive n v false s = .next { s with pins.serErr := satAdd s.pins.serErr 1 } := by
  rw [execUartReceive, hserves]
  rfl

theorem execUartReceive_byte (hserves : serves s n 4 1 = true) (v : Byte) : execUartReceive n v true s =
    .next (if 16 ≤ (s.pins.gpio[n]).buf.length then s.modGpio n fun p => { p with ovr := true } else pinByte s n v) := by
  rw [execUartReceive, hserves]
  rfl

theorem execUartTransmit_sends {t : Nat} (hserves : serves s n 4 0 = true) (htoken : outToken s n = some t) :
    execUartTransmit n s = .next (take (s.emitPad (.uart n.val (BitVec.ofNat 8 t))) (.pin n.val)) := by
  simp only [execUartTransmit, hserves, htoken, Bool.not_true, Bool.false_eq_true, if_false]

/-- A token at a serving SDA pin whose cell has its other pin and no byte to give: the byte that a command awaits, or a command. -/
theorem execI2cCommand_token {t : Nat} {g : Fin 96} (hserves : serves s n 5 1 = true)
    (hcell : cellPin s 5 0 (s.pins.gpio[n]).inst = some g) (hbuf : (s.pins.gpio[n]).buf = [])
    (htoken : outToken s n = some t) (ack : Bool) (v : Byte) : execI2cCommand n ack v s =
    .next (match (s.pins.gpio[n]).cmd with
      | some c => take (i2cByte (s.modGpio n fun p => { p with cmd := none }) n c.toNat (BitVec.ofNat 8 t)
          (if ack then 0 else 1)) (.pin n.val)
      | none => if t % 4 < 2 then take (s.modGpio n fun p => { p with cmd := some (BitVec.ofNat 8 t) }) (.pin n.val)
        else take (i2cByte s n t v v) (.pin n.val)) := by
  unfold execI2cCommand
  simp only [hserves, hcell, hbuf, htoken, Bool.not_true, Option.isNone_some, List.isEmpty_nil, Bool.or_self,
    Bool.false_eq_true, if_false]
  cases (s.pins.gpio[n]).cmd <;> rfl

theorem execSpiTransfer_shifts {t : Nat} {g m : Fin 96} (hserves : serves s n 6 1 = true)
    (hcell : cellPin s 6 0 (s.pins.gpio[n]).inst = some g) (htoken : outToken s n = some t)
    (hmiso : cellPin s 6 2 (s.pins.gpio[n]).inst = some m) (hbuf : (s.pins.gpio[m]).buf = []) (v : Byte) :
    execSpiTransfer n v s = .next (take (pinByte (s.emitPad (.spi n.val (BitVec.ofNat 8 t))) m v) (.pin n.val)) := by
  unfold execSpiTransfer
  simp only [hserves, hcell, hmiso, hbuf, htoken, Bool.not_true, Option.isNone_some, Option.any_some, List.isEmpty_nil,
    Bool.or_self, Bool.false_eq_true, if_false]

/-! ### Crossings that time out -/

theorem poisonLane_token {x : Src} (htoken : (s.chan (srcKey x)).rails ≠ 0) (busy : Bool) (drop : State → State) :
    poisonLane s x busy drop = settle (spoilToken (countTimeout s) x) [.shown x] := if_pos (bne_iff_ne.mpr htoken)

/-- An idle lane presents a poisoned token for the entry that waits. -/
theorem poisonLane_idle {x : Src} (hidle : idleSrc s x = true) (drop : State → State) :
    poisonLane s x true drop = settle (present (drop (countTimeout s)) x poison) [.shown x] := by
  have hspacer : (s.chan (srcKey x)).rails = 0 := beq_iff_eq.mp (Bool.and_eq_true_iff.mp hidle).1
  rw [poisonLane, hidle, hspacer]
  rfl

theorem poisonLane_empty {x : Src} (hspacer : (s.chan (srcKey x)).rails = 0) (drop : State → State) :
    poisonLane s x false drop = s := by
  rw [poisonLane, hspacer]
  rfl

/-- Two updates that agree on what a pin holds leave the same state. -/
theorem modGpio_congr {f g : Gpio → Gpio} (h : f s.pins.gpio[n] = g s.pins.gpio[n]) : s.modGpio n f = s.modGpio n g := by
  simp only [State.modGpio, vmod]
  rw [show f s.pins.gpio[n] = g s.pins.gpio[n] from h]

@[simp] theorem countTimeout_gpio (s : State) : (countTimeout s).pins.gpio = s.pins.gpio := by
  rw [countTimeout, raiseEvent_pins]

end

/-- Settles O39: each cell acts for a serving pin, and a timeout ends the transfer of its crossing. -/
theorem serialCells : Obligations.SerialCells := by
  unfold Obligations.SerialCells
  refine fun s n => ⟨fun v hserves => ⟨execUartReceive_dropped hserves v, fun hfull => ?_, fun hroom => ?_⟩,
    fun t => execUartTransmit_sends, fun t ack v g hserves hcell hbuf htoken => ⟨fun c hcmd => ?_,
      fun hnone hawaits => ?_, fun hnone hmoves => ?_⟩,
    fun t v g m hserves hcell htoken hmiso hbuf => execSpiTransfer_shifts hserves hcell htoken hmiso hbuf v,
    fun hserved => ?_⟩
  · rw [exec_uartReceive, execUartReceive_byte hserves, if_pos hfull]
  · rw [exec_uartReceive, execUartReceive_byte hserves, if_neg (Nat.not_le.mpr hroom)]
  · rw [exec_i2cCommand, execI2cCommand_token hserves hcell hbuf htoken, hcmd]
  · rw [exec_i2cCommand, execI2cCommand_token hserves hcell hbuf htoken, hnone]
    exact congrArg _ (if_pos hawaits)
  · rw [exec_i2cCommand, execI2cCommand_token hserves hcell hbuf htoken, hnone]
    exact congrArg _ (if_neg (Nat.not_lt.mpr hmoves))
  · have hrun : ¬(!served s) = true := by rw [hserved]; decide
    refine ⟨fun l j => congrArg _ (if_neg hrun), fun o j => congrArg _ (if_neg hrun), fun o j => congrArg _ (if_neg hrun),
      ⟨fun htoken => (congrArg _ (if_neg hrun)).trans (congrArg _ (poisonLane_token htoken _ _)),
        fun hspacer hpend hresync hbuf => (congrArg _ (if_neg hrun)).trans (congrArg _ ?_),
        fun hidle hpend => (congrArg _ (if_neg hrun)).trans (congrArg _ ?_)⟩,
      congrArg _ (if_neg hrun),
      fun m => ⟨fun hnone => (congrArg _ (if_neg hrun)).trans (congrArg _ (if_pos hnone)),
        fun hheld => (congrArg _ (if_neg hrun)).trans (congrArg _ (if_neg hheld))⟩,
      fun d => ⟨fun hnone => (congrArg _ (if_neg hrun)).trans (congrArg _ (if_pos hnone)),
        fun hheld => (congrArg _ (if_neg hrun)).trans (congrArg _ (if_neg hheld))⟩⟩
    · simp only [hpend, hresync, hbuf]
      exact poisonLane_empty hspacer _
    · have hwaits : (s.pins.gpio[n]).pend.isEmpty = false := List.isEmpty_eq_false_iff.mpr hpend
      simp only [hwaits, Bool.not_false, Bool.true_or]
      rw [poisonLane_idle hidle, modGpio_congr]
      simp only [countTimeout_gpio, hwaits, Bool.not_false, if_true]

/-! ### Clock loops and the JTAG port -/

section

variable {s : State}

theorem execLoopLockLost_loses {n : Fin 16} (hserved : served s = true) (hlocked : s.pins.lock.getLsbD n.val = true) :
    execLoopLockLost n s = .next (loopLost { s with pins.lock := s.pins.lock &&& ~~~(BitVec.twoPow 16 n.val),
                                                    pins.lost := s.pins.lost ||| BitVec.twoPow 16 n.val } n.val) := by
  rw [execLoopLockLost, hserved, hlocked]
  rfl

/-- A device that is powered and not held in reset takes every JTAG instruction. -/
theorem execJtagInstruction_on (hon : s.dev.state ≠ .off) (hreset : s.dev.heldInReset = false) (l : JtagLoad) :
    execJtagInstruction l s = match l.ins with
      | .internal code => if s.sec.scan then .refused (.internalScan code) else .next (jtagRun s .bypass l.cells)
      | i => .next (jtagRun s i l.cells) := by
  have hup : ¬(s.dev.state = .off ∨ s.dev.heldInReset = true) := by
    rintro (h | h)
    · exact hon h
    · exact Bool.false_ne_true (hreset.symm.trans h)
  exact if_neg hup

end

/-- Settles O40: an instruction's register and its pads are those of its kind. -/
theorem loopsAndJtag : Obligations.LoopsAndJtag := by
  unfold Obligations.LoopsAndJtag
  refine fun s => ⟨fun n => execLoopLockLost_loses, fun hon hreset => ?_⟩
  simp only [exec_jtagInstruction, execJtagInstruction_on hon hreset]
  refine ⟨fun i cells => ⟨?_, ?_⟩, fun cells => rfl, fun i cells => ⟨?_, ?_⟩, fun c cells hclosed => ?_, fun c cells hopen => ?_⟩
  · rintro (rfl | rfl) <;> rfl
  · rintro (rfl | rfl | rfl) <;> rfl
  · rintro rfl
    rfl
  · rintro (rfl | rfl) <;> rfl
  · exact if_neg (by rw [hclosed]; decide)
  · exact if_pos hopen

end Sys2Proof.Proofs
end

section
/-! PROOFS. The command processor: the order of its checks (R347), what a refusal changes (R344, R346), and that every command
answers a next state but for the internal scan (R427). -/

namespace Sys2Proof.Proofs

open Sys2Proof Machine Laws Safety

section

variable (sp : CmdSpec) (c : Cmd) (s : State)

/-! ### The checks in their order (R347) -/

/-- Check 4 finds the class of a target that the row does not take. -/
def wrongClass : Bool := match sp.target with
  | some (k, _) => c.tclass.toNat != k
  | none => c.tclass.toNat != 0 || c.tindex.toNat != 0

/-- Check 8 finds the index of a target that does not exist. -/
def wrongIndex : Bool := match sp.target with
  | some (_, n) => decide (n ≤ c.tindex.toNat)
  | none => false

theorem checkCmd_eq : checkCmd sp c s =
    if c.hdr = 1 then some { st := .check, detail := 1 }
    else if c.hdr ≠ 0 then some (badParam 1)
    else if !sp.known then some { st := .badOpcode }
    else if !sp.size c then some (badParam 2)
    else if wrongClass sp c then some (badParam 2)
    else if !sp.life c s then some { st := .lifecycle }
    else if !sp.states.contains s.dev.state then some (denyDev .stateRefused s)
    else match semCheck s c (sp.touches c s) with
    | some n => some { st := .semNotHeld, detail := n }
    | none =>
      if decide (64 ≤ c.sem.toNat) && c.sem.toNat != 0xFFFF then some (badParam 4)
      else if wrongIndex sp c then some (badParam 4)
      else if !sp.buffer && c.hlen.toNat != 0 then some (badParam 4)
      else sp.params c s := rfl

variable {sp c s}

theorem wrongClass_eq_false : wrongClass sp c = false ↔ match sp.target with
    | some (k, _) => c.tclass.toNat = k
    | none => c.tclass.toNat = 0 ∧ c.tindex.toNat = 0 := by
  unfold wrongClass
  split
  · exact bne_eq_false_iff_eq
  · rw [Bool.or_eq_false_iff, bne_eq_false_iff_eq, bne_eq_false_iff_eq]

theorem wrongIndex_of_target {k n : Nat} (htarget : sp.target = some (k, n)) :
    wrongIndex sp c = decide (n ≤ c.tindex.toNat) := by
  rw [wrongIndex, htarget]

theorem wrongIndex_eq_false (h : ∀ k n, sp.target = some (k, n) → c.tindex.toNat < n) : wrongIndex sp c = false := by
  cases htarget : sp.target with
  | none => rw [wrongIndex, htarget]
  | some t => rw [wrongIndex_of_target htarget, decide_eq_false (Nat.not_le.mpr (h t.1 t.2 htarget))]

/-- A semaphore field that is no semaphore's number and not the one that names none. -/
theorem badSem_eq_true (hbig : 64 ≤ c.sem.toNat) (hsome : c.sem ≠ 0xFFFF) :
    (decide (64 ≤ c.sem.toNat) && c.sem.toNat != 0xFFFF) = true := by
  rw [decide_eq_true hbig, Bool.true_and, bne_iff_ne]
  exact fun h => hsome (BitVec.eq_of_toNat_eq h)

theorem badSem_eq_false (h : c.sem.toNat < 64 ∨ c.sem = 0xFFFF) :
    (decide (64 ≤ c.sem.toNat) && c.sem.toNat != 0xFFFF) = false := by
  rcases h with h | h
  · rw [decide_eq_false (Nat.not_le.mpr h), Bool.false_and]
  · rw [h]
    rfl

theorem badBuffer_eq_true (hnone : sp.buffer = false) (hlen : c.hlen ≠ 0) : (!sp.buffer && c.hlen.toNat != 0) = true := by
  rw [hnone, Bool.not_false, Bool.true_and, bne_iff_ne]
  exact fun h => hlen (BitVec.eq_of_toNat_eq h)

theorem badBuffer_eq_false (h : sp.buffer = true ∨ c.hlen = 0) : (!sp.buffer && c.hlen.toNat != 0) = false := by
  rcases h with h | h
  · rw [h]
    rfl
  · rw [h]
    exact Bool.and_false _

/-! ### The checks that follow those a command passes -/

section

variable (hheader : c.hdr = 0) (hknown : sp.known = true)
include hheader hknown

theorem checkCmd_form (hbad : sp.size c = false ∨ wrongClass sp c = true) : checkCmd sp c s = some (badParam 2) := by
  cases hsize : sp.size c with
  | false => simp [checkCmd_eq, hheader, hknown, hsize]
  | true =>
    have hclass : wrongClass sp c = true := hbad.resolve_left (by rw [hsize]; decide)
    simp [checkCmd_eq, hheader, hknown, hsize, hclass]

variable (hsize : sp.size c = true) (hclass : wrongClass sp c = false)
include hsize hclass

theorem checkCmd_life (hlife : sp.life c s = false) : checkCmd sp c s = some { st := .lifecycle } := by
  simp [checkCmd_eq, hheader, hknown, hsize, hclass, hlife]

variable (hlife : sp.life c s = true)
include hlife

theorem checkCmd_state (hstate : s.dev.state ∉ sp.states) : checkCmd sp c s =
    some { st := .stateRefused, detail := devCode s.dev.state, data := leBytes 4 0 } := by
  simp [checkCmd_eq, hheader, hknown, hsize, hclass, hlife, hstate, denyDev, denyRes]

variable (hstate : s.dev.state ∈ sp.states)
include hstate

theorem checkCmd_sem {n : Nat} (hsem : semCheck s c (sp.touches c s) = some n) :
    checkCmd sp c s = some { st := .semNotHeld, detail := n } := by
  simp [checkCmd_eq, hheader, hknown, hsize, hclass, hlife, hstate, hsem]

/-- What check 8 finds after the semaphores. -/
theorem checkCmd_last (hsem : semCheck s c (sp.touches c s) = none) : checkCmd sp c s =
    if decide (64 ≤ c.sem.toNat) && c.sem.toNat != 0xFFFF then some (badParam 4)
    else if wrongIndex sp c then some (badParam 4)
    else if !sp.buffer && c.hlen.toNat != 0 then some (badParam 4)
    else sp.params c s := by
  simp [checkCmd_eq, hheader, hknown, hsize, hclass, hlife, hstate, hsem]

end

end

/-- Settles O57: what each check finds once those before it have passed. -/
theorem checkOrder : Obligations.CheckOrder := by
  unfold Obligations.CheckOrder
  intro sp c s target
  have htarget : target c ↔ wrongClass sp c = false := wrongClass_eq_false.symm
  refine ⟨fun hcrc => if_pos hcrc, fun hsome hother => (if_neg hother).trans (if_pos hsome), fun hheader =>
    ⟨fun hunknown => by simp [checkCmd_eq, hheader, hunknown], fun hknown =>
    ⟨fun hbad => checkCmd_form hheader hknown (hbad.imp_right fun h => Bool.eq_true_of_not_eq_false fun g => h (htarget.mpr g)),
    fun hsize ht => ⟨checkCmd_life hheader hknown hsize (htarget.mp ht), fun hlife =>
    ⟨checkCmd_state hheader hknown hsize (htarget.mp ht) hlife, fun hstate =>
    ⟨fun n => checkCmd_sem hheader hknown hsize (htarget.mp ht) hlife hstate, fun hsem => ?_⟩⟩⟩⟩⟩⟩
  rw [checkCmd_last hheader hknown hsize (htarget.mp ht) hlife hstate hsem]
  refine ⟨fun hbig hsome => if_pos (badSem_eq_true hbig hsome), fun hok => ?_⟩
  rw [badSem_eq_false hok, if_neg Bool.false_ne_true]
  refine ⟨fun k n hkind hout => if_pos ((wrongIndex_of_target hkind).trans (decide_eq_true hout)), fun hin => ?_⟩
  rw [wrongIndex_eq_false hin, if_neg Bool.false_ne_true]
  exact ⟨fun hnone hlen => if_pos (badBuffer_eq_true hnone hlen), fun hbuffer =>
    if_neg (by rw [badBuffer_eq_false hbuffer]; decide)⟩

/-! ### Refusals and answers -/

/-- A row that carries a host command hands it to the command processor, with the entry of its opcode. -/
theorem exec_hostCmd {i : Instr} {op : Nat} {c : Cmd} {sp : CmdSpec} {body : CmdBody} (s : State)
    (hrow : i.hostCmd = some (op, c)) (hentry : cmdOf op = some (sp, body)) : exec i s = .next (runCmd sp body c s) := by
  unfold Instr.hostCmd at hrow
  split at hrow <;> cases hrow <;> cases hentry <;> rfl

theorem counted_replies (c : Cmd) (s : State) : RepliesOnly s (counted c s) := by
  unfold counted
  split
  · exact modPort_replies s _ _
  · exact modPort_replies s _ _
  · exact .refl s

/-- Settles O56: a refusal by a check leaves what counting the command and its reply leave. -/
theorem refusedCommands : Obligations.RefusedCommands := by
  unfold Obligations.RefusedCommands
  intro i op c sp body s hrow hentry
  rw [exec_hostCmd s hrow hentry]
  refine ⟨fun hunserved => congrArg _ (runCmd_unserved hunserved), fun d hreaches hfails => ?_, fun d hbegins hdenies => ?_⟩
  · obtain ⟨u, hframe⟩ : ∃ u, refuse (typed sp c) (counted c s) d = withReplies s u :=
      ⟨_, RepliesOnly.trans (counted_replies c s) (refuse_replies _ _ _)⟩
    refine ⟨withReplies s u, ?_, hframe.symm, ?_⟩
    · rw [runCmd_reaches hreaches, hfails, ← hframe]
    · and_intros <;> rfl
  · rw [runCmd_begins hbegins, hdenies]

theorem execJtagInstruction_answers (l : JtagLoad) (s : State) : (∃ t, execJtagInstruction l s = .next t) ∨
    ∃ c, l.ins = .internal c ∧ s.sec.scan = true ∧ s.dev.state ≠ .off ∧ s.dev.heldInReset = false ∧
      execJtagInstruction l s = .refused (.internalScan c) := by
  unfold execJtagInstruction
  split
  · exact .inl ⟨_, rfl⟩
  · next hup =>
    split
    · next c hins =>
      split
      · next hscan =>
        exact .inr ⟨c, hins, hscan, fun h => hup (.inl h), Bool.eq_false_of_not_eq_true fun h => hup (.inr h), rfl⟩
      · exact .inl ⟨_, rfl⟩
    · exact .inl ⟨_, rfl⟩

/-- Every row but a JTAG instruction answers a next state as it stands. -/
theorem exec_answers (i : Instr) (s : State) : (∃ t, exec i s = .next t) ∨
    ∃ c l, i = .jtagInstruction ⟨.internal c, l⟩ ∧ s.sec.scan = true ∧ s.dev.state ≠ .off ∧ s.dev.heldInReset = false ∧
      exec i s = .refused (.internalScan c) := by
  cases i with
  | jtagInstruction l =>
    refine (execJtagInstruction_answers l s).imp_right ?_
    rintro ⟨c, hins, h⟩
    obtain ⟨ins, cells⟩ := l
    subst hins
    exact ⟨c, cells, rfl, h⟩
  | _ => exact .inl ⟨_, rfl⟩

/-- Settles O58: the one row that may refuse does so under its own condition, and an empty queue idles. -/
theorem everyCommandAnswers : Obligations.EveryCommandAnswers := by
  unfold Obligations.EveryCommandAnswers
  refine ⟨exec_answers, fun s hfront => ?_⟩
  unfold SafeStep step
  split
  · exact ⟨_, rfl⟩
  · next i rest hpending =>
    refine (exec_answers i _).resolve_right ?_
    rintro ⟨c, l, rfl, _⟩
    exact hfront c l rest hpending

end Sys2Proof.Proofs
end

section
/-! PROOFS. The fuses (R422, R425): a state whose idle cycle takes the life cycle back. -/

namespace Sys2Proof.Proofs

open Sys2Proof Machine Laws Safety

/-! ### A signed LC_ADVANCE to OWNED that waits for its image -/

/-- A manufacturer's public key: that of the secret number 1, the generator itself. -/
def makerKey : List Byte := 4 :: (beBytes 48 ecG.1 ++ beBytes 48 ecG.2)

/-- LC_ADVANCE to OWNED with nonce 0, signed under `makerKey` for the unit of serial number 0 (R360). -/
def advanceToOwned : Cmd where
  opcode := 0x0801
  params := 1 :: List.replicate 15 0 ++ makerKey ++ List.replicate 3 0 ++
    leBytes 48 0x7ae9e1db1160794c70c1ef071be5191f6c66240f4608fbe8a44ecd36c3ed5db97500f2e4d84e3fb45850fd6f4303302b ++
    leBytes 48 0x58b28da5c9ee01c1794b11e85394cc32234be57747f1e0dfa0a16831116e4050b32951469ea2bafc0a32b9819df1a5d1

/-- A unit in FIELD, STABLED and with an empty queue, whose only job holds `advanceToOwned` as a command whose image can be read. -/
def fieldUnit : State :=
  { State.reset with
    fuse := { lcs := .field, pkHash := BitVec.ofNat 384 (leNat (sha384 makerKey)) }
    dev.state := .stabled
    dev.heldInReset := false
    cmdp.jobs := [{ id := 1, opcode := 0x0801, kind := .imageWait advanceToOwned }] }

/-- The idle cycle lets that job's command go on without its checks, and the unit is in OWNED. -/
theorem idle_fieldUnit : (idle fieldUnit).fuse.lcs = .owned := by decide +kernel

/-- Refutes O59: it speaks of every state, also of one in which a command other than GRAPH_LOAD and KERNEL_LOAD waits for its
image. Such a command goes on without the checks of R347, so an LC_ADVANCE among them goes back from FIELD to OWNED. -/
theorem not_fusesOnlyGrow : ¬ Obligations.FusesOnlyGrow := by
  unfold Obligations.FusesOnlyGrow
  intro h
  have hgrow : FusesGrow fieldUnit.fuse (idle fieldUnit).fuse := h fieldUnit.fuse fieldUnit _ (fusesGrow_refl _) rfl
  have hback : lcRank .field ≤ lcRank .owned := idle_fieldUnit ▸ hgrow.lcs
  exact absurd hback (by decide)

end Sys2Proof.Proofs
end

section
/-! PROOFS. Power, reset, start and wake (R393 to R396, R404, R467). -/

namespace Sys2Proof.Proofs

open Sys2Proof Machine Laws

section

variable {s : State} {low : Bool}

/-! ### Rails and reset -/

theorem execRailLost_off {r : RailId} (hon : s.dev.state ≠ .off) (hkept : s.dev.stbyL = true ∨ mayRemove r = false) :
    execRailLost r s = .next (let t := coldState (cutWrites s)
      { t with dev := { t.dev with state := .off, heldInReset := true } }) := by
  have hlost : ¬(s.dev.state = .off ∨ (!s.dev.stbyL) = true ∧ mayRemove r = true) := by
    rintro (h | ⟨hlow, hmay⟩)
    · exact hon h
    · rcases hkept with h | h
      · rw [h] at hlow
        exact absurd hlow (by decide)
      · exact Bool.false_ne_true (h.symm.trans hmay)
  rw [execRailLost, if_neg hlost]

theorem execRailLost_harmless {r : RailId} (h : s.dev.state = .off ∨ s.dev.stbyL = false ∧ mayRemove r = true) :
    execRailLost r s = .next s := by
  have hharmless : s.dev.state = .off ∨ (!s.dev.stbyL) = true ∧ mayRemove r = true := by
    rcases h with h | ⟨hlow, hmay⟩
    · exact .inl h
    · exact .inr ⟨by rw [hlow]; rfl, hmay⟩
  rw [execRailLost, if_pos hharmless]

section

variable (hon : s.dev.state ≠ .off) (htrip : s.dev.thermtripL = true)
include hon htrip

/-- A device with rails that no thermal trip holds takes part in its reset. -/
theorem not_heldDead : ¬(s.dev.state = .off ∨ (!s.dev.thermtripL) = true) := by
  rw [htrip]
  exact fun h => h.elim hon (by decide)

theorem execRstL_falls (hhigh : s.dev.rstL = true) : execRstL false low s = .next (
    let t := coldState { s with dev.rstL := false }
    if s.dev.state = .stabled then
      { t with dev := { t.dev with state := .stabled, stbyL := s.dev.stbyL, waking := s.dev.waking } }
    else { t with dev := { t.dev with heldInReset := true } }) := by
  have hfalls : ¬(s.dev.rstL == false) = true := by rw [hhigh]; decide
  simp only [execRstL, if_neg hfalls, if_neg (not_heldDead hon htrip), Bool.false_eq_true, if_false]

theorem execRstL_rises (hlow : s.dev.rstL = false) : execRstL true low s = .next (
    if s.dev.state = .stabled then wakeEvent { s with dev.rstL := true, dev.waking := none } 3 low
    else beginStart { s with dev.rstL := true } 3 low) := by
  have hrises : ¬(s.dev.rstL == true) = true := by rw [hlow]; decide
  simp only [execRstL, if_neg hrises, if_neg (not_heldDead hon htrip), if_true]

end

/-! ### Starts -/

/-- A start that is under way and has not stopped goes on. -/
theorem not_stopped (hstate : s.dev.state = .starting) (hreset : s.dev.heldInReset = false) (hstuck : s.dev.stuck = false) :
    ¬(s.dev.state ≠ .starting ∨ s.dev.heldInReset = true ∨ s.dev.stuck = true) := by
  rw [hreset, hstuck]
  exact fun h => h.elim (· hstate) (by decide)

/-! ### Wake -/

theorem wakeInput_enabled {n : Nat} (hmask : s.dev.wakeMask.getLsbD n = true)
    (hfunc : (vget ({} : Gpio) s.pins.gpio n).actFunc = 0xB) (hsettled : (vget ({} : Gpio) s.pins.gpio n).switching = false) :
    wakeInput s n = true := by
  simp only [wakeInput, hmask, hfunc, hsettled]
  rfl

section

variable (hstate : s.dev.state = .stabled)
include hstate

theorem execWakeEvent_pin {n : Fin 16} (hinput : wakeInput s n.val = true) :
    execWakeEvent (.pin n) low s = .next (wakeEvent s 1 low) := by
  rw [execWakeEvent, if_neg fun h => h hstate]
  exact congrArg _ (if_pos hinput)

theorem execWakeEvent_sideband (hwake : s.dev.wakeSb = true) : execWakeEvent .sideband low s = .next (wakeEvent s 2 low) := by
  rw [execWakeEvent, if_neg fun h => h hstate]
  exact congrArg _ (if_pos hwake)

theorem execWakeEvent_rise (hlow : s.dev.rstL = false) : execWakeEvent .rstRise low s =
    .next (wakeEvent { s with dev.rstL := true, dev.waking := none } 3 low) := by
  rw [execWakeEvent, if_neg fun h => h hstate]
  exact congrArg _ (if_neg (by rw [hlow]; decide))

variable {t : Nat} (hwaking : s.dev.waking = some t)
include hwaking

theorem execWakeRailsGood_starts (hhigh : s.dev.rstL = true) :
    execWakeRailsGood s = .next (beginStart (wokenState s) s.dev.wake.toNat s.dev.recPin) := by
  rw [execWakeRailsGood, if_pos ⟨hstate, by rw [hwaking]; rfl, hhigh⟩]

theorem execWakeRailTimeout_fails (hlate : t + 1000000000 ≤ s.dev.yard) : execWakeRailTimeout s =
    .next (logFault { s with dev := { s.dev with stbyL := false, waking := none } } (.failedWake s.dev.yard)) := by
  simp only [execWakeRailTimeout, hwaking, if_pos (And.intro hstate hlate)]

end

theorem wakeEvent_first (hnone : s.dev.waking = none) (cause : Nat) : wakeEvent s cause low =
    { s with dev := { s.dev with wake := BitVec.ofNat 2 cause, recPin := low, recoveryL := !low, stbyL := true,
                                 waking := some s.dev.yard },
             hosts.port := vmapI s.hosts.port fun p h => { h with wakeOut := h.wakeOut || s.dev.wakeSig.getLsbD p } } :=
  if_neg (by rw [hnone]; decide)

end

/-- Settles O48: each row acts where its own condition holds, which the hypotheses spell out. -/
theorem powerAndStart : Obligations.PowerAndStart := by
  unfold Obligations.PowerAndStart
  refine fun s => ⟨fun r => execRailLost_off, fun r => execRailLost_harmless, fun low hoff => ?_,
    fun low hon htrip => ⟨fun hhigh => ⟨fun hrunning => ?_, fun hstabled => ?_⟩, fun hlow hrunning => ?_,
      fun hlow hstabled => ?_⟩,
    fun failed blocks quick trained hstate hreset hstuck => ⟨?_, ?_, ?_⟩,
    fun hstate low => ⟨fun n hmask hfunc hsettled => execWakeEvent_pin hstate (wakeInput_enabled hmask hfunc hsettled),
      execWakeEvent_sideband hstate, execWakeEvent_rise hstate, fun cause hnone => wakeEvent_first hnone cause,
      fun t => execWakeRailsGood_starts hstate, fun t => execWakeRailTimeout_fails hstate⟩⟩
  · rw [exec_powerUp, execPowerUp, if_pos hoff]
  · rw [exec_rstL, execRstL_falls hon htrip hhigh]
    exact congrArg _ (if_neg hrunning)
  · rw [exec_rstL, execRstL_falls hon htrip hhigh]
    exact congrArg _ (if_pos hstabled)
  · rw [exec_rstL, execRstL_rises hon htrip hlow, if_neg hrunning]
  · rw [exec_rstL, execRstL_rises hon htrip hlow, if_pos hstabled]
  · simp only [exec_startUpComplete, execStartUpComplete, if_neg (not_stopped hstate hreset hstuck)]
  · simp only [exec_startUpComplete, execStartUpComplete, if_neg (not_stopped hstate hreset hstuck), reachStep4]
  · simp only [exec_startUpComplete, execStartUpComplete, if_neg (not_stopped hstate hreset hstuck), reachStep4]

end Sys2Proof.Proofs
end

section
/-! PROOFS. The device's events (R355, R400 to R405, R428, R464, R475): faults, the thermal trip, sensors and rail monitors, DOZE,
the shutdown set, and the ends of flash and BIST jobs (R364). -/

namespace Sys2Proof.Proofs

open Sys2Proof Machine Laws

section

variable {s : State}

/-! ### Faults (R355, R400) -/

/-- What a fault does in a state that it takes to RECOVERY. -/
theorem deviceFault_running (hstate : s.dev.state = .halter ∨ s.dev.state = .pouring ∨ s.dev.state = .service ∨ s.dev.state = .doze)
    (code : BitVec 16) (bad : List RetEntry) : deviceFault s code bad =
      let t := dozeCancel (abortPour (noteFault s code))
      let u := enterRecovery { t with cast := t.cast.map fun h => { h with dozeStopped := false } } 3
      if s.dev.state = .doze then resumeStreams u else u := by
  rcases hstate with h | h | h | h <;> simp only [deviceFault, h] <;> rfl

theorem deviceFault_recovery (hstate : s.dev.state = .recovery) (code : BitVec 16) (bad : List RetEntry) :
    deviceFault s code bad = enterRecovery (abortAll (noteFault s code) 0) 3 := by simp only [deviceFault, hstate]

theorem deviceFault_shuttingDown (hstate : s.dev.state = .shuttingDown) {code : BitVec 16} {bad : List RetEntry} {j : Job}
    {skip : Bool} (hjob : shutJob (excludeBad (raiseEvent (noteFault s code) 11) bad) = some (j, skip)) :
    deviceFault s code bad =
      enterStabled (finishJob (excludeBad (raiseEvent (noteFault s code) 11) bad) j.id .deviceFault 0 []) := by
  simp only [deviceFault, hstate, hjob]

theorem execThermalTrip_trips {n : Fin 36} (hon : s.dev.state ≠ .off) (hrails : s.dev.state ≠ .stabled)
    (htrip : s.dev.thermtripL = true) : execThermalTrip n s = .next (
      let t := coldState (logFault (spoilShut (cutWrites s)) (.trip s.dev.yard n.val))
      { t with dev := { t.dev with heldInReset := true, thermtripL := false } }) := by
  have hmay : ¬(s.dev.state = .off ∨ s.dev.state = .stabled ∨ (!s.dev.thermtripL) = true) := by
    rw [htrip]
    exact fun h => h.elim hon (·.elim hrails (by decide))
  rw [execThermalTrip, if_neg hmay]

/-! ### Sensors and rail monitors (R464) -/

section

variable (hon : s.dev.state ≠ .off) (hreset : s.dev.heldInReset = false)
include hon hreset

theorem execSensorSample_samples {n : Fin 36} {d : Fin 2} (temp : Int) (hrails : s.dev.state ≠ .stabled)
    (hgood : s.pins.sensors[n].failed = false) (hdie : sensorDie n.val = some d) (hserved : served s = true) :
    execSensorSample n temp s = .next (wireTrim (thermWarn
      { s with pins.sensors := vmod s.pins.sensors n fun x => { x with temp := temp, valid := true } } d temp) d) := by
  have hmay : ¬(s.dev.state = .off ∨ s.dev.state = .stabled ∨ s.dev.heldInReset = true ∨ s.pins.sensors[n].failed = true) := by
    rw [hreset, hgood]
    exact fun h => h.elim hon (·.elim hrails (by decide))
  simp only [execSensorSample, if_neg hmay, hdie]
  exact congrArg _ (if_pos hserved)

theorem execRailMonitorRefresh_reads (r : Fin 7) (mv : Nat) (oot : Bool) : execRailMonitorRefresh r mv oot s =
    .next { s with pins.rails := vmod s.pins.rails r fun x =>
      if x.fail then { x with mv := 0 }
      else { x with mv := BitVec.ofNat 16 mv,
                    oot := x.oot || ((s.dev.stbyL || decide (5 ≤ r.val)) && (oot || railOut r.val mv)) } } := by
  have hmay : ¬(s.dev.state = .off ∨ s.dev.heldInReset = true) := by
    rw [hreset]
    exact fun h => h.elim hon (by decide)
  rw [execRailMonitorRefresh, if_neg hmay]

end

/-! ### DOZE (R402) -/

theorem execDozeWake_wakes {n : Fin 16} (hstate : s.dev.state = .doze) (hinput : wakeInput s n.val = true)
    (hnone : (raiseEvent s 11).dev.dozeExit = none) : execDozeWake n s = .next (leaveDoze (raiseEvent s 11) []) := by
  have hmay : (decide (s.dev.state = .doze) && wakeInput s n.val) = true := by
    rw [hinput, decide_eq_true hstate]
    rfl
  simp only [execDozeWake, if_pos hmay, hnone, Option.isSome_none, Bool.false_eq_true, if_false]

theorem execDozeExitComplete_serves {ids : List Nat} (hstate : s.dev.state = .doze) (hexit : s.dev.dozeExit = some ids)
    (hrails : atCeiling s = true) : execDozeExitComplete s =
    .next (ids.foldl (fun s id => finishJob s id .done 0 []) (resumeStreams (changeState
      { s with dev.dozeExit := none, cast := s.cast.map fun h => { h with dozeStopped := false } } .service))) := by
  simp only [execDozeExitComplete, hexit, if_pos (And.intro hstate hrails)]

/-! ### The shutdown set (R405) -/

section

variable (hstate : s.dev.state = .shuttingDown) {j : Job} (failed : BitVec 32) (blocks : List Block)
include hstate

theorem execShutdownComplete_tested (hjob : shutJob s = some (j, false)) : execShutdownComplete failed blocks s = .next (
    let bad := failingBlocks (List.range 9) (failed.toNat &&& 511) blocks
    let f := failedTests (List.range 9) (failed.toNat &&& 511) blocks
    let t := writeShutRecord (bookCal (bookVerdict (excludeBad s bad) (511 ^^^ f) f)) true f bad.length
    enterStabled (finishJob { t with dev.alert := true } j.id .done (if bad = [] then 0 else 1) [])) := by
  simp only [execShutdownComplete, hjob, if_neg fun h : s.dev.state ≠ .shuttingDown => h hstate, Bool.false_eq_true, if_false,
    Bool.not_false, List.isEmpty_iff]

theorem execShutdownComplete_skipped (hjob : shutJob s = some (j, true)) : execShutdownComplete failed blocks s = .next (
    let t := writeShutRecord (excludeBad s []) false 0 0
    enterStabled (finishJob { t with dev.alert := true } j.id .done 0 [])) := by
  simp only [execShutdownComplete, hjob, if_neg fun h : s.dev.state ≠ .shuttingDown => h hstate, if_true, Bool.not_true,
    List.length_nil, List.isEmpty_nil]

end

/-! ### The ends of flash and BIST jobs (R364, R428) -/

section

variable {job : Nat} {j : Job} (hfind : findJob s job = some j)
include hfind

theorem execFlashTransferComplete_written {d a : Nat} {erase : Bool} {data : List Byte}
    (hkind : j.kind = .flashWrite d a erase data) : execFlashTransferComplete job true s = .next (
      let t := flashPut (if erase then flashClear s d a data.length else s) d a data
      if flashRead t d a data.length = data then finishJob t job .done 0 [] else finishJob t job .check 0x000B []) := by
  simp only [execFlashTransferComplete, hfind, hkind, Bool.not_true, Bool.false_eq_true, if_false, beq_iff_eq]

theorem execFlashTransferComplete_writeFails {d a : Nat} {erase : Bool} {data : List Byte}
    (hkind : j.kind = .flashWrite d a erase data) : execFlashTransferComplete job false s =
      .next (finishJob (undoJob s j) job .check 0x000B []) := by
  simp only [execFlashTransferComplete, hfind, hkind, Bool.not_false, if_true]

theorem execFlashTransferComplete_read {d a len : Nat} (hkind : j.kind = .flashRead d a len) (ok : Bool) :
    execFlashTransferComplete job ok s =
      .next (if ok then finishOut s job 0 (flashRead s d a len) else finishJob s job .check 0x000C []) := by
  simp only [execFlashTransferComplete, hfind, hkind]

end

theorem execBistComplete_answers {j : Job} {mask : BitVec 32} {retire : Bool} (hjob : jobWhere s isBist = some j)
    (hkind : j.kind = .bist mask retire) (failed : BitVec 32) (blocks : List Block) : execBistComplete failed blocks s = .next (
      let f := failedTests (testsOf mask.toNat) (mask.toNat &&& failed.toNat) blocks
      finishJob (bistResult s mask.toNat (mask.toNat &&& failed.toNat) retire blocks) j.id .done 0
        (leBytes 4 (mask.toNat &&& (511 ^^^ f)) ++ leBytes 4 f)) := by
  simp only [execBistComplete, hjob, hkind]

end

/-- Settles O49: what each event does in the states and for the jobs that its clauses name. -/
theorem deviceEvents : Obligations.DeviceEvents := by
  unfold Obligations.DeviceEvents
  refine fun s => ⟨fun hstate code failed blocks => congrArg Host.Outcome.next (deviceFault_running hstate code _),
    fun hstate code failed blocks => congrArg Host.Outcome.next (deviceFault_recovery hstate code _),
    fun hstate code failed blocks j skip hjob => congrArg Host.Outcome.next (deviceFault_shuttingDown hstate hjob),
    fun n => execThermalTrip_trips,
    fun hon hreset => ⟨fun n temp d => execSensorSample_samples hon hreset temp, execRailMonitorRefresh_reads hon hreset⟩,
    fun hstate => ⟨fun n hmask hfunc hsettled => execDozeWake_wakes hstate (wakeInput_enabled hmask hfunc hsettled),
      fun ids => execDozeExitComplete_serves hstate⟩,
    fun hstate j failed blocks =>
      ⟨execShutdownComplete_tested hstate failed blocks, execShutdownComplete_skipped hstate failed blocks⟩,
    fun job j hfind => ⟨fun d a erase data hkind => ⟨fun hsame => ?_, fun hother => ?_,
        execFlashTransferComplete_writeFails hfind hkind⟩,
      fun d a len hkind => ⟨execFlashTransferComplete_read hfind hkind true, execFlashTransferComplete_read hfind hkind false⟩⟩,
    fun j mask failed retire blocks hjob hkind => execBistComplete_answers hjob hkind failed blocks⟩
  · rw [exec_flashTransferComplete, execFlashTransferComplete_written hfind hkind]
    exact congrArg _ (if_pos hsame)
  · rw [exec_flashTransferComplete, execFlashTransferComplete_written hfind hkind]
    exact congrArg _ (if_neg hother)

end Sys2Proof.Proofs
end

section
/-! PROOFS. Commands that read (R352, R357, R420): what the body of each does once nothing denies it. -/

namespace Sys2Proof.Proofs

open Sys2Proof Machine Laws Safety

section

variable {c : Cmd} {s : State}

theorem getHealthBody_eq : getHealthBody c s = doneOut c (getHealthBytes s).2 (getHealthBytes s).1 := by
  rw [getHealthBody]

/-- The frames of a readback, each read in the state that reading those before it leaves, with that state. -/
def framesRead (c : Cmd) (s : State) : State × List Byte :=
  (readbackAddrs c).foldl (fun (r : State × List Byte) a => let x := readFrame r.1 a; (x.1, r.2 ++ x.2)) (s, [])

theorem readbackBody_reads (hfree : rangePdk c (fun k => (pdkAt s k).state == .loading) = none)
    (hfits : Fits c (framesRead c s).2.length) :
    readbackBody c s = .ok (delivered c (framesRead c s).1 (framesRead c s).2) := by
  simp only [readbackBody, hfree]
  exact doneOut_fits hfits

section

variable {t : State} (hready : memReady s (par c 0 8) (par c 8 4) = true)
include hready

theorem memReadBody_reads {l : List Byte} {bad : Bool}
    (hread : memRead s .memCmd (par c 0 8) (par c 8 4) = (t, some (l, bad))) :
    memReadBody c s = .ok (replyTo c t .done (if bad then 1 else 0) l) := by
  simp only [memReadBody, memReadNow, hready, hread, b2n, if_true]

theorem memReadBody_denied (hread : memRead s .memCmd (par c 0 8) (par c 8 4) = (t, none)) :
    memReadBody c s = .ok (replyTo c t .badParam 4 []) := by
  simp only [memReadBody, memReadNow, hready, hread, if_true]

end

theorem memReadBody_waits (hwaits : memReady s (par c 0 8) (par c 8 4) = false) :
    memReadBody c s = .ok (memHold c s (par c 0 8) (par c 8 4)) := by
  simp only [memReadBody, hwaits, Bool.false_eq_true, if_false]

end

/-- Settles O51: each row completes as its body does, and data that fits is delivered. -/
theorem readingCommands : Obligations.ReadingCommands := by
  unfold Obligations.ReadingCommands
  exact ⟨completes_of exec_getIdentity fun c s hfits => doneOut_fits hfits,
    completes_of exec_getState fun c s hfits => doneOut_fits hfits,
    completes_of exec_getHealth fun c s hfits => getHealthBody_eq.trans (doneOut_fits hfits),
    completes_of exec_echo fun c s _ => rfl,
    completes_of exec_lcStatus fun c s _ => rfl,
    completes_of exec_musterRead fun c s _ => rfl,
    completes_of exec_casterStatus fun c s hfits => doneOut_fits hfits,
    completes_of exec_readbackFrames fun c s ⟨hfree, hfits⟩ => readbackBody_reads hfree hfits,
    fun t l bad => completes_of exec_memRead fun c s ⟨hready, hread⟩ => memReadBody_reads hready hread,
    fun t => completes_of exec_memRead fun c s ⟨hready, hread⟩ => memReadBody_denied hready hread,
    completes_of exec_memRead fun c s hwaits => memReadBody_waits hwaits⟩

end Sys2Proof.Proofs
end

section
/-! PROOFS. The steps of a pour (R131, R376 to R381): the loader's reads, its lifts, and the stages of a release. -/

namespace Sys2Proof.Proofs

open Sys2Proof Machine Laws

section

variable {s : State} {p : Pour} (hpour : s.cfg.pour = some p)
include hpour

/-! ### Reads -/

/-- The state once a pour's read of its host buffer has failed: its port has counted a DMA error (R352). -/
def bufferLost (s : State) (p : Pour) : State := match (findJob s p.job).bind fun j => portOf j.src with
  | some h => hpErr s h hpDma
  | none => s

section

variable (hready : loaderReady s = true) (hunreleased : p.releasing = false) (hwritten : p.frames = [])
include hready hunreleased hwritten

/-- The next read of a pour: between two tries, and within one by whether it works and by what it reads. -/
theorem execSegmentRead_goesOn (ok : Bool) : execSegmentRead ok s = .next (
    if !p.accepted then nextTry s p ok
    else if ok then pourSegment s p
    else if p.fromHost then stopTry (bufferLost s p) (pourStop .aborted 0 4 none)
    else stopTry s (pourStop .check 0x0C 4 none)) := by
  simp only [execSegmentRead, hpour, hready, hunreleased, hwritten, List.isEmpty_nil, Bool.not_true, Bool.or_self,
    Bool.false_eq_true, if_false]
  rfl

theorem execSegmentRead_between (hstopped : p.accepted = false) (ok : Bool) :
    execSegmentRead ok s = .next (nextTry s p ok) := by
  rw [execSegmentRead_goesOn hpour hready hunreleased hwritten, hstopped]
  rfl

variable (haccepted : p.accepted = true)
include haccepted

theorem execSegmentRead_segment : execSegmentRead true s = .next (pourSegment s p) := by
  rw [execSegmentRead_goesOn hpour hready hunreleased hwritten, haccepted]
  rfl

theorem execSegmentRead_flashFails (hflash : p.fromHost = false) :
    execSegmentRead false s = .next (stopTry s (pourStop .check 0x0C 4 none)) := by
  rw [execSegmentRead_goesOn hpour hready hunreleased hwritten, haccepted, hflash]
  rfl

theorem execSegmentRead_hostFails {j : Job} {h : Fin 2} (hhost : p.fromHost = true) (hjob : findJob s p.job = some j)
    (hport : portOf j.src = some h) :
    execSegmentRead false s = .next (stopTry (hpErr s h hpDma) (pourStop .aborted 0 4 none)) := by
  have hlost : bufferLost s p = hpErr s h hpDma := by
    rw [bufferLost, hjob, Option.bind_some, hport]
  rw [execSegmentRead_goesOn hpour hready hunreleased hwritten, haccepted, hhost, hlost]
  rfl

end

/-! ### Lifts (R131) -/

theorem execPourLiftReady_lifts {d : Fin 2} (hready : loaderReady s = true) (hrail : 750 ≤ s.gov.die[d].vread)
    (hlift : s.gov.die[d].pourLift = true) (hunreleased : p.releasing = false) (haccepted : p.accepted = true) :
    execPourLiftReady d s = .next (
      let t := { s with cfg.pour := some { p with lifted := vset p.lifted d true } }
      if p.frames.isEmpty then t else afterFrames (writeFrames p.frames t)) := by
  simp only [execPourLiftReady, hpour, hready, hlift, hunreleased, haccepted, decide_eq_false (Nat.not_lt.mpr hrail),
    Bool.not_true, Bool.or_self, Bool.false_eq_true, if_false]

/-! ### The release (R379) -/

/-- With every clock loop locked, a pour whose frames are all written begins its release. -/
theorem execReleaseStage_begins (hnone : ∀ r ∈ s.cfg.rels, r.job ≠ p.job) (hreleasing : p.releasing = true)
    (hlocked : s.pins.lock = 0xFFFF) :
    execReleaseStage p.job s = .next (afterStage (stepRelease (startRelease s p) p.job) p.job) := by
  have hheld : (s.cfg.rels.any fun r => r.job == p.job && cutHeld s r.pdk) = false :=
    List.any_eq_false.mpr fun r hr => by rw [beq_false_of_ne (hnone r hr), Bool.false_and]; decide
  have hstages : (s.cfg.rels.any fun r => r.job == p.job) = false :=
    List.any_eq_false.mpr fun r hr => by rw [beq_false_of_ne (hnone r hr)]; decide
  simp only [execReleaseStage, hheld, hstages, hpour, hreleasing, hlocked, decide_true, BEq.rfl, Bool.and_self,
    Bool.false_eq_true, if_false, if_true]

end

theorem execReleaseStage_steps {s : State} {job : Nat} (hstages : ∃ r ∈ s.cfg.rels, r.job = job)
    (hfree : ∀ r ∈ s.cfg.rels, r.job = job → cutHeld s r.pdk = false) :
    execReleaseStage job s = .next (afterStage (stepRelease s job) job) := by
  obtain ⟨r, hr, hjob⟩ := hstages
  have hheld : (s.cfg.rels.any fun r => r.job == job && cutHeld s r.pdk) = false :=
    List.any_eq_false.mpr fun x hx h => by
      obtain ⟨hmine, hcut⟩ := Bool.and_eq_true_iff.mp h
      exact Bool.false_ne_true ((hfree x hx (beq_iff_eq.mp hmine)).symm.trans hcut)
  have hany : (s.cfg.rels.any fun r => r.job == job) = true := List.any_eq_true.mpr ⟨r, hr, beq_iff_eq.mpr hjob⟩
  simp only [execReleaseStage, hheld, hany, Bool.false_eq_true, if_false, if_true]

/-- Settles O22: each row of the loader goes on once what it waits for has come. -/
theorem pourSteps : Obligations.PourSteps := by
  unfold Obligations.PourSteps
  refine fun s p hpour hready =>
    ⟨fun ok hunreleased hwritten hstopped => execSegmentRead_between hpour hready hunreleased hwritten hstopped ok,
    fun hunreleased hwritten haccepted =>
      ⟨execSegmentRead_segment hpour hready hunreleased hwritten haccepted,
        execSegmentRead_flashFails hpour hready hunreleased hwritten haccepted,
        fun j h => execSegmentRead_hostFails hpour hready hunreleased hwritten haccepted⟩,
    fun d hrail hlift hunreleased haccepted => ⟨fun hnone => ?_, fun hsome => ?_⟩,
    fun job => execReleaseStage_steps, fun hnone => execReleaseStage_begins hpour hnone⟩
  · rw [exec_pourLiftReady, execPourLiftReady_lifts hpour hready hrail hlift hunreleased haccepted]
    exact congrArg _ (if_pos (List.isEmpty_iff.mpr hnone))
  · rw [exec_pourLiftReady, execPourLiftReady_lifts hpour hready hrail hlift hunreleased haccepted]
    exact congrArg _ (if_neg fun h => hsome (List.isEmpty_iff.mp h))

end Sys2Proof.Proofs
end

section
/-! PROOFS. Commands of patterns, paddocks and flash (R359, R364, R374, R382, R383): what the body of each does once nothing
denies it. -/

namespace Sys2Proof.Proofs

open Sys2Proof Machine Laws Safety

/-! ### An ACCEPTED reply raises no event -/

@[simp] theorem sendMsix_mus (s : State) (p : Fin 2) (v : BitVec 6) : (sendMsix s p v).mus = s.mus := by
  unfold sendMsix
  simp only
  split
  · split <;> rfl
  · rfl

@[simp] theorem ringMessage_mus (s : State) (p : Fin 2) (i : Fin 24) : (ringMessage s p i).mus = s.mus := by
  unfold ringMessage
  simp only
  split
  · rfl
  · split
    · rfl
    · split
      · exact sendMsix_mus s p _
      · exact sendMsix_mus s p _

@[simp] theorem hostOut_mus (s : State) (p : Fin 2) (l : List (Nat × List Byte)) : (hostOut s p l).mus = s.mus := by
  unfold hostOut
  split <;> rfl

@[simp] theorem putReply_mus (s : State) (p : Fin 2) (n : Fin 4) (l : List Byte) : (putReply s p n l).mus = s.mus := by
  unfold putReply writeReply
  simp only
  split
  · rw [ringMessage_mus]
    exact hostOut_mus s p _
  · rfl

section

variable (c : Cmd) (s : State)

/-- A reply to a command of the present epoch of its port goes its way without an event, unless it ends a mailbox command. -/
theorem replyTo_accepted_mus (data : List Byte) : (replyTo c s .accepted 0 data).mus = s.mus := by
  unfold replyTo sendReply epochOf
  cases c.src with
  | sideband => rfl
  | mailbox p => rfl
  | ring p n =>
    simp only [portOf, reduceCtorEq, if_false, if_true]
    split
    · rfl
    · exact putReply_mus s p n _

theorem startJob_mus (k : JobKind) (data : List Byte) : (startJob c s k data).mus = s.mus := replyTo_accepted_mus _ _ data

theorem startJob_pdk (k : JobKind) (data : List Byte) : (startJob c s k data).pdk = s.pdk := by
  unfold startJob replyTo
  rw [sendReply_replies]
  rfl

theorem startJob_cutHeld (k : JobKind) (data : List Byte) (n : Nat) :
    cutHeld (startJob c s k data) n = cutHeld s n := by
  rw [cutHeld, startJob_mus, cutHeld]

theorem startJob_notIsolated (kind : JobKind) (data : List Byte) (k : Fin 64) :
    notIsolated (startJob c s kind data) k = notIsolated s k := by
  rw [notIsolated, startJob_pdk, notIsolated]

end

section

variable {c : Cmd} {s : State}

/-! ### Flash (R359, R364) -/

theorem flashWriteBody_begins {l : List Byte} (hfree : flashBusy s (par c 0 1) true = none)
    (hin : inBuf c (par c 8 4) = .ok l) : flashWriteBody c s =
    .ok (startJob c s (.flashWrite (par c 0 1) (par c 4 4) (par c 1 1 % 2 == 1) (l.take (par c 8 4))) []) := by
  simp only [flashWriteBody, hfree, hin]

theorem flashReadBody_begins (hfree : flashBusy s (par c 0 1) false = none)
    (hroom : c.hlen.toNat ≠ 0 → par c 8 4 ≤ c.hlen.toNat) : flashReadBody c s =
    .ok (startJob c s (.flashRead (par c 0 1) (par c 4 4) (par c 8 4)) []) := by
  simp only [flashReadBody, hfree]
  exact if_neg fun h => absurd (hroom h.1) (Nat.not_le.mpr h.2)

/-! ### Pours (R366, R374) -/

/-- A pour needs no new golden entry that a read-only studbook cannot record. -/
def GoldenSpace (c : Cmd) (s : State) : Prop :=
  par c 0 1 = 1 ∨ s.dev.sbRo = false ∨ ∀ d, (directory s).1 = some d → newGolden s d = none

/-- A pattern opened, from the host buffer or from a slot. -/
def opened (c : Cmd) (s : State) (p : Pour) : State × Except PourEnd Pour :=
  if par c 0 1 = 1 then openHost c (noFrames s) p else openFlash (noFrames s) p (par c 1 1)

theorem not_goldenFull (hspace : GoldenSpace c s) :
    ¬(par c 0 1 ≠ 1 ∧ s.dev.sbRo = true ∧ ((directory s).1.bind (newGolden s)).isSome = true) := by
  rintro ⟨hflash, hreadOnly, hgolden⟩
  rcases hspace with hhost | hwritable | hknown
  · exact hflash hhost
  · exact Bool.false_ne_true (hwritable.symm.trans hreadOnly)
  · cases hdir : (directory s).1 with
    | none => simp [hdir] at hgolden
    | some d => simp [hdir, hknown d hdir] at hgolden

section

variable {t : State} {p : Pour} (hspace : GoldenSpace c s)
include hspace

theorem startPour_opens {q : Pour} (hopen : opened c s p = (t, .ok q)) :
    startPour c s p (par c 0 1) (par c 1 1) = acceptTry (startJob c t .pour []) { q with job := t.cmdp.nextId } := by
  rw [opened] at hopen
  simp only [startPour, if_neg (not_goldenFull hspace), hopen]

theorem startPour_fails {e : PourEnd} (hopen : opened c s p = (t, .error e)) :
    startPour c s p (par c 0 1) (par c 1 1) = refuse c t { st := e.st, detail := e.detail, data := e.data, dma := e.dma } := by
  rw [opened] at hopen
  simp only [startPour, if_neg (not_goldenFull hspace), hopen]

end

theorem startPour_full {d : List Byte} {p : Pour} (hflash : par c 0 1 ≠ 1) (hreadOnly : s.dev.sbRo = true)
    (hdir : (directory s).1 = some d) (hgolden : (newGolden s d).isSome = true) :
    startPour c s p (par c 0 1) (par c 1 1) = refuse c s (denyDev .noSpace s) := by
  rw [startPour, if_pos ⟨hflash, hreadOnly, by rw [hdir]; exact hgolden⟩]

section

variable (hnone : s.cfg.pour = none)
include hnone

theorem pourPatternBody_starts : pourPatternBody c s =
    .ok (startPour c s { full := true, mask := BitVec.allOnes 64 } (par c 0 1) (par c 1 1)) := by
  simp only [pourPatternBody, hnone, Option.isSome_none, Bool.false_eq_true, if_false]

theorem pourPartialBody_starts (hfree : (maskList (BitVec.ofNat 64 (par c 4 8))).findSome? (partialDeny s) = none) :
    pourPartialBody c s =
      .ok (startPour c s { full := false, mask := BitVec.ofNat 64 (par c 4 8) } (par c 0 1) (par c 1 1)) := by
  simp only [pourPartialBody, hnone, hfree, Option.isSome_none, Bool.false_eq_true, if_false]

end

/-! ### Isolation and release (R382, R383) -/

/-- The paddock that a command names. -/
abbrev namedPdk (c : Cmd) : Fin 64 := Fin.ofNat 64 c.tindex.toNat

theorem isolateBody_begins (hstate : s.pdk[namedPdk c].state = .live ∨ s.pdk[namedPdk c].state = .faulted)
    (hfree : pdkBusy s (namedPdk c).val = false) (hports : par c 0 1 % 2 = 1 ∨ portItems s (namedPdk c).val = []) :
    isolateBody c s = .ok (admissionStop ((startJob c s (.isolate (namedPdk c).val (par c 0 1 % 2 == 1)) []).modPdk (namedPdk c)
      fun d => { d with deliver := false, isolating := some s.cmdp.nextId }) (namedPdk c)) := by
  have hmay : ¬(s.pdk[namedPdk c].state ≠ .live ∧ s.pdk[namedPdk c].state ≠ .faulted) := fun h => hstate.elim h.1 h.2
  have hempty : (!(par c 0 1 % 2 == 1) && !(portItems s (namedPdk c).val).isEmpty) = false := by
    rcases hports with h | h
    · rw [h]
      rfl
    · rw [h]
      exact Bool.and_false _
  simp only [isolateBody, if_neg hmay, hfree, hempty, Bool.false_eq_true, if_false]

section

variable (hstate : s.pdk[namedPdk c].state = .isolated)
include hstate

/-- The job that a release begins finds its paddock ISOLATED still. -/
theorem startJob_isolated : notIsolated (startJob c s (.release (namedPdk c).val) []) (namedPdk c) = false := by
  rw [startJob_notIsolated]
  exact bne_eq_false_iff_eq.mpr hstate

variable (hpoured : s.pdk[namedPdk c].poured = true)
include hpoured

theorem not_unreleasable : ¬(s.pdk[namedPdk c].state ≠ .isolated ∨ (!s.pdk[namedPdk c].poured) = true) := by
  rw [hpoured]
  exact fun h => h.elim (· hstate) (by decide)

variable (hfree : pdkBusy s (namedPdk c).val = false)
include hfree

theorem releasePdkBody_now (hplain : par c 0 1 % 2 = 0) (hfreed : cutHeld s (namedPdk c).val = false) : releasePdkBody c s =
    .ok (finishJob (toLive (startJob c s (.release (namedPdk c).val) []) (namedPdk c)) s.cmdp.nextId .done 0 []) := by
  simp only [releasePdkBody, if_neg (not_unreleasable hstate hpoured), hfree, hplain, startJob_cutHeld, hfreed, BEq.rfl,
    releaseNow, startJob_isolated hstate, Bool.false_eq_true, if_false]

theorem releasePdkBody_again (hagain : par c 0 1 % 2 = 1) (hfreed : cutHeld s (namedPdk c).val = false) : releasePdkBody c s =
    let t := withdraw (startJob c s (.release (namedPdk c).val) []) (namedPdk c)
    .ok { t with cfg.rels := t.cfg.rels ++
      [{ job := s.cmdp.nextId, pdk := (namedPdk c).val, stages := orderOf t (namedPdk c).val }] } := by
  have hstages : (par c 0 1 % 2 == 0) = false := by rw [hagain]; rfl
  simp only [releasePdkBody, if_neg (not_unreleasable hstate hpoured), hfree, hstages, startJob_cutHeld, hfreed,
    releaseAgain, startJob_isolated hstate, Bool.false_eq_true, if_false]

/-- During a cut that holds the paddock its release is deferred. -/
theorem releasePdkBody_waits (hheld : cutHeld s (namedPdk c).val = true) : releasePdkBody c s =
    let t := startJob c s (.release (namedPdk c).val) []
    .ok { t with mus.deferred := t.mus.deferred ++
      [(if par c 0 1 % 2 = 0 then .release else .reRelease, (namedPdk c).val)] } := by
  simp only [releasePdkBody, if_neg (not_unreleasable hstate hpoured), hfree, startJob_cutHeld, hheld, Bool.false_eq_true,
    if_false, beq_iff_eq]

end

end

/-- Settles O53: each row completes as its body does, and no body denies what the row's condition lets pass. -/
theorem patternCommands : Obligations.PatternCommands := by
  unfold Obligations.PatternCommands
  exact ⟨fun l => completes_of exec_flashWrite fun c s ⟨hfree, hin⟩ => flashWriteBody_begins hfree hin,
    completes_of exec_flashRead fun c s ⟨hfree, hroom⟩ => flashReadBody_begins hfree hroom,
    ⟨fun t q => completes_of exec_pourPattern fun c s ⟨hnone, hspace, hopen⟩ =>
        (pourPatternBody_starts hnone).trans (congrArg Except.ok (startPour_opens hspace hopen)),
      fun t e => completes_of exec_pourPattern fun c s ⟨hnone, hspace, hopen⟩ =>
        (pourPatternBody_starts hnone).trans (congrArg Except.ok (startPour_fails hspace hopen)),
      fun t q => completes_of exec_pourPartial fun c s ⟨hnone, hfree, hspace, hopen⟩ =>
        (pourPartialBody_starts hnone hfree).trans (congrArg Except.ok (startPour_opens hspace hopen)),
      fun t e => completes_of exec_pourPartial fun c s ⟨hnone, hfree, hspace, hopen⟩ =>
        (pourPartialBody_starts hnone hfree).trans (congrArg Except.ok (startPour_fails hspace hopen)),
      fun d => ⟨completes_of exec_pourPattern fun c s ⟨hnone, hflash, hreadOnly, hdir, hgolden⟩ =>
          (pourPatternBody_starts hnone).trans (congrArg Except.ok (startPour_full hflash hreadOnly hdir hgolden)),
        completes_of exec_pourPartial fun c s ⟨⟨hnone, hflash, hreadOnly, hdir, hgolden⟩, hfree⟩ =>
          (pourPartialBody_starts hnone hfree).trans (congrArg Except.ok (startPour_full hflash hreadOnly hdir hgolden))⟩⟩,
    ⟨completes_of exec_isolatePaddock fun c s ⟨hstate, hfree, hports⟩ => isolateBody_begins hstate hfree hports,
      completes_of exec_releasePaddock fun c s ⟨hstate, hpoured, hfree, hplain, hfreed⟩ =>
        releasePdkBody_now hstate hpoured hfree hplain hfreed,
      completes_of exec_releasePaddock fun c s ⟨hstate, hpoured, hfree, hagain, hfreed⟩ =>
        releasePdkBody_again hstate hpoured hfree hagain hfreed,
      completes_of exec_releasePaddock fun c s ⟨hstate, hpoured, hfree, hheld⟩ =>
        releasePdkBody_waits hstate hpoured hfree hheld⟩,
    completes_of exec_setReleaseOrder fun c s _ => rfl⟩

end Sys2Proof.Proofs
end
